-- ==== Sys2Proof/Word.lean ====
section
/-! DEFINITION. The word types of the LV-3200 (R6, R9, R12) and the names of its agents' places. -/

namespace Sys2Proof

/-- A 64-bit register word (R12). -/
abbrev Word := BitVec 64

/-- One byte of memory (R6). -/
abbrev Byte := BitVec 8

/-- A 32-bit word: an instruction word (R76), a run value (R21), a format-table entry (R65). -/
abbrev Word32 := BitVec 32

/-- A program counter: a 52-bit job virtual address (R9). -/
abbrev Pc := BitVec 52

/-- An 80-bit accumulator value (R55). -/
abbrev A80 := BitVec 80

/-- A global core number g = 16 d + core (R3). -/
abbrev CoreId := BitVec 9

/-- A die number (R3). -/
abbrev DieId := BitVec 5

/-- An agent identifier (R30). -/
abbrev AgentId := BitVec 32

end Sys2Proof
end

