-- ==== Sys2Proof/Syntax.lean ====
section
/-! DEFINITION. The instructions of the LV-3200: one constructor of `Instr` for each row of the opcode table,
the 275 encoded instructions of the four streams (R80–R88) and the 84 events of the machine. An event's row has no
encoding and no fields: which slot, link or request it concerns stands in the state (`State.ev`). -/

namespace Sys2Proof

/-- The four streams of a thread and the engines that run them (R9). -/
inductive Stream | scalar | vector | matrix | copy
deriving DecidableEq, Repr

/-- The stream's number (R9). -/
def Stream.num : Stream → Nat
  | .scalar => 0 | .vector => 1 | .matrix => 2 | .copy => 3

/-- Synchronisation scopes, in the order of their codes (R35). -/
inductive Scope | stream | thread | core | cluster | die | quad | pkg | ring | job | host
deriving DecidableEq, Repr

def Scope.code : Scope → Nat
  | .stream => 0 | .thread => 1 | .core => 2 | .cluster => 3 | .die => 4
  | .quad => 5 | .pkg => 6 | .ring => 7 | .job => 8 | .host => 9

/-- Access sizes of the scalar loads and stores (R81). -/
inductive MemSize | byte | half | word | double
deriving DecidableEq, Repr

def MemSize.code : MemSize → Nat
  | .byte => 0 | .half => 1 | .word => 2 | .double => 3

/-- Access sizes of an AMO (R82). -/
inductive AmoSize | word | double
deriving DecidableEq, Repr

def AmoSize.code : AmoSize → Nat
  | .word => 2 | .double => 3

/-- Element types of the vector stream, in the order of their `t` codes (R81). -/
inductive VType | f32 | bf16 | i32
deriving DecidableEq, Repr

def VType.code : VType → Nat
  | .f32 => 0 | .bf16 => 1 | .i32 => 2

/-- Rounding modes (R27). -/
inductive RoundMode | rne | rz | rup | rdn
deriving DecidableEq, Repr

def RoundMode.code : RoundMode → Nat
  | .rne => 0 | .rz => 1 | .rup => 2 | .rdn => 3

/-- Rows that MLDA, MSTA and MSTQ move (R81). -/
inductive RowSel | all | lo | hi
deriving DecidableEq, Repr

def RowSel.code : RowSel → Nat
  | .all => 0 | .lo => 1 | .hi => 2

/-- The mask operand of a VR word: absent, or the register of `?vN` (R81). -/
abbrev VMask := Option (BitVec 5)

/-- VR operands d, a, b, mask, c, t. -/
structure VArgs3 where
  d : BitVec 5
  a : BitVec 5
  b : BitVec 5
  mask : VMask
  c : Bool
  t : VType
deriving DecidableEq, Repr

/-- VR operands of the forms with b zero. -/
structure VArgs2 where
  d : BitVec 5
  a : BitVec 5
  mask : VMask
  c : Bool
  t : VType
deriving DecidableEq, Repr

/-- VR operands of the forms with b, m and me zero. -/
structure VArgs1 where
  d : BitVec 5
  a : BitVec 5
  c : Bool
  t : VType
deriving DecidableEq, Repr

/-- VR operands of the integer forms, whose t is INT32. -/
structure VArgsI where
  d : BitVec 5
  a : BitVec 5
  b : BitVec 5
  mask : VMask
  c : Bool
deriving DecidableEq, Repr

/-- VCVT: t is the destination type, src the source type (R85). -/
structure VCvtArgs where
  d : BitVec 5
  a : BitVec 5
  mask : VMask
  c : Bool
  t : VType
  src : VType
deriving DecidableEq, Repr

/-- VSEL: the mask is required (R85). -/
structure VSelArgs where
  d : BitVec 5
  a : BitVec 5
  b : BitVec 5
  m : BitVec 5
  c : Bool
  t : VType
deriving DecidableEq, Repr

/-- VSEG forms: no mask (R85). -/
structure VSegArgs where
  d : BitVec 5
  a : BitVec 5
  b : BitVec 5
  c : Bool
  t : VType
deriving DecidableEq, Repr

/-- VRED forms: d names an exchange register (R85). -/
structure VRedArgs where
  e : BitVec 3
  a : BitVec 5
  t : VType
deriving DecidableEq, Repr

/-- VM operands: register, handle, row register, group code, row immediate, type (R81). -/
structure VMemArgs where
  d : BitVec 5
  h : BitVec 4
  rs : BitVec 5
  g : BitVec 2
  imm : BitVec 8
  t : VType
deriving DecidableEq, Repr

/-- VS operands: run register, matrix register, row or column, index register and immediate, full/empty action,
type (R81). -/
structure VTileArgs where
  d : BitVec 5
  mr : BitVec 3
  col : Bool
  rs : BitVec 5
  imm : BitVec 7
  ef : Bool
  t : VType
deriving DecidableEq, Repr

/-- MA operands (R80). -/
structure MmaArgs where
  md : BitVec 3
  ha : BitVec 4
  hb : BitVec 4
  fs : BitVec 4
  z : Bool
  f : Bool
  ao : BitVec 4
  bo : BitVec 4
deriving DecidableEq, Repr

/-- MS operands of MLDA, whose fs is zero (R87). -/
structure MldaArgs where
  md : BitVec 3
  h : BitVec 4
  om : BitVec 4
  e : Bool
  rm : RowSel
deriving DecidableEq, Repr

/-- MS operands of MSTA and MSTQ. -/
structure MstaArgs where
  md : BitVec 3
  h : BitVec 4
  fs : BitVec 4
  om : BitVec 4
  e : Bool
  rm : RowSel
deriving DecidableEq, Repr

/-- CC operands of CPY and LCPY. -/
structure CcArgs where
  hs : BitVec 4
  hd : BitVec 4
  p : BitVec 5
  tag : BitVec 6
  r : Bool
deriving DecidableEq, Repr

/-- CC operands of the crc forms, whose r is 1 (R204). -/
structure CcCrcArgs where
  hs : BitVec 4
  hd : BitVec 4
  p : BitVec 5
  tag : BitVec 6
deriving DecidableEq, Repr

/-- CC operands of the forms with hs zero: fill and CATOM. -/
structure CdArgs where
  hd : BitVec 4
  p : BitVec 5
  tag : BitVec 6
  r : Bool
deriving DecidableEq, Repr

/-- CX operands of XCPY and WPUT. -/
structure CxArgs where
  hs : BitVec 4
  hd : BitVec 4
  ch : BitVec 6
  p : BitVec 5
  r : Bool
deriving DecidableEq, Repr

/-- CX operands of the crc forms, whose r is 1 (R204). -/
structure CxCrcArgs where
  hs : BitVec 4
  hd : BitVec 4
  ch : BitVec 6
  p : BitVec 5
deriving DecidableEq, Repr

/-- COLL operands. -/
structure CollArgs where
  p : BitVec 5
  tag : BitVec 6
  r : Bool
deriving DecidableEq, Repr

/-- The instructions and events of the machine, in the opcode table's order. -/
inductive Instr
  /-- `ADD` (R97). Writes the 64-bit sum of two scalar registers. -/
  | add (d a b : BitVec 5)
  /-- `SUB` (R97). Writes the 64-bit difference of two scalar registers. -/
  | sub (d a b : BitVec 5)
  /-- `AND` (R97). Writes the bitwise AND of two scalar registers. -/
  | and (d a b : BitVec 5)
  /-- `OR` (R97). Writes the bitwise OR of two scalar registers. -/
  | or (d a b : BitVec 5)
  /-- `XOR` (R97). Writes the bitwise XOR of two scalar registers. -/
  | xor (d a b : BitVec 5)
  /-- `ANDN` (R97). Writes A AND NOT B. -/
  | andn (d a b : BitVec 5)
  /-- `SLL` (R97). Shifts A left by B[5:0]. -/
  | sll (d a b : BitVec 5)
  /-- `SRL` (R97). Shifts A right logically by B[5:0]. -/
  | srl (d a b : BitVec 5)
  /-- `SRA` (R97). Shifts A right arithmetically by B[5:0]. -/
  | sra (d a b : BitVec 5)
  /-- `SLT` (R97). Writes 1 if A is less than B signed. -/
  | slt (d a b : BitVec 5)
  /-- `SLTU` (R97). Writes 1 if A is less than B unsigned. -/
  | sltu (d a b : BitVec 5)
  /-- `SEQ` (R97). Writes 1 if A equals B. -/
  | seq (d a b : BitVec 5)
  /-- `MIN` (R97). Writes the signed minimum. -/
  | min (d a b : BitVec 5)
  /-- `MAX` (R97). Writes the signed maximum. -/
  | max (d a b : BitVec 5)
  /-- `MINU` (R97). Writes the unsigned minimum. -/
  | minu (d a b : BitVec 5)
  /-- `MAXU` (R97). Writes the unsigned maximum. -/
  | maxu (d a b : BitVec 5)
  /-- `MUL` (R97). Writes the low 64 bits of the product. -/
  | mul (d a b : BitVec 5)
  /-- `MULH` (R97). Writes the high 64 bits of the signed product. -/
  | mulh (d a b : BitVec 5)
  /-- `MULHU` (R97). Writes the high 64 bits of the unsigned product. -/
  | mulhu (d a b : BitVec 5)
  /-- `DIV` (R98). Writes the signed quotient, all-ones on division by zero. -/
  | div (d a b : BitVec 5)
  /-- `DIVU` (R98). Writes the unsigned quotient. -/
  | divu (d a b : BitVec 5)
  /-- `REM` (R98). Writes the signed remainder with the sign of A. -/
  | rem (d a b : BitVec 5)
  /-- `REMU` (R98). Writes the unsigned remainder. -/
  | remu (d a b : BitVec 5)
  /-- `CLZ` (R97). Counts leading zero bits of A. -/
  | clz (d a : BitVec 5)
  /-- `CTZ` (R97). Counts trailing zero bits of A. -/
  | ctz (d a : BitVec 5)
  /-- `POPC` (R97). Counts one bits of A. -/
  | popc (d a : BitVec 5)
  /-- `ADDI` (R99). Adds a sign-extended immediate. -/
  | addi (d a : BitVec 5) (imm : BitVec 16)
  /-- `ANDI` (R99). ANDs a zero-extended immediate. -/
  | andi (d a : BitVec 5) (imm : BitVec 16)
  /-- `ORI` (R99). ORs a zero-extended immediate. -/
  | ori (d a : BitVec 5) (imm : BitVec 16)
  /-- `XORI` (R99). XORs a zero-extended immediate. -/
  | xori (d a : BitVec 5) (imm : BitVec 16)
  /-- `SLTI` (R99). Writes 1 if A is less than the signed immediate. -/
  | slti (d a : BitVec 5) (imm : BitVec 16)
  /-- `SHORI` (R99). Shifts A left 16 and ORs in the immediate. -/
  | shori (d a : BitVec 5) (imm : BitVec 16)
  /-- `SLLI` (R99). Shifts left by an immediate count. -/
  | slli (d a : BitVec 5) (n : BitVec 6)
  /-- `SRLI` (R99). Shifts right logically by an immediate count. -/
  | srli (d a : BitVec 5) (n : BitVec 6)
  /-- `SRAI` (R99). Shifts right arithmetically by an immediate count. -/
  | srai (d a : BitVec 5) (n : BitVec 6)
  /-- `BEQ` (R100). Branches when the registers are equal. -/
  | beq (a b : BitVec 5) (off : BitVec 16)
  /-- `BNE` (R100). Branches when the registers differ. -/
  | bne (a b : BitVec 5) (off : BitVec 16)
  /-- `BLT` (R100). Branches when A is less than B signed. -/
  | blt (a b : BitVec 5) (off : BitVec 16)
  /-- `BGE` (R100). Branches when A is at least B signed. -/
  | bge (a b : BitVec 5) (off : BitVec 16)
  /-- `BLTU` (R100). Branches when A is less than B unsigned. -/
  | bltu (a b : BitVec 5) (off : BitVec 16)
  /-- `BGEU` (R100). Branches when A is at least B unsigned. -/
  | bgeu (a b : BitVec 5) (off : BitVec 16)
  /-- `JAL` (R100). Jumps pc-relative and writes the link address. -/
  | jal (d : BitVec 5) (off : BitVec 21)
  /-- `JALR` (R100). Jumps to register plus immediate and writes the link address. -/
  | jalr (d a : BitVec 5) (imm : BitVec 16)
  /-- `LD` (R106). Loads a sign-extended value after the access checks. -/
  | ld (d a : BitVec 5) (sz : MemSize) (byHome : Bool) (imm : BitVec 12)
  /-- `LDU` (R106). Loads a zero-extended value after the access checks. -/
  | ldu (d a : BitVec 5) (sz : MemSize) (byHome : Bool) (imm : BitVec 12)
  /-- `ST` (R106). Stores the low bytes of a register after the access checks. -/
  | st (d a : BitVec 5) (sz : MemSize) (imm : BitVec 12)
  /-- `LDA` (R108). Acquiring load read at home at the named scope. -/
  | lda (d a : BitVec 5) (sc : Scope) (sz : MemSize)
  /-- `STL` (R108). Releasing store at the named scope. -/
  | stl (d a : BitVec 5) (sc : Scope) (sz : MemSize)
  /-- `AMO_ADD` (R109). Indivisible add at the home of the address. -/
  | amoAdd (d a b : BitVec 5) (sc : Scope) (sz : AmoSize) (acqrel : Bool)
  /-- `AMO_AND` (R109). Indivisible AND at home. -/
  | amoAnd (d a b : BitVec 5) (sc : Scope) (sz : AmoSize) (acqrel : Bool)
  /-- `AMO_OR` (R109). Indivisible OR at home. -/
  | amoOr (d a b : BitVec 5) (sc : Scope) (sz : AmoSize) (acqrel : Bool)
  /-- `AMO_XOR` (R109). Indivisible XOR at home. -/
  | amoXor (d a b : BitVec 5) (sc : Scope) (sz : AmoSize) (acqrel : Bool)
  /-- `AMO_MIN` (R109). Indivisible signed minimum at home. -/
  | amoMin (d a b : BitVec 5) (sc : Scope) (sz : AmoSize) (acqrel : Bool)
  /-- `AMO_MAX` (R109). Indivisible signed maximum at home. -/
  | amoMax (d a b : BitVec 5) (sc : Scope) (sz : AmoSize) (acqrel : Bool)
  /-- `AMO_MINU` (R109). Indivisible unsigned minimum at home. -/
  | amoMinu (d a b : BitVec 5) (sc : Scope) (sz : AmoSize) (acqrel : Bool)
  /-- `AMO_MAXU` (R109). Indivisible unsigned maximum at home. -/
  | amoMaxu (d a b : BitVec 5) (sc : Scope) (sz : AmoSize) (acqrel : Bool)
  /-- `AMO_SWAP` (R109). Indivisible swap at home. -/
  | amoSwap (d a b : BitVec 5) (sc : Scope) (sz : AmoSize) (acqrel : Bool)
  /-- `AMO_CAS` (R109). Indivisible compare-and-swap at home. -/
  | amoCas (d a b : BitVec 5) (sc : Scope) (sz : AmoSize) (acqrel : Bool)
  /-- `LD_SC` (R110). Wheel-ordered sequentially consistent load. -/
  | ldSc (d a : BitVec 5) (j : BitVec 3)
  /-- `ST_SC` (R110). Wheel-ordered sequentially consistent store. -/
  | stSc (a b : BitVec 5) (j : BitVec 3)
  /-- `AMOADD_SC` (R110). Wheel-ordered sequentially consistent add. -/
  | amoaddSc (d a b : BitVec 5) (j : BitVec 3)
  /-- `SWAP_SC` (R110). Wheel-ordered sequentially consistent swap. -/
  | swapSc (d a b : BitVec 5) (j : BitVec 3)
  /-- `CAS_SC` (R110). Wheel-ordered sequentially consistent compare-and-swap. -/
  | casSc (d a b : BitVec 5) (j : BitVec 3)
  /-- `FENCE_FULL` (R113). Orders all earlier before all later accesses at a scope. -/
  | fenceFull (sc : Scope)
  /-- `FENCE_ACQ` (R113). Acquire fence at a scope. -/
  | fenceAcq (sc : Scope)
  /-- `FENCE_REL` (R113). Release fence at a scope. -/
  | fenceRel (sc : Scope)
  /-- `FENCE_ENGINES` (R114). Waits for the thread's issued engine work, then orders as FENCE.FULL. -/
  | fenceEngines (sc : Scope)
  /-- `OWN_LEND` (R122). Transfers ownership of a region to another agent. -/
  | ownLend (d a b : BitVec 5)
  /-- `OWN_RET` (R122). Returns a lent region to its home. -/
  | ownRet (d a : BitVec 5)
  /-- `OWN_SPLIT` (R122). Splits a region entry into two halves. -/
  | ownSplit (d a : BitVec 5)
  /-- `OWN_JOIN` (R122). Joins two half entries into their parent. -/
  | ownJoin (d a : BitVec 5)
  /-- `OWN_SHARE` (R122). Grants a read share of a region to an agent. -/
  | ownShare (d a b : BitVec 5)
  /-- `OWN_DROP` (R122). Drops one share held by the caller. -/
  | ownDrop (d a : BitVec 5)
  /-- `OWN_QRY` (R120). Returns the QRY word of a region. -/
  | ownQry (d a : BitVec 5)
  /-- `OWN_WAIT` (R122). Blocks until the caller owns or shares the region, then acquires. -/
  | ownWait (d a : BitVec 5)
  /-- `OWN_CLAIM` (R122). Supervisor takes a LOST region in EXCL. -/
  | ownClaim (d a : BitVec 5)
  /-- `WOPEN` (R125). Opens a window with a writer set and zeroes its counter. -/
  | wopen (d a b : BitVec 5)
  /-- `WCLOSE` (R125). Closes a window after admitted puts are performed and returns the counter. -/
  | wclose (d a : BitVec 5)
  /-- `WWAIT` (R125). Blocks until the window counter reaches a target, then acquires. -/
  | wwait (d a b : BitVec 5)
  /-- `WCNT` (R125). Reads the window counter without ordering. -/
  | wcnt (d a : BitVec 5)
  /-- `WRST` (R125). Resets the window counter and returns its old value. -/
  | wrst (d a : BitVec 5)
  /-- `POST` (R17). Scalar stream adds a count to a stream counter. -/
  | post (a : BitVec 5) (k : BitVec 4)
  /-- `WAIT` (R17). Scalar stream blocks until a counter reaches a count and subtracts it. -/
  | wait (a : BitVec 5) (k : BitVec 4)
  /-- `ARRIVE` (R126). Arrives at a barrier phase with release semantics. -/
  | arrive (n : BitVec 4) (sc : Scope)
  /-- `BWAIT` (R126). Blocks until the caller's arrival phase completes, then acquires. -/
  | bwait (n : BitVec 4) (sc : Scope)
  /-- `MWAIT_SYNC` (R127). Sleeps while a monitored doubleword equals a value. -/
  | mwaitSync (a b : BitVec 5)
  /-- `SLEEP` (R130). Blocks the scalar stream for a cycle count. -/
  | sleep (a : BitVec 5)
  /-- `HLD` (R131). Loads a 32-byte handle from memory. -/
  | hld (hd : BitVec 4) (a : BitVec 5)
  /-- `HST` (R131). Stores a handle to memory. -/
  | hst (hd : BitVec 4) (a : BitVec 5)
  /-- `HSETW` (R131). Writes one word of a handle. -/
  | hsetw (hd : BitVec 4) (a : BitVec 5) (w : BitVec 2)
  /-- `HGETW` (R131). Reads one word of a handle. -/
  | hgetw (d : BitVec 5) (ha : BitVec 4) (w : BitVec 2)
  /-- `HADDB` (R131). Adds a value to a handle's base word. -/
  | haddb (hd : BitVec 4) (a : BitVec 5)
  /-- `OMLD` (R131). Loads six offset-map coefficients. -/
  | omld (om : BitVec 4) (a : BitVec 5)
  /-- `LOOP_IMM` (R132). Starts a scalar hardware loop with an immediate count. -/
  | loopImm (lv : BitVec 3) (cnt : BitVec 10) (len : BitVec 12)
  /-- `LOOP_REG` (R132). Starts a scalar hardware loop with a register count. -/
  | loopReg (lv : BitVec 3) (rs : BitVec 5) (len : BitVec 12)
  /-- `BQ_EMPTY` (R133). Branches when the completion ring is empty. -/
  | bqEmpty (off : BitVec 16)
  /-- `BQ_NONEMPTY` (R133). Branches when the ring is non-empty. -/
  | bqNonempty (off : BitVec 16)
  /-- `BQ_POISON` (R133). Branches when the head record's poison mask is non-zero. -/
  | bqPoison (off : BitVec 16)
  /-- `BQ_FAULT` (R133). Branches when the head record's fault code is non-zero. -/
  | bqFault (off : BitVec 16)
  /-- `BQ_OK` (R133). Branches when the head record's status is OK. -/
  | bqOk (off : BitVec 16)
  /-- `CQPOP` (R134). Pops the head completion record into e0-e3. -/
  | cqpop (d : BitVec 5)
  /-- `CQPEEK` (R134). Reads bytes 0-7 of the head record without popping. -/
  | cqpeek (d : BitVec 5)
  /-- `DQPUSH` (R135). Pushes an item on the core's work deque. -/
  | dqpush (d a : BitVec 5)
  /-- `DQPOP` (R135). Pops the bottom item of the core's deque. -/
  | dqpop (d : BitVec 5)
  /-- `DQSTEAL` (R135). Takes the top item of another core's deque. -/
  | dqsteal (d a : BitVec 5)
  /-- `DQLEN` (R135). Returns the deque length. -/
  | dqlen (d : BitVec 5)
  /-- `LAUNCH` (R136). Reads a launch record and submits it to the pending-launch pool. -/
  | launch (d a : BitVec 5)
  /-- `CSRR` (R137). Reads a CSR. -/
  | csrr (d : BitVec 5) (csr : BitVec 12)
  /-- `CSRW` (R137). Writes a CSR and returns its old value. -/
  | csrw (d a : BitVec 5) (csr : BitVec 12)
  /-- `CSRS` (R137). Sets CSR bits and returns the old value. -/
  | csrs (d a : BitVec 5) (csr : BitVec 12)
  /-- `CSRC` (R137). Clears CSR bits and returns the old value. -/
  | csrc (d a : BitVec 5) (csr : BitVec 12)
  /-- `FTSET` (R139). Writes a format-table slot unchecked. -/
  | ftset (ft : BitVec 4) (a : BitVec 5)
  /-- `FTGET` (R139). Reads a format-table slot. -/
  | ftget (d : BitVec 5) (ft : BitVec 4)
  /-- `MOVE_TO_E` (R139). Writes an exchange register from a scalar register. -/
  | moveToE (e : BitVec 3) (a : BitVec 5)
  /-- `MOVE_FROM_E` (R139). Reads an exchange register into a scalar register. -/
  | moveFromE (d : BitVec 5) (e : BitVec 3)
  /-- `FSTEP` (R140). Increments the launch's fabric stage counter. -/
  | fstep (d : BitVec 5)
  /-- `CIRQ` (R341). Reads the state of a circuit handle. -/
  | cirq (d : BitVec 5) (ch : BitVec 6)
  /-- `PUBLISH` (R141). Flips a buffer pair's visible half and bumps its publish count. -/
  | publish (ha : BitVec 4)
  /-- `PUBQ` (R141). Reads the publish count with acquire semantics. -/
  | pubq (d : BitVec 5) (ha : BitVec 4)
  /-- `VADD` (R150). Element-wise floating-point add on runs. -/
  | vadd (o : VArgs3)
  /-- `VSUB` (R150). Element-wise floating-point subtract. -/
  | vsub (o : VArgs3)
  /-- `VMUL` (R150). Element-wise floating-point multiply. -/
  | vmul (o : VArgs3)
  /-- `VFMA` (R150). Fused multiply-add into d. -/
  | vfma (o : VArgs3)
  /-- `VFNMA` (R150). Fused negated multiply-add into d. -/
  | vfnma (o : VArgs3)
  /-- `VDIV` (R150). Element-wise floating-point divide. -/
  | vdiv (o : VArgs3)
  /-- `VMIN` (R151). IEEE minimum. -/
  | vmin (o : VArgs3)
  /-- `VMIN_NUM` (R151). IEEE minimumNumber. -/
  | vminNum (o : VArgs3)
  /-- `VMAX` (R151). IEEE maximum. -/
  | vmax (o : VArgs3)
  /-- `VMAX_NUM` (R151). IEEE maximumNumber. -/
  | vmaxNum (o : VArgs3)
  /-- `VSQRT` (R152). Element-wise square root. -/
  | vsqrt (o : VArgs2)
  /-- `VABS` (R152). Clears the sign bit. -/
  | vabs (o : VArgs2)
  /-- `VNEG` (R152). Inverts the sign bit. -/
  | vneg (o : VArgs2)
  /-- `VRINT` (R152). Rounds to an integral value. -/
  | vrint (o : VArgs2)
  /-- `VEXP2` (R153). Computes 2^x. -/
  | vexp2 (o : VArgs1)
  /-- `VLOG2` (R153). Computes log2 x. -/
  | vlog2 (o : VArgs1)
  /-- `VRCP` (R153). Computes 1/x. -/
  | vrcp (o : VArgs1)
  /-- `VRSQ` (R153). Computes 1/sqrt x. -/
  | vrsq (o : VArgs1)
  /-- `VTANH` (R153). Computes tanh. -/
  | vtanh (o : VArgs1)
  /-- `VSIN` (R153). Computes sine. -/
  | vsin (o : VArgs1)
  /-- `VCOS` (R153). Computes cosine. -/
  | vcos (o : VArgs1)
  /-- `VERF` (R153). Computes erf. -/
  | verf (o : VArgs1)
  /-- `VCMP_EQ` (R154). Compares for equality into INT32 runs. -/
  | vcmpEq (o : VArgs3)
  /-- `VCMP_LT` (R154). Compares less-than. -/
  | vcmpLt (o : VArgs3)
  /-- `VCMP_LE` (R154). Compares less-or-equal. -/
  | vcmpLe (o : VArgs3)
  /-- `VCMP_UNORD` (R154). Tests unordered. -/
  | vcmpUnord (o : VArgs3)
  /-- `VCMP_NE` (R154). Compares not-equal. -/
  | vcmpNe (o : VArgs3)
  /-- `VCMP_GT` (R154). Compares greater-than. -/
  | vcmpGt (o : VArgs3)
  /-- `VCMP_GE` (R154). Compares greater-or-equal. -/
  | vcmpGe (o : VArgs3)
  /-- `VCMP_ORD` (R154). Tests ordered. -/
  | vcmpOrd (o : VArgs3)
  /-- `VSEL` (R155). Selects a or b per the mask. -/
  | vsel (o : VSelArgs)
  /-- `VCVT` (R156). Converts between FP32, BF16 and INT32. -/
  | vcvt (o : VCvtArgs)
  /-- `VIADD` (R157). Integer add modulo 2^32. -/
  | viadd (o : VArgsI)
  /-- `VISUB` (R157). Integer subtract modulo 2^32. -/
  | visub (o : VArgsI)
  /-- `VIMUL` (R157). Integer multiply, low 32 bits. -/
  | vimul (o : VArgsI)
  /-- `VAND` (R157). Bitwise AND on runs. -/
  | vand (o : VArgs3)
  /-- `VOR` (R157). Bitwise OR on runs. -/
  | vor (o : VArgs3)
  /-- `VXOR` (R157). Bitwise XOR on runs. -/
  | vxor (o : VArgs3)
  /-- `VANDN` (R157). Bitwise a AND NOT b on runs. -/
  | vandn (o : VArgs3)
  /-- `VSLL` (R157). Integer shift left. -/
  | vsll (o : VArgsI)
  /-- `VSRL` (R157). Integer logical shift right. -/
  | vsrl (o : VArgsI)
  /-- `VSRA` (R157). Integer arithmetic shift right. -/
  | vsra (o : VArgsI)
  /-- `VIMIN` (R157). Signed integer minimum. -/
  | vimin (o : VArgsI)
  /-- `VIMAX` (R157). Signed integer maximum. -/
  | vimax (o : VArgsI)
  /-- `VIMINU` (R157). Unsigned integer minimum. -/
  | viminu (o : VArgsI)
  /-- `VIMAXU` (R157). Unsigned integer maximum. -/
  | vimaxu (o : VArgsI)
  /-- `VRED_SUM_T` (R168). Tree sum of a register into an exchange register. -/
  | vredSumT (o : VRedArgs)
  /-- `VRED_SUM_R` (R168). Run-order A80 sum into an exchange register. -/
  | vredSumR (o : VRedArgs)
  /-- `VRED_MAX` (R168). Maximum of all elements into an exchange register. -/
  | vredMax (o : VRedArgs)
  /-- `VRED_MIN` (R168). Minimum of all elements into an exchange register. -/
  | vredMin (o : VRedArgs)
  /-- `VREDROW_SUM` (R169). Sums each row. -/
  | vredrowSum (o : VArgs1)
  /-- `VREDROW_MAX` (R169). Maximum of each row. -/
  | vredrowMax (o : VArgs1)
  /-- `VREDROW_MIN` (R169). Minimum of each row. -/
  | vredrowMin (o : VArgs1)
  /-- `VSCAN_SUM_I` (R170). Inclusive prefix sum. -/
  | vscanSumI (o : VArgs1)
  /-- `VSCAN_SUM_E` (R170). Exclusive prefix sum. -/
  | vscanSumE (o : VArgs1)
  /-- `VSCAN_MAX_I` (R170). Inclusive running maximum. -/
  | vscanMaxI (o : VArgs1)
  /-- `VRCOAL` (R172). Merges adjacent bit-identical runs. -/
  | vrcoal (d a : BitVec 5)
  /-- `VRCNT` (R172). Writes nruns into an exchange register. -/
  | vrcnt (e : BitVec 3) (a : BitVec 5)
  /-- `VRLEN` (R172). Writes L into an exchange register. -/
  | vrlen (e : BitVec 3) (a : BitVec 5)
  /-- `VSEGSUM_E` (R171). Segment sums spread over each segment. -/
  | vsegsumE (o : VSegArgs)
  /-- `VSEGSUM_P` (R171). One sum per segment. -/
  | vsegsumP (o : VSegArgs)
  /-- `VSEGMAX_E` (R171). Segment maxima spread over each segment. -/
  | vsegmaxE (o : VSegArgs)
  /-- `VSEGCNT_P` (R171). Element count of each segment. -/
  | vsegcntP (o : VSegArgs)
  /-- `VIOTA` (R173). Writes element i = i. -/
  | viota (d : BitVec 5) (t : VType)
  /-- `VSPLAT` (R174). Writes one run of a scalar value. -/
  | vsplat (d rs : BitVec 5) (t : VType)
  /-- `VSPLATI` (R174). Writes one run of an FP32 immediate. -/
  | vsplati (d : BitVec 5) (imm : BitVec 16)
  /-- `VSHAPE_IMM` (R159). Sets the vector shape from an immediate. -/
  | vshapeImm (cols rows : BitVec 8)
  /-- `VSHAPE_REG` (R159). Sets the vector shape from a scalar register. -/
  | vshapeReg (rs : BitVec 5)
  /-- `VLD` (R162). Loads a group of run registers from the scratchpad, coalescing. -/
  | vld (o : VMemArgs)
  /-- `VST` (R162). Stores a group of run registers as dense elements. -/
  | vst (o : VMemArgs)
  /-- `VLDR` (R162). Loads run registers from RLE32 records. -/
  | vldr (o : VMemArgs)
  /-- `VSTR` (R162). Stores run registers as RLE32 records. -/
  | vstr (o : VMemArgs)
  /-- `VFROMM` (R165). Converts a matrix row or column into a run register. -/
  | vfromm (o : VTileArgs)
  /-- `VTOM` (R165). Writes a run register into a matrix row or column. -/
  | vtom (o : VTileArgs)
  /-- `VMOV` (R166). Copies a group of run registers whole. -/
  | vmov (d a : BitVec 5) (g : BitVec 2)
  /-- `VPOST` (R175). Vector stream adds a count to a counter at issue. -/
  | vpost (k : BitVec 4) (imm : BitVec 16)
  /-- `VWAIT` (R175). Vector stream waits on a counter. -/
  | vwait (k : BitVec 4) (imm : BitVec 16)
  /-- `VSETRM` (R175). Sets the vector rounding mode. -/
  | vsetrm (rm : RoundMode)
  /-- `VCLRF` (R175). Waits for landing, then clears VCSR flags. -/
  | vclrf (flags : BitVec 5)
  /-- `VLOOP_IMM` (R176). Starts a vector hardware loop with an immediate count. -/
  | vloopImm (lv : BitVec 3) (cnt : BitVec 10) (len : BitVec 12)
  /-- `VLOOP_REG` (R176). Starts a vector hardware loop with a register count. -/
  | vloopReg (lv : BitVec 3) (rs : BitVec 5) (len : BitVec 12)
  /-- `MMA` (R183). Accumulates A times B into a matrix register over K-steps. -/
  | mma (o : MmaArgs)
  /-- `MMAT` (R183). As MMA with B read transposed. -/
  | mmat (o : MmaArgs)
  /-- `MLDA` (R189). Loads rows of a matrix register exactly to A80. -/
  | mlda (o : MldaArgs)
  /-- `MSTA` (R190). Stores accumulator rows in the output format. -/
  | msta (o : MstaArgs)
  /-- `MSTQ` (R191). Stores accumulator rows as block-scaled E2M1-X. -/
  | mstq (o : MstaArgs)
  /-- `MCLR` (R194). Clears a matrix register and sets EMPTY at landing. -/
  | mclr (md : BitVec 3)
  /-- `MFULL` (R194). Sets a matrix register FULL at issue. -/
  | mfull (md : BitVec 3)
  /-- `MEMPTY` (R194). Sets a matrix register EMPTY at issue. -/
  | mempty (md : BitVec 3)
  /-- `MPOST` (R194). Matrix stream adds a count to a counter. -/
  | mpost (k : BitVec 4) (imm : BitVec 16)
  /-- `MWAIT_MCTL` (R194). Matrix stream waits on a counter. -/
  | mwaitMctl (k : BitVec 4) (imm : BitVec 16)
  /-- `MADD` (R194). Adds one matrix register into another. -/
  | madd (md ms : BitVec 3)
  /-- `MSCAL` (R194). Scales a matrix register by an FP32 factor. -/
  | mscal (md : BitVec 3) (rs : BitVec 5)
  /-- `MTRANS` (R194). Transposes a matrix register. -/
  | mtrans (md ms : BitVec 3)
  /-- `MLOOP_IMM` (R195). Starts a matrix hardware loop with an immediate count. -/
  | mloopImm (lv : BitVec 3) (cnt : BitVec 10) (len : BitVec 12)
  /-- `MLOOP_REG` (R195). Starts a matrix hardware loop with a register count. -/
  | mloopReg (lv : BitVec 3) (rs : BitVec 5) (len : BitVec 12)
  /-- `CPY` (R201). Copies a tensor unchanged as an operation. -/
  | cpy (o : CcArgs)
  /-- `CPY_CVT` (R201). Copies with format conversion. -/
  | cpyCvt (o : CcArgs)
  /-- `CPY_TR2D` (R201). Copies with a 2-D transpose. -/
  | cpyTr2d (o : CcArgs)
  /-- `CPY_SWZ` (R201). Copies with destination swizzle and tag stamp. -/
  | cpySwz (o : CcArgs)
  /-- `CPY_RLE` (R202). Encodes rows as RLE32 records. -/
  | cpyRle (o : CcArgs)
  /-- `CPY_UNRLE` (R202). Decodes RLE32 records into rows. -/
  | cpyUnrle (o : CcArgs)
  /-- `CPY_Q4` (R201). Quantises to block-scaled E2M1-X. -/
  | cpyQ4 (o : CcArgs)
  /-- `CPY_DEQ` (R201). Dequantises block-scaled data. -/
  | cpyDeq (o : CcArgs)
  /-- `CPY_GATHER` (R201). Gathers rows by an index array. -/
  | cpyGather (o : CcArgs)
  /-- `CPY_SCATTER` (R201). Scatters rows by an index array. -/
  | cpyScatter (o : CcArgs)
  /-- `CPY_FILL` (R201). Fills a tensor with a value. -/
  | cpyFill (o : CdArgs)
  /-- `CPY_RADD` (R203). Adds the source into the destination at its home. -/
  | cpyRadd (o : CcArgs)
  /-- `CPY_CRC` (R204). Copies and computes a CRC-64 of the destination image. -/
  | cpyCrc (o : CcCrcArgs)
  /-- `XCPY` (R200). Copies to another die over a circuit. -/
  | xcpy (o : CxArgs)
  /-- `XCPY_CVT` (R200). Cross-die copy with conversion. -/
  | xcpyCvt (o : CxArgs)
  /-- `XCPY_RLE` (R200). Cross-die copy with RLE encoding. -/
  | xcpyRle (o : CxArgs)
  /-- `XCPY_UNRLE` (R200). Cross-die copy with RLE decoding. -/
  | xcpyUnrle (o : CxArgs)
  /-- `XCPY_CRC` (R200). Cross-die copy with CRC. -/
  | xcpyCrc (o : CxCrcArgs)
  /-- `WPUT` (R200). Puts data into a window. -/
  | wput (o : CxArgs)
  /-- `WPUT_CVT` (R200). Window put with conversion. -/
  | wputCvt (o : CxArgs)
  /-- `WPUT_RLE` (R200). Window put with RLE encoding. -/
  | wputRle (o : CxArgs)
  /-- `WPUT_UNRLE` (R200). Window put with RLE decoding. -/
  | wputUnrle (o : CxArgs)
  /-- `WPUT_CRC` (R200). Window put with CRC. -/
  | wputCrc (o : CxCrcArgs)
  /-- `LCPY` (R200). Copies to another module over a link. -/
  | lcpy (o : CcArgs)
  /-- `LCPY_CVT` (R200). Cross-module copy with conversion. -/
  | lcpyCvt (o : CcArgs)
  /-- `LCPY_RLE` (R200). Cross-module copy with RLE encoding. -/
  | lcpyRle (o : CcArgs)
  /-- `LCPY_UNRLE` (R200). Cross-module copy with RLE decoding. -/
  | lcpyUnrle (o : CcArgs)
  /-- `LCPY_CRC` (R200). Cross-module copy with CRC. -/
  | lcpyCrc (o : CcCrcArgs)
  /-- `CATOM_ADD` (R205). Copy-engine atomic add at the target's home. -/
  | catomAdd (o : CdArgs)
  /-- `CATOM_AND` (R205). Copy-engine atomic AND. -/
  | catomAnd (o : CdArgs)
  /-- `CATOM_OR` (R205). Copy-engine atomic OR. -/
  | catomOr (o : CdArgs)
  /-- `CATOM_XOR` (R205). Copy-engine atomic XOR. -/
  | catomXor (o : CdArgs)
  /-- `CATOM_MIN` (R205). Copy-engine atomic signed minimum. -/
  | catomMin (o : CdArgs)
  /-- `CATOM_MAX` (R205). Copy-engine atomic signed maximum. -/
  | catomMax (o : CdArgs)
  /-- `CATOM_MINU` (R205). Copy-engine atomic unsigned minimum. -/
  | catomMinu (o : CdArgs)
  /-- `CATOM_MAXU` (R205). Copy-engine atomic unsigned maximum. -/
  | catomMaxu (o : CdArgs)
  /-- `CATOM_SWAP` (R205). Copy-engine atomic swap. -/
  | catomSwap (o : CdArgs)
  /-- `CATOM_CAS` (R205). Copy-engine atomic compare-and-swap. -/
  | catomCas (o : CdArgs)
  /-- `COLL` (R206). Reads a collective record, lends buffers and hands the collective to a Millstone. -/
  | coll (o : CollArgs)
  /-- `CPOST` (R215). Copy stream adds a count to a counter. -/
  | cpost (k : BitVec 4) (imm : BitVec 16)
  /-- `CWAIT` (R215). Copy stream waits on a counter. -/
  | cwait (k : BitVec 4) (imm : BitVec 16)
  /-- `CREC` (R215). Waits as CFENCE then posts a SIGNAL record. -/
  | crec (imm : BitVec 16)
  /-- `CPUB` (R215). Waits as CFENCE then publishes a buffer pair. -/
  | cpub (k : BitVec 4)
  /-- `CLOOP_IMM` (R216). Starts a copy hardware loop with an immediate count. -/
  | cloopImm (lv : BitVec 3) (cnt : BitVec 10) (len : BitVec 12)
  /-- `CLOOP_REG` (R216). Starts a copy hardware loop with a register count. -/
  | cloopReg (lv : BitVec 3) (rs : BitVec 5) (len : BitVec 12)
  /-- `SCOP_SEND` (R110). A waiting SCOP is sent at its core's wheel position. -/
  | scopSend
  /-- `SCOP_ARRIVAL` (R264). A SCOP reaches its home die's ordering buffer. -/
  | scopArrival
  /-- `SCOP_APPLY` (R110). At send cycle plus 8,192 the home applies buffered SCOPs in key order and replies. -/
  | scopApply
  /-- `MWAIT_TIMEOUT` (R127). MWAIT ends 2^20 CCLK after its read. -/
  | mwaitTimeout
  /-- `YIELD` (R128). Pre-empts the thread if a candidate waits for its slot, else NOP. -/
  | yield
  /-- `ICSYNC` (R129). Acquires at .pkg and refetches later code. -/
  | icsync
  /-- `SLEEP_EXPIRY` (R130). The SLEEP count runs out and the stream continues. -/
  | sleepExpiry
  /-- `CQWAIT` (R134). Blocks until the ring holds a record. -/
  | cqwait
  /-- `CQWAITY` (R134). As CQWAIT, counting as yielded while blocked. -/
  | cqwaity
  /-- `NOP` (R138). Does nothing. -/
  | nop
  /-- `TRAP` (R138). Raises a synchronous fault with cause 0x80. -/
  | trap
  /-- `ERET` (R138). Leaves the handler and resumes stopped streams. -/
  | eret
  /-- `EXIT` (R138). Ends the scalar stream after vector and matrix results land. -/
  | exit
  /-- `BRK` (R138). Raises a synchronous fault with cause 0x81. -/
  | brk
  /-- `RUN_COUNT` (R147). An instruction held for its run count finishes counting and lands or faults. -/
  | runCount
  /-- `VLD_DATA_CHECK` (R163). VLD or VLDR finishes reading its data and releases issue or faults precisely. -/
  | vldDataCheck
  /-- `VLAND` (R175). Blocks until earlier vector results have landed. -/
  | vland
  /-- `VEND` (R175). Ends the vector stream after landing. -/
  | vend
  /-- `VECTOR_LANDING` (R90). An in-flight vector result lands, writing its register and ORing flags. -/
  | vectorLanding
  /-- `MMA_LANDING` (R186). An MMA lands its elements, sets FULL and posts its record when f = 1. -/
  | mmaLanding
  /-- `MATRIX_LANDING` (R90). A row-path or MCLR result lands and applies its full/empty change. -/
  | matrixLanding
  /-- `MLAND` (R194). Blocks until earlier matrix results have landed. -/
  | mland
  /-- `MEND` (R194). Ends the matrix stream after landing. -/
  | mend
  /-- `CFENCE` (R215). Blocks until earlier copy operations complete. -/
  | cfence
  /-- `CEND` (R215). Ends the copy stream at issue. -/
  | cend
  /-- `CHUNK_PERFORMED` (R210). A copy chunk is performed at home and counted once by a window. -/
  | chunkPerformed
  /-- `COPY_COMPLETE` (R213). A copy operation completes and posts its record if due. -/
  | copyComplete
  /-- `COPY_RESTART` (R209). Under automatic retry an operation restarts at its progress point once its circuit or link is up. -/
  | copyRestart
  /-- `STORE_PERFORMED` (R104). A completed store is performed at its home. -/
  | storePerformed
  /-- `PAGE_WALK` (R300). A walker completes a translation walk for merged TLB misses. -/
  | pageWalk
  /-- `PATROL` (R287). The patrol engine reads and corrects every scratchpad word once per 2^30 CCLK. -/
  | patrol
  /-- `HELD_RECORD_ENTRY` (R134). A record waiting for ring room enters the ring after a CQPOP frees an entry. -/
  | heldRecordEntry
  /-- `HANDLER_ENTRY` (R236). A stopping fault routed to the thread diverts the scalar stream to TVEC. -/
  | handlerEntry
  /-- `ASYNC_HANDLER_ENTRY` (R237). A record routed to destination 0 enters the handler without stopping streams. -/
  | asyncHandlerEntry
  /-- `FAULT_TO_CORELO` (R238). A stopping fault with no handler or routed to Corelo stops all streams and sends a FAULT record. -/
  | faultToCorelo
  /-- `THREAD_END_BY_CORELO` (R247). Corelo ends a thread, releasing its context. -/
  | threadEndByCorelo
  /-- `RETIREMENT` (R138). A thread retires when all streams have ended and its copies completed. -/
  | retirement
  /-- `SCRUB_COMPLETE` (R248). The scrub of both halves finishes and the slot becomes free. -/
  | scrubComplete
  /-- `LAUNCH_RECORD` (R323). After the last thread retires or a cancel, a LAUNCH record goes to the submitter. -/
  | launchRecord
  /-- `BIND` (R318). Corelo binds a candidate to a free slot and starts its streams. -/
  | bind
  /-- `PREEMPTION` (R242). Stops a thread's streams, saves its context image and frees the slot. -/
  | preemption
  /-- `RESUMPTION` (R244). Restores a saved thread into a free slot and resumes its streams. -/
  | resumption
  /-- `FABRIC_STEP` (R339). At each 128-CCLK fabric step the sequencer runs the launch's circuit program. -/
  | fabricStep
  /-- `CIRCUIT_LIVE` (R340). A settling circuit becomes live after S fabric steps. -/
  | circuitLive
  /-- `RING_TUNING_LOSS` (R346). Loss of ring tuning takes down a port and stops circuits on it. -/
  | ringTuningLoss
  /-- `LASER_FAILURE` (R346). A laser source fails, removing a wavelength from ports of one half. -/
  | laserFailure
  /-- `PORT_RETUNE` (R347). Corelo retunes a failed port, returning it to service. -/
  | portRetune
  /-- `CHUNK_FRAME` (R344). The receiver checks a chunk frame's CRC and sequence and checks it in. -/
  | chunkFrame
  /-- `ACK` (R344). A coalesced ACK on the control wavelength marks chunks performed at the sender. -/
  | ack
  /-- `NACK` (R344). A NACK makes the sender resend the named chunk. -/
  | nack
  /-- `NOTICE` (R345). A completion notice acts once all chunks below its sequence number are performed. -/
  | notice
  /-- `EXPRESS_FRAME` (R345). A scalar request, reply or SCOP crosses a circuit ahead of chunk frames. -/
  | expressFrame
  /-- `COLL_CONTRIBUTION` (R328). A Millstone unit matches an arriving COLL by job and key. -/
  | collContribution
  /-- `COLL_DELIVERY` (R329). The unit delivers the result, returns buffers and posts COLL records. -/
  | collDelivery
  /-- `FLIT` (R357). A link receiver checks in or discards an arriving flit. -/
  | flit
  /-- `LINK_ACK` (R357). A link ACK frees acknowledged flits from the replay buffer. -/
  | linkAck
  /-- `LINK_NACK` (R357). A link NACK makes the sender replay from the named flit. -/
  | linkNack
  /-- `MILLSTONE_FORWARD` (R358). The receiving Millstone carries an LCPY chunk or CATOM request to its home die over a live circuit. -/
  | millstoneForward
  /-- `MILLSTONE_HOLD_TIMEOUT` (R358). A chunk held 2^20 CCLK without a circuit is refused with F_NOCIRC. -/
  | millstoneHoldTimeout
  /-- `LANE_FAILURE` (R359). A lane loses lock or exceeds its CRC limit and starts a restripe. -/
  | laneFailure
  /-- `LANEMAP` (R360). A LANEMAP message fixes the new lane set and boundary. -/
  | laneMap
  /-- `RESTRIPE_BOUNDARY` (R360). At flit b both ends switch lane sets, replay and post a LINK record. -/
  | restripeBoundary
  /-- `LANE_RETUNED` (R360). A lane retuned by Fantail returns through the restripe handshake. -/
  | laneRetuned
  /-- `RETRAIN` (R361). A lane set past its CRC limit starts a retrain at a lower rate. -/
  | retrain
  /-- `RETRAIN_DONE` (R361). Lane training ends and the link returns UP with replay. -/
  | retrainDone
  /-- `RETRAIN_TIMEOUT` (R361). A retrain not UP within 2^21 CCLK takes the link DOWN. -/
  | retrainTimeout
  /-- `LINK_DOWN` (R362). The link goes DOWN, discarding flits and stopping operations. -/
  | linkDown
  /-- `BRING_UP` (R365). Fantail attempts bring-up every 2^20 CCLK: training, identity, version, width. -/
  | bringUp
  /-- `QUIESCE_DRAINED` (R367). The drain ends and the link becomes QUIESCED. -/
  | quiesceDrained
  /-- `VETO_TIMEOUT` (R369). A remote-atomic veto held 100 us is broken and the CATOM faults. -/
  | vetoTimeout
  /-- `JOB_CREATE` (R389). Creates a job, sets up its partition and fixes the host address set. -/
  | jobCreate
  /-- `JOB_END` (R375). Ends every launch of a job and frees its pages. -/
  | jobEnd
  /-- `MAP` (R301). Changes a mapping in all table copies, TLBs and L1s. -/
  | mapPage
  /-- `SUBMIT` (R311). Submits a launch record from the host. -/
  | submit
  /-- `CANCEL` (R323). Cancels a launch, removing instances and ending threads. -/
  | cancel
  /-- `PREEMPT` (R321). Host command requesting pre-emption of a thread. -/
  | preemptCmd
  /-- `RETURN` (R372). Returns a region lent to the host or a remote module. -/
  | returnRegion
  /-- `QUIESCE` (R367). Starts the drain of a link for a mirror switch. -/
  | quiesce
  /-- `RESUME` (R368). Brings a quiesced link up with an expected peer. -/
  | resumeLink
  /-- `JOURNAL_READ` (R376). Returns journal entries from a sequence number. -/
  | journalRead
  /-- `CAP_READ` (R377). Returns the capability list. -/
  | capRead
  /-- `DIAG_READ` (R375). Returns slot tables and error counters. -/
  | diagRead
  /-- `ATTEST` (R383). Returns a signed attestation report over a nonce. -/
  | attest
  /-- `AUDIT_READ` (R384). Returns the oldest held audit entries. -/
  | auditRead
  /-- `AUDIT_ACK` (R384). Lets audit entries up to an index be discarded. -/
  | auditAck
  /-- `DOWNLOAD` (R382). Verifies and writes a firmware bundle and resets the module. -/
  | download
  /-- `FAIL` (R281). Declares a core or die failed, making its tokens LOST and ending its threads. -/
  | failUnit
  /-- `RDMA_WRITE` (R372). Host writes job memory in a region it holds. -/
  | rdmaWrite
  /-- `RDMA_READ` (R372). Host reads job memory in a region it holds. -/
  | rdmaRead
  /-- `SEND` (R371). A RoCEv2 SEND carries one KCP frame. -/
  | sendFrame
  /-- `INVALID_REQUEST` (R371). An atomic or unsupported RoCEv2 opcode is NAKed. -/
  | invalidRequest
  /-- `MODULE_RESET` (R380). Reset runs the boot stages and bring-up. -/
  | moduleReset
  /-- `THERMAL_THROTTLE` (R385). Above the throttle point or power limit Corelo lowers CCLK. -/
  | thermalThrottle
  /-- `THERMAL_TRIP` (R385). At the trip point cores stop and every launch ends with FAULT. -/
  | thermalTrip
  /-- `NOT_AN_INSTRUCTION` (R77). A stream issues a word that is not an instruction and raises F_ILLEGAL precisely. -/
  | notAnInstruction
  /-- `INSTRUCTION_FETCH_FAULT` (R76). A fetch from a page without X, a scratchpad window or an unmapped address raises a fetch fault at the fetched address. -/
  | instructionFetchFault
  /-- `MLDA_DATA_CHECK` (R189). MLDA finishes reading and checking its data within 96 CCLK and releases the matrix stream's issue or raises F_ECC precisely. -/
  | mldaDataCheck
  /-- `MONITOR_EVICTION` (R127). The MWAIT monitor is evicted, or the waiter wakes spuriously, and MWAIT completes. -/
  | monitorEviction
  /-- `MACHINE_CHECK_RESUME` (R238). Corelo resumes a thread stopped by a machine check routed to Corelo, with the effect of ERET at FPC and every stream resuming. -/
  | machineCheckResume
deriving DecidableEq, Repr

end Sys2Proof
end

