-- ==== Sys2Proof/WellFormed.lean ====
section
/-! DEFINITION. The limits on an instruction's operands that its fields alone decide (R77, R79, R81, R85, R87,
R198): a word that breaks one is no instruction. -/

namespace Sys2Proof

/-- The floating-point types (R85). -/
def VType.isFloat : VType → Bool
  | .f32 => true | .bf16 => true | .i32 => false

/-- A group of 2^g run registers from vN does not pass v31 (R79). -/
def groupFits (v : BitVec 5) (g : BitVec 2) : Bool := decide (v.toNat + 2 ^ g.toNat ≤ 32)

/-- A loop names a level 0–5 and a body of at least one word (R81). -/
def loopOk (lv : BitVec 3) (len : BitVec 12) : Bool := decide (lv.toNat < 6) && decide (len ≠ 0)

/-- A parameter block of n registers from sP does not pass s31 (R198). -/
def blockFits (p : BitVec 5) (n : Nat) : Bool := decide (p.toNat + n ≤ 32)

/-- The operand limits of an instruction that its word alone decides (R77). -/
def Instr.wellFormed : Instr → Bool
  | .add _ _ _ => true
  | .sub _ _ _ => true
  | .and _ _ _ => true
  | .or _ _ _ => true
  | .xor _ _ _ => true
  | .andn _ _ _ => true
  | .sll _ _ _ => true
  | .srl _ _ _ => true
  | .sra _ _ _ => true
  | .slt _ _ _ => true
  | .sltu _ _ _ => true
  | .seq _ _ _ => true
  | .min _ _ _ => true
  | .max _ _ _ => true
  | .minu _ _ _ => true
  | .maxu _ _ _ => true
  | .mul _ _ _ => true
  | .mulh _ _ _ => true
  | .mulhu _ _ _ => true
  | .div _ _ _ => true
  | .divu _ _ _ => true
  | .rem _ _ _ => true
  | .remu _ _ _ => true
  | .clz _ _ => true
  | .ctz _ _ => true
  | .popc _ _ => true
  | .addi _ _ _ => true
  | .andi _ _ _ => true
  | .ori _ _ _ => true
  | .xori _ _ _ => true
  | .slti _ _ _ => true
  | .shori _ _ _ => true
  | .slli _ _ _ => true
  | .srli _ _ _ => true
  | .srai _ _ _ => true
  | .beq _ _ _ => true
  | .bne _ _ _ => true
  | .blt _ _ _ => true
  | .bge _ _ _ => true
  | .bltu _ _ _ => true
  | .bgeu _ _ _ => true
  | .jal _ _ => true
  | .jalr _ _ _ => true
  | .ld _ _ _ _ _ => true
  | .ldu _ _ _ _ _ => true
  | .st _ _ _ _ => true
  | .lda _ _ _ _ => true
  | .stl _ _ _ _ => true
  | .amoAdd _ _ _ _ _ _ => true
  | .amoAnd _ _ _ _ _ _ => true
  | .amoOr _ _ _ _ _ _ => true
  | .amoXor _ _ _ _ _ _ => true
  | .amoMin _ _ _ _ _ _ => true
  | .amoMax _ _ _ _ _ _ => true
  | .amoMinu _ _ _ _ _ _ => true
  | .amoMaxu _ _ _ _ _ _ => true
  | .amoSwap _ _ _ _ _ _ => true
  | .amoCas _ _ _ _ _ _ => true
  | .ldSc _ _ _ => true
  | .stSc _ _ _ => true
  | .amoaddSc _ _ _ _ => true
  | .swapSc _ _ _ _ => true
  | .casSc _ _ _ _ => true
  | .scopSend => true
  | .scopArrival => true
  | .scopApply => true
  | .fenceFull _ => true
  | .fenceAcq _ => true
  | .fenceRel _ => true
  | .fenceEngines _ => true
  | .ownLend _ _ _ => true
  | .ownRet _ _ => true
  | .ownSplit _ _ => true
  | .ownJoin _ _ => true
  | .ownShare _ _ _ => true
  | .ownDrop _ _ => true
  | .ownQry _ _ => true
  | .ownWait _ _ => true
  | .ownClaim _ _ => true
  | .wopen _ _ _ => true
  | .wclose _ _ => true
  | .wwait _ _ _ => true
  | .wcnt _ _ => true
  | .wrst _ _ => true
  | .post _ _ => true
  | .wait _ _ => true
  | .arrive _ _ => true
  | .bwait _ _ => true
  | .mwaitSync _ _ => true
  | .mwaitTimeout => true
  | .yield => true
  | .icsync => true
  | .sleep _ => true
  | .sleepExpiry => true
  | .hld _ _ => true
  | .hst _ _ => true
  | .hsetw _ _ _ => true
  | .hgetw _ _ _ => true
  | .haddb _ _ => true
  | .omld _ _ => true
  | .loopImm lv _ len => loopOk lv len
  | .loopReg lv _ len => loopOk lv len
  | .bqEmpty _ => true
  | .bqNonempty _ => true
  | .bqPoison _ => true
  | .bqFault _ => true
  | .bqOk _ => true
  | .cqpop _ => true
  | .cqwait => true
  | .cqwaity => true
  | .cqpeek _ => true
  | .dqpush _ _ => true
  | .dqpop _ => true
  | .dqsteal _ _ => true
  | .dqlen _ => true
  | .launch _ _ => true
  | .csrr _ _ => true
  | .csrw _ _ _ => true
  | .csrs _ _ _ => true
  | .csrc _ _ _ => true
  | .nop => true
  | .trap => true
  | .eret => true
  | .exit => true
  | .brk => true
  | .ftset _ _ => true
  | .ftget _ _ => true
  | .moveToE _ _ => true
  | .moveFromE _ _ => true
  | .fstep _ => true
  | .cirq _ _ => true
  | .publish _ => true
  | .pubq _ _ => true
  | .vadd o => o.t.isFloat
  | .vsub o => o.t.isFloat
  | .vmul o => o.t.isFloat
  | .vfma o => o.t.isFloat
  | .vfnma o => o.t.isFloat
  | .vdiv o => o.t.isFloat
  | .vmin o => o.t.isFloat
  | .vminNum o => o.t.isFloat
  | .vmax o => o.t.isFloat
  | .vmaxNum o => o.t.isFloat
  | .vsqrt o => o.t.isFloat
  | .vabs o => o.t.isFloat
  | .vneg o => o.t.isFloat
  | .vrint o => o.t.isFloat
  | .vexp2 o => o.t.isFloat
  | .vlog2 o => o.t.isFloat
  | .vrcp o => o.t.isFloat
  | .vrsq o => o.t.isFloat
  | .vtanh o => o.t.isFloat
  | .vsin o => o.t.isFloat
  | .vcos o => o.t.isFloat
  | .verf o => o.t.isFloat
  | .vcmpEq _ => true
  | .vcmpLt _ => true
  | .vcmpLe _ => true
  | .vcmpUnord _ => true
  | .vcmpNe _ => true
  | .vcmpGt _ => true
  | .vcmpGe _ => true
  | .vcmpOrd _ => true
  | .vsel _ => true
  | .vcvt o => decide (o.t ≠ o.src)
  | .viadd _ => true
  | .visub _ => true
  | .vimul _ => true
  | .vand _ => true
  | .vor _ => true
  | .vxor _ => true
  | .vandn _ => true
  | .vsll _ => true
  | .vsrl _ => true
  | .vsra _ => true
  | .vimin _ => true
  | .vimax _ => true
  | .viminu _ => true
  | .vimaxu _ => true
  | .runCount => true
  | .vredSumT _ => true
  | .vredSumR _ => true
  | .vredMax _ => true
  | .vredMin _ => true
  | .vredrowSum _ => true
  | .vredrowMax _ => true
  | .vredrowMin _ => true
  | .vscanSumI _ => true
  | .vscanSumE _ => true
  | .vscanMaxI _ => true
  | .vrcoal _ _ => true
  | .vrcnt _ _ => true
  | .vrlen _ _ => true
  | .vsegsumE _ => true
  | .vsegsumP _ => true
  | .vsegmaxE _ => true
  | .vsegcntP _ => true
  | .viota _ _ => true
  | .vsplat _ _ _ => true
  | .vsplati _ _ => true
  | .vshapeImm _ _ => true
  | .vshapeReg rs => decide (rs ≠ 0)
  | .vld o => groupFits o.d o.g
  | .vst o => groupFits o.d o.g
  | .vldr o => groupFits o.d o.g
  | .vstr o => groupFits o.d o.g
  | .vldDataCheck => true
  | .vfromm _ => true
  | .vtom _ => true
  | .vmov d a g => groupFits d g && groupFits a g
  | .vpost _ _ => true
  | .vwait _ _ => true
  | .vland => true
  | .vend => true
  | .vsetrm _ => true
  | .vclrf _ => true
  | .vloopImm lv _ len => loopOk lv len
  | .vloopReg lv _ len => loopOk lv len
  | .vectorLanding => true
  | .mma o => decide (o.fs.toNat < 14)
  | .mmat o => decide (o.fs.toNat < 14)
  | .mmaLanding => true
  | .mlda _ => true
  | .msta o => decide (o.fs.toNat < 14)
  | .mstq o => decide (o.fs.toNat < 14)
  | .matrixLanding => true
  | .mclr _ => true
  | .mfull _ => true
  | .mempty _ => true
  | .mpost _ _ => true
  | .mwaitMctl _ _ => true
  | .mland => true
  | .mend => true
  | .madd _ _ => true
  | .mscal _ _ => true
  | .mtrans _ _ => true
  | .mloopImm lv _ len => loopOk lv len
  | .mloopReg lv _ len => loopOk lv len
  | .cpy _ => true
  | .cpyCvt _ => true
  | .cpyTr2d _ => true
  | .cpySwz _ => true
  | .cpyRle _ => true
  | .cpyUnrle _ => true
  | .cpyQ4 o => blockFits o.p 2
  | .cpyDeq o => blockFits o.p 2
  | .cpyGather o => blockFits o.p 2
  | .cpyScatter o => blockFits o.p 2
  | .cpyFill o => blockFits o.p 2
  | .cpyRadd _ => true
  | .cpyCrc _ => true
  | .xcpy _ => true
  | .xcpyCvt _ => true
  | .xcpyRle _ => true
  | .xcpyUnrle _ => true
  | .xcpyCrc _ => true
  | .wput _ => true
  | .wputCvt _ => true
  | .wputRle _ => true
  | .wputUnrle _ => true
  | .wputCrc _ => true
  | .lcpy _ => true
  | .lcpyCvt _ => true
  | .lcpyRle _ => true
  | .lcpyUnrle _ => true
  | .lcpyCrc _ => true
  | .catomAdd o => blockFits o.p 3
  | .catomAnd o => blockFits o.p 3
  | .catomOr o => blockFits o.p 3
  | .catomXor o => blockFits o.p 3
  | .catomMin o => blockFits o.p 3
  | .catomMax o => blockFits o.p 3
  | .catomMinu o => blockFits o.p 3
  | .catomMaxu o => blockFits o.p 3
  | .catomSwap o => blockFits o.p 3
  | .catomCas o => blockFits o.p 3
  | .coll _ => true
  | .cpost _ _ => true
  | .cwait _ _ => true
  | .cfence => true
  | .cend => true
  | .crec _ => true
  | .cpub _ => true
  | .cloopImm lv _ len => loopOk lv len
  | .cloopReg lv _ len => loopOk lv len
  | .chunkPerformed => true
  | .copyComplete => true
  | .copyRestart => true
  | .storePerformed => true
  | .pageWalk => true
  | .patrol => true
  | .heldRecordEntry => true
  | .handlerEntry => true
  | .asyncHandlerEntry => true
  | .faultToCorelo => true
  | .threadEndByCorelo => true
  | .retirement => true
  | .scrubComplete => true
  | .launchRecord => true
  | .bind => true
  | .preemption => true
  | .resumption => true
  | .fabricStep => true
  | .circuitLive => true
  | .ringTuningLoss => true
  | .laserFailure => true
  | .portRetune => true
  | .chunkFrame => true
  | .ack => true
  | .nack => true
  | .notice => true
  | .expressFrame => true
  | .collContribution => true
  | .collDelivery => true
  | .flit => true
  | .linkAck => true
  | .linkNack => true
  | .millstoneForward => true
  | .millstoneHoldTimeout => true
  | .laneFailure => true
  | .laneMap => true
  | .restripeBoundary => true
  | .laneRetuned => true
  | .retrain => true
  | .retrainDone => true
  | .retrainTimeout => true
  | .linkDown => true
  | .bringUp => true
  | .quiesceDrained => true
  | .vetoTimeout => true
  | .jobCreate => true
  | .jobEnd => true
  | .mapPage => true
  | .submit => true
  | .cancel => true
  | .preemptCmd => true
  | .returnRegion => true
  | .quiesce => true
  | .resumeLink => true
  | .journalRead => true
  | .capRead => true
  | .diagRead => true
  | .attest => true
  | .auditRead => true
  | .auditAck => true
  | .download => true
  | .failUnit => true
  | .rdmaWrite => true
  | .rdmaRead => true
  | .sendFrame => true
  | .invalidRequest => true
  | .moduleReset => true
  | .thermalThrottle => true
  | .thermalTrip => true
  | .notAnInstruction => true
  | .instructionFetchFault => true
  | .mldaDataCheck => true
  | .monitorEviction => true
  | .machineCheckResume => true

end Sys2Proof
end

