-- ==== Sys2Proof/Decode.lean ====
section
/-! DEFINITION. Reading an instruction from its word in each of the four opcode maps (R76–R88), the encoder written
from the same tables, and the helpers over bit fields that both use. -/

namespace Sys2Proof

/-! ### Bit fields -/

/-- Bits [lo + n − 1 : lo] of w, as a number (R6). -/
def bits (w lo n : Nat) : Nat := w / 2 ^ lo % 2 ^ n

/-- Bits [lo + n − 1 : lo] of w, as a field of n bits. -/
def fld (n w lo : Nat) : BitVec n := BitVec.ofNat n (w / 2 ^ lo)

/-- Bit lo of w. -/
def bit (w lo : Nat) : Bool := decide (bits w lo 1 = 1)

/-! ### Fields with names -/

/-- A scope field; 10–15 name nothing (R35). -/
def scope? (w lo : Nat) : Option Scope :=
  match bits w lo 4 with
  | 0 => some .stream | 1 => some .thread | 2 => some .core | 3 => some .cluster | 4 => some .die
  | 5 => some .quad | 6 => some .pkg | 7 => some .ring | 8 => some .job | 9 => some .host
  | _ => none

/-- A two-bit access size (R81, R108). -/
def memSize (w lo : Nat) : MemSize :=
  match bits w lo 2 with
  | 0 => .byte | 1 => .half | 2 => .word | _ => .double

/-- An AMO size; 0 and 1 are illegal (R82). -/
def amoSize? (w lo : Nat) : Option AmoSize :=
  match bits w lo 2 with
  | 2 => some .word | 3 => some .double | _ => none

/-- A vector type code; 3 is illegal (R81). -/
def vtype? (w lo : Nat) : Option VType :=
  match bits w lo 2 with
  | 0 => some .f32 | 1 => some .bf16 | 2 => some .i32 | _ => none

/-- A rounding mode (R27). -/
def roundMode (w lo : Nat) : RoundMode :=
  match bits w lo 2 with
  | 0 => .rne | 1 => .rz | 2 => .rup | _ => .rdn

/-- The rows that move; 3 is illegal (R81). -/
def rowSel? (w lo : Nat) : Option RowSel :=
  match bits w lo 2 with
  | 0 => some .all | 1 => some .lo | 2 => some .hi | _ => none

/-- The mask of a VR word: me = 0 requires m = 0 (R81). -/
def vmask? (w : Nat) : Option VMask :=
  if bits w 5 1 = 1 then some (some (fld 5 w 6)) else if bits w 6 5 = 0 then some none else none

/-! ### Operand shapes -/

def vArgs3? (w : Nat) : Option VArgs3 :=
  (vmask? w).bind fun m => (vtype? w 2).map fun t =>
    { d := fld 5 w 21, a := fld 5 w 16, b := fld 5 w 11, mask := m, c := bit w 4, t := t }

def vArgs2? (w : Nat) : Option VArgs2 :=
  if bits w 11 5 = 0 then
    (vmask? w).bind fun m => (vtype? w 2).map fun t =>
      { d := fld 5 w 21, a := fld 5 w 16, mask := m, c := bit w 4, t := t }
  else none

def vArgs1? (w : Nat) : Option VArgs1 :=
  if bits w 5 11 = 0 then
    (vtype? w 2).map fun t => { d := fld 5 w 21, a := fld 5 w 16, c := bit w 4, t := t }
  else none

def vArgsI? (w : Nat) : Option VArgsI :=
  if bits w 2 2 = 2 then
    (vmask? w).map fun m => { d := fld 5 w 21, a := fld 5 w 16, b := fld 5 w 11, mask := m, c := bit w 4 }
  else none

def vCvtArgs? (w : Nat) : Option VCvtArgs :=
  if bits w 11 5 = 0 then
    (vmask? w).bind fun m => (vtype? w 2).bind fun t => (vtype? w 0).map fun f =>
      { d := fld 5 w 21, a := fld 5 w 16, mask := m, c := bit w 4, t := t, src := f }
  else none

def vSelArgs? (w : Nat) : Option VSelArgs :=
  if bits w 5 1 = 1 then
    (vtype? w 2).map fun t =>
      { d := fld 5 w 21, a := fld 5 w 16, b := fld 5 w 11, m := fld 5 w 6, c := bit w 4, t := t }
  else none

def vSegArgs? (w : Nat) : Option VSegArgs :=
  if bits w 5 6 = 0 then
    (vtype? w 2).map fun t => { d := fld 5 w 21, a := fld 5 w 16, b := fld 5 w 11, c := bit w 4, t := t }
  else none

def vRedArgs? (w : Nat) : Option VRedArgs :=
  if bits w 4 12 = 0 ∧ bits w 24 2 = 0 then
    (vtype? w 2).map fun t => { e := fld 3 w 21, a := fld 5 w 16, t := t }
  else none

def vMemArgs? (w : Nat) : Option VMemArgs :=
  (vtype? w 0).map fun t =>
    { d := fld 5 w 21, h := fld 4 w 17, rs := fld 5 w 12, g := fld 2 w 10, imm := fld 8 w 2, t := t }

def vTileArgs? (w : Nat) : Option VTileArgs :=
  if bits w 0 2 = 0 then
    (vtype? w 2).map fun t =>
      { d := fld 5 w 21, mr := fld 3 w 18, col := bit w 17, rs := fld 5 w 12, imm := fld 7 w 5,
        ef := bit w 4, t := t }
  else none

def mmaArgs? (w : Nat) : Option MmaArgs :=
  if bits w 0 1 = 0 then
    some { md := fld 3 w 23, ha := fld 4 w 19, hb := fld 4 w 15, fs := fld 4 w 11, z := bit w 10,
           f := bit w 9, ao := fld 4 w 5, bo := fld 4 w 1 }
  else none

def mldaArgs? (w : Nat) : Option MldaArgs :=
  if bits w 15 4 = 0 ∧ bits w 0 8 = 0 then
    (rowSel? w 8).map fun r => { md := fld 3 w 23, h := fld 4 w 19, om := fld 4 w 11, e := bit w 10, rm := r }
  else none

def mstaArgs? (w : Nat) : Option MstaArgs :=
  if bits w 0 8 = 0 then
    (rowSel? w 8).map fun r =>
      { md := fld 3 w 23, h := fld 4 w 19, fs := fld 4 w 15, om := fld 4 w 11, e := bit w 10, rm := r }
  else none

def ccArgs (w : Nat) : CcArgs :=
  { hs := fld 4 w 16, hd := fld 4 w 12, p := fld 5 w 7, tag := fld 6 w 1, r := bit w 0 }

def ccCrcArgs? (w : Nat) : Option CcCrcArgs :=
  if bits w 0 1 = 1 then some { hs := fld 4 w 16, hd := fld 4 w 12, p := fld 5 w 7, tag := fld 6 w 1 } else none

def cdArgs? (w : Nat) : Option CdArgs :=
  if bits w 16 4 = 0 then some { hd := fld 4 w 12, p := fld 5 w 7, tag := fld 6 w 1, r := bit w 0 } else none

def cxArgs (w : Nat) : CxArgs :=
  { hs := fld 4 w 16, hd := fld 4 w 12, ch := fld 6 w 6, p := fld 5 w 1, r := bit w 0 }

def cxCrcArgs? (w : Nat) : Option CxCrcArgs :=
  if bits w 0 1 = 1 then some { hs := fld 4 w 16, hd := fld 4 w 12, ch := fld 6 w 6, p := fld 5 w 1 } else none

def collArgs? (w : Nat) : Option CollArgs :=
  if bits w 12 14 = 0 then some { p := fld 5 w 7, tag := fld 6 w 1, r := bit w 0 } else none

/-! ### The four opcode maps -/

/-- The scalar stream's opcode map (R82–R84): the fields of a word, before the operand limits. -/
def rawScalar (w : Nat) : Option Instr :=
  match bits w 26 6 with
  | 0x01 =>
    match bits w 0 11 with
    | 0 => some (.add (fld 5 w 21) (fld 5 w 16) (fld 5 w 11))
    | 1 => some (.sub (fld 5 w 21) (fld 5 w 16) (fld 5 w 11))
    | 2 => some (.and (fld 5 w 21) (fld 5 w 16) (fld 5 w 11))
    | 3 => some (.or (fld 5 w 21) (fld 5 w 16) (fld 5 w 11))
    | 4 => some (.xor (fld 5 w 21) (fld 5 w 16) (fld 5 w 11))
    | 5 => some (.andn (fld 5 w 21) (fld 5 w 16) (fld 5 w 11))
    | 6 => some (.sll (fld 5 w 21) (fld 5 w 16) (fld 5 w 11))
    | 7 => some (.srl (fld 5 w 21) (fld 5 w 16) (fld 5 w 11))
    | 8 => some (.sra (fld 5 w 21) (fld 5 w 16) (fld 5 w 11))
    | 9 => some (.slt (fld 5 w 21) (fld 5 w 16) (fld 5 w 11))
    | 0xa => some (.sltu (fld 5 w 21) (fld 5 w 16) (fld 5 w 11))
    | 0xb => some (.seq (fld 5 w 21) (fld 5 w 16) (fld 5 w 11))
    | 0xc => some (.min (fld 5 w 21) (fld 5 w 16) (fld 5 w 11))
    | 0xd => some (.max (fld 5 w 21) (fld 5 w 16) (fld 5 w 11))
    | 0xe => some (.minu (fld 5 w 21) (fld 5 w 16) (fld 5 w 11))
    | 0xf => some (.maxu (fld 5 w 21) (fld 5 w 16) (fld 5 w 11))
    | 0x10 => some (.mul (fld 5 w 21) (fld 5 w 16) (fld 5 w 11))
    | 0x11 => some (.mulh (fld 5 w 21) (fld 5 w 16) (fld 5 w 11))
    | 0x12 => some (.mulhu (fld 5 w 21) (fld 5 w 16) (fld 5 w 11))
    | 0x13 => some (.div (fld 5 w 21) (fld 5 w 16) (fld 5 w 11))
    | 0x14 => some (.divu (fld 5 w 21) (fld 5 w 16) (fld 5 w 11))
    | 0x15 => some (.rem (fld 5 w 21) (fld 5 w 16) (fld 5 w 11))
    | 0x16 => some (.remu (fld 5 w 21) (fld 5 w 16) (fld 5 w 11))
    | 0x18 => if bits w 11 5 = 0 then some (.clz (fld 5 w 21) (fld 5 w 16)) else none
    | 0x19 => if bits w 11 5 = 0 then some (.ctz (fld 5 w 21) (fld 5 w 16)) else none
    | 0x1a => if bits w 11 5 = 0 then some (.popc (fld 5 w 21) (fld 5 w 16)) else none
    | _ => none
  | 0x02 => some (.addi (fld 5 w 21) (fld 5 w 16) (fld 16 w 0))
  | 0x03 => some (.andi (fld 5 w 21) (fld 5 w 16) (fld 16 w 0))
  | 0x04 => some (.ori (fld 5 w 21) (fld 5 w 16) (fld 16 w 0))
  | 0x05 => some (.xori (fld 5 w 21) (fld 5 w 16) (fld 16 w 0))
  | 0x06 => some (.slti (fld 5 w 21) (fld 5 w 16) (fld 16 w 0))
  | 0x07 => some (.shori (fld 5 w 21) (fld 5 w 16) (fld 16 w 0))
  | 0x08 =>
    match bits w 6 10 with
    | 0 => some (.slli (fld 5 w 21) (fld 5 w 16) (fld 6 w 0))
    | 4 => some (.srli (fld 5 w 21) (fld 5 w 16) (fld 6 w 0))
    | 8 => some (.srai (fld 5 w 21) (fld 5 w 16) (fld 6 w 0))
    | _ => none
  | 0x0A => some (.beq (fld 5 w 21) (fld 5 w 16) (fld 16 w 0))
  | 0x0B => some (.bne (fld 5 w 21) (fld 5 w 16) (fld 16 w 0))
  | 0x0C => some (.blt (fld 5 w 21) (fld 5 w 16) (fld 16 w 0))
  | 0x0D => some (.bge (fld 5 w 21) (fld 5 w 16) (fld 16 w 0))
  | 0x0E => some (.bltu (fld 5 w 21) (fld 5 w 16) (fld 16 w 0))
  | 0x0F => some (.bgeu (fld 5 w 21) (fld 5 w 16) (fld 16 w 0))
  | 0x10 => some (.jal (fld 5 w 21) (fld 21 w 0))
  | 0x11 => some (.jalr (fld 5 w 21) (fld 5 w 16) (fld 16 w 0))
  | 0x12 => if bits w 13 1 = 0 then some (.ld (fld 5 w 21) (fld 5 w 16) (memSize w 14) (bit w 12) (fld 12 w 0)) else none
  | 0x13 => if bits w 13 1 = 0 then some (.ldu (fld 5 w 21) (fld 5 w 16) (memSize w 14) (bit w 12) (fld 12 w 0)) else none
  | 0x14 => if bits w 12 2 = 0 then some (.st (fld 5 w 21) (fld 5 w 16) (memSize w 14) (fld 12 w 0)) else none
  | 0x15 => if bits w 0 3 = 0 ∧ bits w 5 2 = 0 ∧ bits w 11 5 = 0 then (scope? w 7).map fun sc => .lda (fld 5 w 21) (fld 5 w 16) sc (memSize w 3) else none
  | 0x16 => if bits w 0 3 = 0 ∧ bits w 5 2 = 0 ∧ bits w 11 5 = 0 then (scope? w 7).map fun sc => .stl (fld 5 w 21) (fld 5 w 16) sc (memSize w 3) else none
  | 0x17 =>
    match bits w 3 4 with
    | 0 => (scope? w 7).bind fun sc => (amoSize? w 1).map fun sz => .amoAdd (fld 5 w 21) (fld 5 w 16) (fld 5 w 11) sc sz (bit w 0)
    | 1 => (scope? w 7).bind fun sc => (amoSize? w 1).map fun sz => .amoAnd (fld 5 w 21) (fld 5 w 16) (fld 5 w 11) sc sz (bit w 0)
    | 2 => (scope? w 7).bind fun sc => (amoSize? w 1).map fun sz => .amoOr (fld 5 w 21) (fld 5 w 16) (fld 5 w 11) sc sz (bit w 0)
    | 3 => (scope? w 7).bind fun sc => (amoSize? w 1).map fun sz => .amoXor (fld 5 w 21) (fld 5 w 16) (fld 5 w 11) sc sz (bit w 0)
    | 4 => (scope? w 7).bind fun sc => (amoSize? w 1).map fun sz => .amoMin (fld 5 w 21) (fld 5 w 16) (fld 5 w 11) sc sz (bit w 0)
    | 5 => (scope? w 7).bind fun sc => (amoSize? w 1).map fun sz => .amoMax (fld 5 w 21) (fld 5 w 16) (fld 5 w 11) sc sz (bit w 0)
    | 6 => (scope? w 7).bind fun sc => (amoSize? w 1).map fun sz => .amoMinu (fld 5 w 21) (fld 5 w 16) (fld 5 w 11) sc sz (bit w 0)
    | 7 => (scope? w 7).bind fun sc => (amoSize? w 1).map fun sz => .amoMaxu (fld 5 w 21) (fld 5 w 16) (fld 5 w 11) sc sz (bit w 0)
    | 8 => (scope? w 7).bind fun sc => (amoSize? w 1).map fun sz => .amoSwap (fld 5 w 21) (fld 5 w 16) (fld 5 w 11) sc sz (bit w 0)
    | 9 => (scope? w 7).bind fun sc => (amoSize? w 1).map fun sz => .amoCas (fld 5 w 21) (fld 5 w 16) (fld 5 w 11) sc sz (bit w 0)
    | _ => none
  | 0x18 =>
    match bits w 3 4 with
    | 0 => if bits w 0 3 = 0 ∧ bits w 10 6 = 0 then some (.ldSc (fld 5 w 21) (fld 5 w 16) (fld 3 w 7)) else none
    | 1 => if bits w 0 3 = 0 ∧ bits w 10 1 = 0 ∧ bits w 21 5 = 0 then some (.stSc (fld 5 w 16) (fld 5 w 11) (fld 3 w 7)) else none
    | 2 => if bits w 0 3 = 0 ∧ bits w 10 1 = 0 then some (.amoaddSc (fld 5 w 21) (fld 5 w 16) (fld 5 w 11) (fld 3 w 7)) else none
    | 3 => if bits w 0 3 = 0 ∧ bits w 10 1 = 0 then some (.swapSc (fld 5 w 21) (fld 5 w 16) (fld 5 w 11) (fld 3 w 7)) else none
    | 4 => if bits w 0 3 = 0 ∧ bits w 10 1 = 0 then some (.casSc (fld 5 w 21) (fld 5 w 16) (fld 5 w 11) (fld 3 w 7)) else none
    | _ => none
  | 0x19 =>
    match bits w 4 7 with
    | 0 => if bits w 11 15 = 0 then (scope? w 0).map fun sc => .fenceFull sc else none
    | 1 => if bits w 11 15 = 0 then (scope? w 0).map fun sc => .fenceAcq sc else none
    | 2 => if bits w 11 15 = 0 then (scope? w 0).map fun sc => .fenceRel sc else none
    | 3 => if bits w 11 15 = 0 then (scope? w 0).map fun sc => .fenceEngines sc else none
    | _ => none
  | 0x1A =>
    match bits w 0 11 with
    | 0 => some (.ownLend (fld 5 w 21) (fld 5 w 16) (fld 5 w 11))
    | 0x80 => if bits w 11 5 = 0 then some (.ownRet (fld 5 w 21) (fld 5 w 16)) else none
    | 0x100 => if bits w 11 5 = 0 then some (.ownSplit (fld 5 w 21) (fld 5 w 16)) else none
    | 0x180 => if bits w 11 5 = 0 then some (.ownJoin (fld 5 w 21) (fld 5 w 16)) else none
    | 0x200 => some (.ownShare (fld 5 w 21) (fld 5 w 16) (fld 5 w 11))
    | 0x280 => if bits w 11 5 = 0 then some (.ownDrop (fld 5 w 21) (fld 5 w 16)) else none
    | 0x300 => if bits w 11 5 = 0 then some (.ownQry (fld 5 w 21) (fld 5 w 16)) else none
    | 0x380 => if bits w 11 5 = 0 then some (.ownWait (fld 5 w 21) (fld 5 w 16)) else none
    | 0x400 => if bits w 11 5 = 0 then some (.ownClaim (fld 5 w 21) (fld 5 w 16)) else none
    | _ => none
  | 0x1B =>
    match bits w 0 11 with
    | 0 => some (.wopen (fld 5 w 21) (fld 5 w 16) (fld 5 w 11))
    | 0x100 => if bits w 11 5 = 0 then some (.wclose (fld 5 w 21) (fld 5 w 16)) else none
    | 0x200 => some (.wwait (fld 5 w 21) (fld 5 w 16) (fld 5 w 11))
    | 0x300 => if bits w 11 5 = 0 then some (.wcnt (fld 5 w 21) (fld 5 w 16)) else none
    | 0x400 => if bits w 11 5 = 0 then some (.wrst (fld 5 w 21) (fld 5 w 16)) else none
    | _ => none
  | 0x1C =>
    match bits w 8 3 with
    | 0 => if bits w 0 4 = 0 ∧ bits w 11 5 = 0 ∧ bits w 21 5 = 0 then some (.post (fld 5 w 16) (fld 4 w 4)) else none
    | 1 => if bits w 0 4 = 0 ∧ bits w 11 5 = 0 ∧ bits w 21 5 = 0 then some (.wait (fld 5 w 16) (fld 4 w 4)) else none
    | 2 => if bits w 11 15 = 0 then (scope? w 0).map fun sc => .arrive (fld 4 w 4) sc else none
    | 3 => if bits w 11 15 = 0 then (scope? w 0).map fun sc => .bwait (fld 4 w 4) sc else none
    | 4 => if bits w 0 8 = 0 ∧ bits w 21 5 = 0 then some (.mwaitSync (fld 5 w 16) (fld 5 w 11)) else none
    | 5 => if bits w 0 8 = 0 ∧ bits w 11 15 = 0 then some .yield else none
    | 6 => if bits w 0 8 = 0 ∧ bits w 11 15 = 0 then some .icsync else none
    | 7 => if bits w 0 8 = 0 ∧ bits w 11 5 = 0 ∧ bits w 21 5 = 0 then some (.sleep (fld 5 w 16)) else none
    | _ => none
  | 0x1D =>
    match bits w 8 3 with
    | 0 => if bits w 0 8 = 0 ∧ bits w 11 5 = 0 ∧ bits w 25 1 = 0 then some (.hld (fld 4 w 21) (fld 5 w 16)) else none
    | 1 => if bits w 0 8 = 0 ∧ bits w 11 5 = 0 ∧ bits w 25 1 = 0 then some (.hst (fld 4 w 21) (fld 5 w 16)) else none
    | 2 => if bits w 2 6 = 0 ∧ bits w 11 5 = 0 ∧ bits w 25 1 = 0 then some (.hsetw (fld 4 w 21) (fld 5 w 16) (fld 2 w 0)) else none
    | 3 => if bits w 2 6 = 0 ∧ bits w 11 5 = 0 ∧ bits w 20 1 = 0 then some (.hgetw (fld 5 w 21) (fld 4 w 16) (fld 2 w 0)) else none
    | 4 => if bits w 0 8 = 0 ∧ bits w 11 5 = 0 ∧ bits w 25 1 = 0 then some (.haddb (fld 4 w 21) (fld 5 w 16)) else none
    | 5 => if bits w 0 8 = 0 ∧ bits w 11 5 = 0 ∧ bits w 25 1 = 0 then some (.omld (fld 4 w 21) (fld 5 w 16)) else none
    | _ => none
  | 0x1E =>
    match bits w 22 1 with
    | 0 => some (.loopImm (fld 3 w 23) (fld 10 w 12) (fld 12 w 0))
    | 1 => if bits w 17 5 = 0 then some (.loopReg (fld 3 w 23) (fld 5 w 12) (fld 12 w 0)) else none
    | _ => none
  | 0x1F =>
    match bits w 21 5 with
    | 0 => if bits w 16 5 = 0 then some (.bqEmpty (fld 16 w 0)) else none
    | 1 => if bits w 16 5 = 0 then some (.bqNonempty (fld 16 w 0)) else none
    | 2 => if bits w 16 5 = 0 then some (.bqPoison (fld 16 w 0)) else none
    | 3 => if bits w 16 5 = 0 then some (.bqFault (fld 16 w 0)) else none
    | 4 => if bits w 16 5 = 0 then some (.bqOk (fld 16 w 0)) else none
    | _ => none
  | 0x20 =>
    match bits w 0 11 with
    | 0 => if bits w 11 10 = 0 then some (.cqpop (fld 5 w 21)) else none
    | 1 => if bits w 11 15 = 0 then some .cqwait else none
    | 2 => if bits w 11 15 = 0 then some .cqwaity else none
    | 3 => if bits w 11 10 = 0 then some (.cqpeek (fld 5 w 21)) else none
    | _ => none
  | 0x21 =>
    match bits w 0 11 with
    | 0 => if bits w 11 5 = 0 then some (.dqpush (fld 5 w 21) (fld 5 w 16)) else none
    | 1 => if bits w 11 10 = 0 then some (.dqpop (fld 5 w 21)) else none
    | 2 => if bits w 11 5 = 0 then some (.dqsteal (fld 5 w 21) (fld 5 w 16)) else none
    | 3 => if bits w 11 10 = 0 then some (.dqlen (fld 5 w 21)) else none
    | _ => none
  | 0x22 => if bits w 0 16 = 0 then some (.launch (fld 5 w 21) (fld 5 w 16)) else none
  | 0x23 =>
    match bits w 12 4 with
    | 0 => if bits w 16 5 = 0 then some (.csrr (fld 5 w 21) (fld 12 w 0)) else none
    | 1 => some (.csrw (fld 5 w 21) (fld 5 w 16) (fld 12 w 0))
    | 2 => some (.csrs (fld 5 w 21) (fld 5 w 16) (fld 12 w 0))
    | 3 => some (.csrc (fld 5 w 21) (fld 5 w 16) (fld 12 w 0))
    | _ => none
  | 0x24 =>
    match bits w 0 11 with
    | 0 => if bits w 11 15 = 0 then some .nop else none
    | 1 => if bits w 11 15 = 0 then some .trap else none
    | 2 => if bits w 11 15 = 0 then some .eret else none
    | 3 => if bits w 11 15 = 0 then some .exit else none
    | 4 => if bits w 11 15 = 0 then some .brk else none
    | _ => none
  | 0x25 =>
    match bits w 0 11 with
    | 0 => if bits w 11 5 = 0 ∧ bits w 25 1 = 0 then some (.ftset (fld 4 w 21) (fld 5 w 16)) else none
    | 1 => if bits w 11 5 = 0 ∧ bits w 20 1 = 0 then some (.ftget (fld 5 w 21) (fld 4 w 16)) else none
    | _ => none
  | 0x26 =>
    match bits w 0 11 with
    | 0 => if bits w 11 5 = 0 ∧ bits w 24 2 = 0 then some (.moveToE (fld 3 w 21) (fld 5 w 16)) else none
    | 1 => if bits w 11 5 = 0 ∧ bits w 19 2 = 0 then some (.moveFromE (fld 5 w 21) (fld 3 w 16)) else none
    | _ => none
  | 0x27 =>
    match bits w 0 1 with
    | 0 => if bits w 1 20 = 0 then some (.fstep (fld 5 w 21)) else none
    | 1 => if bits w 1 4 = 0 ∧ bits w 11 10 = 0 then some (.cirq (fld 5 w 21) (fld 6 w 5)) else none
    | _ => none
  | 0x28 =>
    match bits w 0 11 with
    | 0 => if bits w 11 5 = 0 ∧ bits w 20 6 = 0 then some (.publish (fld 4 w 16)) else none
    | 1 => if bits w 11 5 = 0 ∧ bits w 20 1 = 0 then some (.pubq (fld 5 w 21) (fld 4 w 16)) else none
    | _ => none
  | _ => none

/-- The vector stream's opcode map (R85–R86): the fields of a word, before the operand limits. -/
def rawVector (w : Nat) : Option Instr :=
  match bits w 26 6 with
  | 0x01 =>
    match bits w 0 2 with
    | 0 => (vArgs3? w).map .vadd
    | _ => none
  | 0x02 =>
    match bits w 0 2 with
    | 0 => (vArgs3? w).map .vsub
    | _ => none
  | 0x03 =>
    match bits w 0 2 with
    | 0 => (vArgs3? w).map .vmul
    | _ => none
  | 0x04 =>
    match bits w 0 2 with
    | 0 => (vArgs3? w).map .vfma
    | _ => none
  | 0x05 =>
    match bits w 0 2 with
    | 0 => (vArgs3? w).map .vfnma
    | _ => none
  | 0x06 =>
    match bits w 0 2 with
    | 0 => (vArgs3? w).map .vdiv
    | _ => none
  | 0x07 =>
    match bits w 0 2 with
    | 0 => (vArgs3? w).map .vmin
    | 1 => (vArgs3? w).map .vminNum
    | _ => none
  | 0x08 =>
    match bits w 0 2 with
    | 0 => (vArgs3? w).map .vmax
    | 1 => (vArgs3? w).map .vmaxNum
    | _ => none
  | 0x09 =>
    match bits w 0 2 with
    | 0 => (vArgs2? w).map .vsqrt
    | 1 => (vArgs2? w).map .vabs
    | 2 => (vArgs2? w).map .vneg
    | 3 => (vArgs2? w).map .vrint
    | _ => none
  | 0x0A =>
    match bits w 0 2 with
    | 0 => (vArgs1? w).map .vexp2
    | 1 => (vArgs1? w).map .vlog2
    | 2 => (vArgs1? w).map .vrcp
    | 3 => (vArgs1? w).map .vrsq
    | _ => none
  | 0x0B =>
    match bits w 0 2 with
    | 0 => (vArgs1? w).map .vtanh
    | 1 => (vArgs1? w).map .vsin
    | 2 => (vArgs1? w).map .vcos
    | 3 => (vArgs1? w).map .verf
    | _ => none
  | 0x0C =>
    match bits w 0 2 with
    | 0 => (vArgs3? w).map .vcmpEq
    | 1 => (vArgs3? w).map .vcmpLt
    | 2 => (vArgs3? w).map .vcmpLe
    | 3 => (vArgs3? w).map .vcmpUnord
    | _ => none
  | 0x0D =>
    match bits w 0 2 with
    | 0 => (vArgs3? w).map .vcmpNe
    | 1 => (vArgs3? w).map .vcmpGt
    | 2 => (vArgs3? w).map .vcmpGe
    | 3 => (vArgs3? w).map .vcmpOrd
    | _ => none
  | 0x0E =>
    match bits w 0 2 with
    | 0 => (vSelArgs? w).map .vsel
    | _ => none
  | 0x0F => (vCvtArgs? w).map .vcvt
  | 0x10 =>
    match bits w 0 2 with
    | 0 => (vArgsI? w).map .viadd
    | _ => none
  | 0x11 =>
    match bits w 0 2 with
    | 0 => (vArgsI? w).map .visub
    | _ => none
  | 0x12 =>
    match bits w 0 2 with
    | 0 => (vArgsI? w).map .vimul
    | _ => none
  | 0x13 =>
    match bits w 0 2 with
    | 0 => (vArgs3? w).map .vand
    | 1 => (vArgs3? w).map .vor
    | 2 => (vArgs3? w).map .vxor
    | 3 => (vArgs3? w).map .vandn
    | _ => none
  | 0x14 =>
    match bits w 0 2 with
    | 0 => (vArgsI? w).map .vsll
    | 1 => (vArgsI? w).map .vsrl
    | 2 => (vArgsI? w).map .vsra
    | _ => none
  | 0x15 =>
    match bits w 0 2 with
    | 0 => (vArgsI? w).map .vimin
    | 1 => (vArgsI? w).map .vimax
    | 2 => (vArgsI? w).map .viminu
    | 3 => (vArgsI? w).map .vimaxu
    | _ => none
  | 0x18 =>
    match bits w 0 2 with
    | 0 => (vRedArgs? w).map .vredSumT
    | 1 => (vRedArgs? w).map .vredSumR
    | 2 => (vRedArgs? w).map .vredMax
    | 3 => (vRedArgs? w).map .vredMin
    | _ => none
  | 0x19 =>
    match bits w 0 2 with
    | 0 => (vArgs1? w).map .vredrowSum
    | 1 => (vArgs1? w).map .vredrowMax
    | 2 => (vArgs1? w).map .vredrowMin
    | _ => none
  | 0x1A =>
    match bits w 0 2 with
    | 0 => (vArgs1? w).map .vscanSumI
    | 1 => (vArgs1? w).map .vscanSumE
    | 2 => (vArgs1? w).map .vscanMaxI
    | _ => none
  | 0x1B =>
    match bits w 0 2 with
    | 0 => if bits w 2 14 = 0 then some (.vrcoal (fld 5 w 21) (fld 5 w 16)) else none
    | 1 => if bits w 2 14 = 0 ∧ bits w 24 2 = 0 then some (.vrcnt (fld 3 w 21) (fld 5 w 16)) else none
    | 2 => if bits w 2 14 = 0 ∧ bits w 24 2 = 0 then some (.vrlen (fld 3 w 21) (fld 5 w 16)) else none
    | _ => none
  | 0x1C =>
    match bits w 0 2 with
    | 0 => (vSegArgs? w).map .vsegsumE
    | 1 => (vSegArgs? w).map .vsegsumP
    | 2 => (vSegArgs? w).map .vsegmaxE
    | 3 => (vSegArgs? w).map .vsegcntP
    | _ => none
  | 0x1D =>
    match bits w 0 2 with
    | 0 => if bits w 4 17 = 0 then (vtype? w 2).map fun t => .viota (fld 5 w 21) t else none
    | _ => none
  | 0x1E => if bits w 2 14 = 0 then (vtype? w 0).map fun t => .vsplat (fld 5 w 21) (fld 5 w 16) t else none
  | 0x1F => if bits w 16 5 = 0 then some (.vsplati (fld 5 w 21) (fld 16 w 0)) else none
  | 0x20 => if bits w 21 5 = 0 then (if bits w 16 5 = 0 then some (.vshapeImm (fld 8 w 8) (fld 8 w 0)) else if bits w 0 16 = 0 then some (.vshapeReg (fld 5 w 16)) else none) else none
  | 0x21 => (vMemArgs? w).map .vld
  | 0x22 => (vMemArgs? w).map .vst
  | 0x23 => (vMemArgs? w).map .vldr
  | 0x24 => (vMemArgs? w).map .vstr
  | 0x25 => (vTileArgs? w).map .vfromm
  | 0x26 => (vTileArgs? w).map .vtom
  | 0x27 => if bits w 2 14 = 0 then some (.vmov (fld 5 w 21) (fld 5 w 16) (fld 2 w 0)) else none
  | 0x28 =>
    match bits w 22 4 with
    | 0 => if bits w 0 2 = 0 then some (.vpost (fld 4 w 18) (fld 16 w 2)) else none
    | 1 => if bits w 0 2 = 0 then some (.vwait (fld 4 w 18) (fld 16 w 2)) else none
    | 2 => if bits w 0 22 = 0 then some .vland else none
    | 3 => if bits w 0 22 = 0 then some .vend else none
    | 4 => if bits w 0 2 = 0 ∧ bits w 4 18 = 0 then some (.vsetrm (roundMode w 2)) else none
    | 5 => if bits w 0 2 = 0 ∧ bits w 7 15 = 0 then some (.vclrf (fld 5 w 2)) else none
    | _ => none
  | 0x29 =>
    match bits w 22 1 with
    | 0 => some (.vloopImm (fld 3 w 23) (fld 10 w 12) (fld 12 w 0))
    | 1 => if bits w 17 5 = 0 then some (.vloopReg (fld 3 w 23) (fld 5 w 12) (fld 12 w 0)) else none
    | _ => none
  | _ => none

/-- The matrix stream's opcode map (R87): the fields of a word, before the operand limits. -/
def rawMatrix (w : Nat) : Option Instr :=
  match bits w 26 6 with
  | 0x01 => (mmaArgs? w).map .mma
  | 0x02 => (mmaArgs? w).map .mmat
  | 0x03 => (mldaArgs? w).map .mlda
  | 0x04 => (mstaArgs? w).map .msta
  | 0x05 => (mstaArgs? w).map .mstq
  | 0x06 =>
    match bits w 22 4 with
    | 0 => if bits w 0 19 = 0 then some (.mclr (fld 3 w 19)) else none
    | 1 => if bits w 0 19 = 0 then some (.mfull (fld 3 w 19)) else none
    | 2 => if bits w 0 19 = 0 then some (.mempty (fld 3 w 19)) else none
    | 3 => if bits w 0 2 = 0 then some (.mpost (fld 4 w 18) (fld 16 w 2)) else none
    | 4 => if bits w 0 2 = 0 then some (.mwaitMctl (fld 4 w 18) (fld 16 w 2)) else none
    | 5 => if bits w 0 22 = 0 then some .mland else none
    | 6 => if bits w 0 22 = 0 then some .mend else none
    | 7 => if bits w 0 16 = 0 then some (.madd (fld 3 w 19) (fld 3 w 16)) else none
    | 8 => if bits w 0 14 = 0 then some (.mscal (fld 3 w 19) (fld 5 w 14)) else none
    | 9 => if bits w 0 16 = 0 then some (.mtrans (fld 3 w 19) (fld 3 w 16)) else none
    | _ => none
  | 0x07 =>
    match bits w 22 1 with
    | 0 => some (.mloopImm (fld 3 w 23) (fld 10 w 12) (fld 12 w 0))
    | 1 => if bits w 17 5 = 0 then some (.mloopReg (fld 3 w 23) (fld 5 w 12) (fld 12 w 0)) else none
    | _ => none
  | _ => none

/-- The copy stream's opcode map (R88): the fields of a word, before the operand limits. -/
def rawCopy (w : Nat) : Option Instr :=
  match bits w 26 6 with
  | 0x01 =>
    match bits w 20 6 with
    | 0 => (some (ccArgs w)).map .cpy
    | 1 => (some (ccArgs w)).map .cpyCvt
    | 2 => (some (ccArgs w)).map .cpyTr2d
    | 3 => (some (ccArgs w)).map .cpySwz
    | 4 => (some (ccArgs w)).map .cpyRle
    | 5 => (some (ccArgs w)).map .cpyUnrle
    | 6 => (some (ccArgs w)).map .cpyQ4
    | 7 => (some (ccArgs w)).map .cpyDeq
    | 8 => (some (ccArgs w)).map .cpyGather
    | 9 => (some (ccArgs w)).map .cpyScatter
    | 0xa => (cdArgs? w).map .cpyFill
    | 0xb => (some (ccArgs w)).map .cpyRadd
    | 0xc => (ccCrcArgs? w).map .cpyCrc
    | _ => none
  | 0x02 =>
    match bits w 20 6 with
    | 0 => (some (cxArgs w)).map .xcpy
    | 1 => (some (cxArgs w)).map .xcpyCvt
    | 4 => (some (cxArgs w)).map .xcpyRle
    | 5 => (some (cxArgs w)).map .xcpyUnrle
    | 0xc => (cxCrcArgs? w).map .xcpyCrc
    | _ => none
  | 0x03 =>
    match bits w 20 6 with
    | 0 => (some (cxArgs w)).map .wput
    | 1 => (some (cxArgs w)).map .wputCvt
    | 4 => (some (cxArgs w)).map .wputRle
    | 5 => (some (cxArgs w)).map .wputUnrle
    | 0xc => (cxCrcArgs? w).map .wputCrc
    | _ => none
  | 0x05 =>
    match bits w 20 6 with
    | 0 => (some (ccArgs w)).map .lcpy
    | 1 => (some (ccArgs w)).map .lcpyCvt
    | 4 => (some (ccArgs w)).map .lcpyRle
    | 5 => (some (ccArgs w)).map .lcpyUnrle
    | 0xc => (ccCrcArgs? w).map .lcpyCrc
    | _ => none
  | 0x07 =>
    match bits w 22 4 with
    | 2 => if bits w 0 22 = 0 then some .cfence else none
    | 3 => if bits w 0 22 = 0 then some .cend else none
    | _ => none
  | _ => none

/-- The atomic operations of AMO and CATOM, in the order of their codes (R82, R88). -/
inductive AtomOp | add | and | or | xor | min | max | minu | maxu | swap | cas
deriving DecidableEq, Repr

def AtomOp.code : AtomOp → Nat
  | .add => 0 | .and => 1 | .or => 2 | .xor => 3 | .min => 4 | .max => 5 | .minu => 6 | .maxu => 7 | .swap => 8 | .cas => 9

def atomOp? (w lo n : Nat) : Option AtomOp :=
  match bits w lo n with
  | 0 => some .add | 1 => some .and | 2 => some .or | 3 => some .xor | 4 => some .min
  | 5 => some .max | 6 => some .minu | 7 => some .maxu | 8 => some .swap | 9 => some .cas
  | _ => none

/-- The copy stream's words of majors 0x04, 0x06, 0x07 and 0x08 that have operands. They are read into a type of
their own first: Lean's runtime holds at most 244 constructors with operands in one type, so these are turned into
`Instr` by the kernel's reading alone, and `runWord` runs them compiled from here. -/
inductive CopyTail
  | catom (op : AtomOp) (o : CdArgs)
  | coll (o : CollArgs)
  | cpost (k : BitVec 4) (imm : BitVec 16)
  | cwait (k : BitVec 4) (imm : BitVec 16)
  | crec (imm : BitVec 16)
  | cpub (k : BitVec 4)
  | cloopImm (lv : BitVec 3) (cnt : BitVec 10) (len : BitVec 12)
  | cloopReg (lv : BitVec 3) (rs : BitVec 5) (len : BitVec 12)
deriving DecidableEq, Repr

/-- The instruction such a word names. -/
noncomputable def CopyTail.instr : CopyTail → Instr
  | .catom .add o => .catomAdd o | .catom .and o => .catomAnd o | .catom .or o => .catomOr o
  | .catom .xor o => .catomXor o | .catom .min o => .catomMin o | .catom .max o => .catomMax o
  | .catom .minu o => .catomMinu o | .catom .maxu o => .catomMaxu o | .catom .swap o => .catomSwap o
  | .catom .cas o => .catomCas o
  | .coll o => .coll o
  | .cpost k n => .cpost k n | .cwait k n => .cwait k n | .crec n => .crec n | .cpub k => .cpub k
  | .cloopImm l c n => .cloopImm l c n | .cloopReg l r n => .cloopReg l r n

/-- The operand limits of such a word, those of its instruction. -/
def CopyTail.ok : CopyTail → Bool
  | .catom _ o => blockFits o.p 3
  | .cloopImm l _ n => loopOk l n | .cloopReg l _ n => loopOk l n
  | _ => true

/-- Majors 0x04, 0x06, 0x07 and 0x08 of the copy stream's opcode map (R88). -/
def rawTail (w : Nat) : Option CopyTail :=
  match bits w 26 6 with
  | 0x04 => (atomOp? w 20 6).bind fun op => (cdArgs? w).map fun o => .catom op o
  | 0x06 => (collArgs? w).map .coll
  | 0x07 =>
    match bits w 22 4 with
    | 0 => if bits w 0 2 = 0 then some (.cpost (fld 4 w 18) (fld 16 w 2)) else none
    | 1 => if bits w 0 2 = 0 then some (.cwait (fld 4 w 18) (fld 16 w 2)) else none
    | 4 => if bits w 0 2 = 0 ∧ bits w 18 4 = 0 then some (.crec (fld 16 w 2)) else none
    | 5 => if bits w 0 18 = 0 then some (.cpub (fld 4 w 18)) else none
    | _ => none
  | 0x08 =>
    match bits w 22 1 with
    | 0 => some (.cloopImm (fld 3 w 23) (fld 10 w 12) (fld 12 w 0))
    | 1 => if bits w 17 5 = 0 then some (.cloopReg (fld 3 w 23) (fld 5 w 12) (fld 12 w 0)) else none
    | _ => none
  | _ => none

/-- A word in the map of a stream, before the operand limits and without `rawTail`'s. -/
def rawDecode : Stream → Nat → Option Instr
  | .scalar => rawScalar | .vector => rawVector | .matrix => rawMatrix | .copy => rawCopy

/-- A word's instruction, but for the words of `rawTail`. -/
def decodeHead (st : Stream) (w : Nat) : Option Instr :=
  match rawDecode st w with
  | some i => if i.wellFormed then some i else none
  | none => none

/-- The words of `rawTail` within their operand limits. -/
def decodeTail (st : Stream) (w : Nat) : Option CopyTail :=
  match st with
  | .copy => match rawTail w with
    | some t => if t.ok then some t else none
    | none => none
  | _ => none

/-- The instruction a word names in a stream's map, or none: then the word is not an instruction (R77). -/
noncomputable def decode (st : Stream) (w : Nat) : Option Instr :=
  match decodeHead st w with
  | some i => some i
  | none => (decodeTail st w).map CopyTail.instr

/-! ### Encoding -/

def VMask.word : VMask → Nat
  | none => 0
  | some m => 2 ^ 5 + m.toNat * 2 ^ 6

def VArgs3.word (o : VArgs3) : Nat :=
  o.d.toNat * 2 ^ 21 + o.a.toNat * 2 ^ 16 + o.b.toNat * 2 ^ 11 + VMask.word o.mask + o.c.toNat * 2 ^ 4 + o.t.code * 2 ^ 2
def VArgs2.word (o : VArgs2) : Nat :=
  o.d.toNat * 2 ^ 21 + o.a.toNat * 2 ^ 16 + VMask.word o.mask + o.c.toNat * 2 ^ 4 + o.t.code * 2 ^ 2
def VArgs1.word (o : VArgs1) : Nat :=
  o.d.toNat * 2 ^ 21 + o.a.toNat * 2 ^ 16 + o.c.toNat * 2 ^ 4 + o.t.code * 2 ^ 2
def VArgsI.word (o : VArgsI) : Nat :=
  o.d.toNat * 2 ^ 21 + o.a.toNat * 2 ^ 16 + o.b.toNat * 2 ^ 11 + VMask.word o.mask + o.c.toNat * 2 ^ 4
def VCvtArgs.word (o : VCvtArgs) : Nat :=
  o.d.toNat * 2 ^ 21 + o.a.toNat * 2 ^ 16 + VMask.word o.mask + o.c.toNat * 2 ^ 4 + o.t.code * 2 ^ 2 + o.src.code
def VSelArgs.word (o : VSelArgs) : Nat :=
  o.d.toNat * 2 ^ 21 + o.a.toNat * 2 ^ 16 + o.b.toNat * 2 ^ 11 + o.m.toNat * 2 ^ 6 + o.c.toNat * 2 ^ 4 + o.t.code * 2 ^ 2
def VSegArgs.word (o : VSegArgs) : Nat :=
  o.d.toNat * 2 ^ 21 + o.a.toNat * 2 ^ 16 + o.b.toNat * 2 ^ 11 + o.c.toNat * 2 ^ 4 + o.t.code * 2 ^ 2
def VRedArgs.word (o : VRedArgs) : Nat :=
  o.e.toNat * 2 ^ 21 + o.a.toNat * 2 ^ 16 + o.t.code * 2 ^ 2
def VMemArgs.word (o : VMemArgs) : Nat :=
  o.d.toNat * 2 ^ 21 + o.h.toNat * 2 ^ 17 + o.rs.toNat * 2 ^ 12 + o.g.toNat * 2 ^ 10 + o.imm.toNat * 2 ^ 2 + o.t.code
def VTileArgs.word (o : VTileArgs) : Nat :=
  o.d.toNat * 2 ^ 21 + o.mr.toNat * 2 ^ 18 + o.col.toNat * 2 ^ 17 + o.rs.toNat * 2 ^ 12 + o.imm.toNat * 2 ^ 5
    + o.ef.toNat * 2 ^ 4 + o.t.code * 2 ^ 2
def MmaArgs.word (o : MmaArgs) : Nat :=
  o.md.toNat * 2 ^ 23 + o.ha.toNat * 2 ^ 19 + o.hb.toNat * 2 ^ 15 + o.fs.toNat * 2 ^ 11 + o.z.toNat * 2 ^ 10
    + o.f.toNat * 2 ^ 9 + o.ao.toNat * 2 ^ 5 + o.bo.toNat * 2 ^ 1
def MldaArgs.word (o : MldaArgs) : Nat :=
  o.md.toNat * 2 ^ 23 + o.h.toNat * 2 ^ 19 + o.om.toNat * 2 ^ 11 + o.e.toNat * 2 ^ 10 + o.rm.code * 2 ^ 8
def MstaArgs.word (o : MstaArgs) : Nat :=
  o.md.toNat * 2 ^ 23 + o.h.toNat * 2 ^ 19 + o.fs.toNat * 2 ^ 15 + o.om.toNat * 2 ^ 11 + o.e.toNat * 2 ^ 10 + o.rm.code * 2 ^ 8
def CcArgs.word (o : CcArgs) : Nat :=
  o.hs.toNat * 2 ^ 16 + o.hd.toNat * 2 ^ 12 + o.p.toNat * 2 ^ 7 + o.tag.toNat * 2 ^ 1 + o.r.toNat
def CcCrcArgs.word (o : CcCrcArgs) : Nat :=
  o.hs.toNat * 2 ^ 16 + o.hd.toNat * 2 ^ 12 + o.p.toNat * 2 ^ 7 + o.tag.toNat * 2 ^ 1
def CdArgs.word (o : CdArgs) : Nat :=
  o.hd.toNat * 2 ^ 12 + o.p.toNat * 2 ^ 7 + o.tag.toNat * 2 ^ 1 + o.r.toNat
def CxArgs.word (o : CxArgs) : Nat :=
  o.hs.toNat * 2 ^ 16 + o.hd.toNat * 2 ^ 12 + o.ch.toNat * 2 ^ 6 + o.p.toNat * 2 ^ 1 + o.r.toNat
def CxCrcArgs.word (o : CxCrcArgs) : Nat :=
  o.hs.toNat * 2 ^ 16 + o.hd.toNat * 2 ^ 12 + o.ch.toNat * 2 ^ 6 + o.p.toNat * 2 ^ 1
def CollArgs.word (o : CollArgs) : Nat :=
  o.p.toNat * 2 ^ 7 + o.tag.toNat * 2 ^ 1 + o.r.toNat

/-- A word's fixed bits and its fields at their places. -/
def w1 (b x i : Nat) : Nat := b + x * 2 ^ i
def w2 (b x i y j : Nat) : Nat := b + x * 2 ^ i + y * 2 ^ j
def w3 (b x i y j z k : Nat) : Nat := b + x * 2 ^ i + y * 2 ^ j + z * 2 ^ k
def w4 (b x i y j z k u l : Nat) : Nat := b + x * 2 ^ i + y * 2 ^ j + z * 2 ^ k + u * 2 ^ l
def w5 (b x i y j z k u l v m : Nat) : Nat := b + x * 2 ^ i + y * 2 ^ j + z * 2 ^ k + u * 2 ^ l + v * 2 ^ m
def w6 (b x i y j z k u l v m t n : Nat) : Nat :=
  b + x * 2 ^ i + y * 2 ^ j + z * 2 ^ k + u * 2 ^ l + v * 2 ^ m + t * 2 ^ n

/-- The stream that issues an instruction and the instruction's word; none for an event of the machine. -/
def encode : Instr → Option (Stream × Nat)
  | .add d a b => some (.scalar, w3 0x04000000 d.toNat 21 a.toNat 16 b.toNat 11)
  | .sub d a b => some (.scalar, w3 0x04000001 d.toNat 21 a.toNat 16 b.toNat 11)
  | .and d a b => some (.scalar, w3 0x04000002 d.toNat 21 a.toNat 16 b.toNat 11)
  | .or d a b => some (.scalar, w3 0x04000003 d.toNat 21 a.toNat 16 b.toNat 11)
  | .xor d a b => some (.scalar, w3 0x04000004 d.toNat 21 a.toNat 16 b.toNat 11)
  | .andn d a b => some (.scalar, w3 0x04000005 d.toNat 21 a.toNat 16 b.toNat 11)
  | .sll d a b => some (.scalar, w3 0x04000006 d.toNat 21 a.toNat 16 b.toNat 11)
  | .srl d a b => some (.scalar, w3 0x04000007 d.toNat 21 a.toNat 16 b.toNat 11)
  | .sra d a b => some (.scalar, w3 0x04000008 d.toNat 21 a.toNat 16 b.toNat 11)
  | .slt d a b => some (.scalar, w3 0x04000009 d.toNat 21 a.toNat 16 b.toNat 11)
  | .sltu d a b => some (.scalar, w3 0x0400000A d.toNat 21 a.toNat 16 b.toNat 11)
  | .seq d a b => some (.scalar, w3 0x0400000B d.toNat 21 a.toNat 16 b.toNat 11)
  | .min d a b => some (.scalar, w3 0x0400000C d.toNat 21 a.toNat 16 b.toNat 11)
  | .max d a b => some (.scalar, w3 0x0400000D d.toNat 21 a.toNat 16 b.toNat 11)
  | .minu d a b => some (.scalar, w3 0x0400000E d.toNat 21 a.toNat 16 b.toNat 11)
  | .maxu d a b => some (.scalar, w3 0x0400000F d.toNat 21 a.toNat 16 b.toNat 11)
  | .mul d a b => some (.scalar, w3 0x04000010 d.toNat 21 a.toNat 16 b.toNat 11)
  | .mulh d a b => some (.scalar, w3 0x04000011 d.toNat 21 a.toNat 16 b.toNat 11)
  | .mulhu d a b => some (.scalar, w3 0x04000012 d.toNat 21 a.toNat 16 b.toNat 11)
  | .div d a b => some (.scalar, w3 0x04000013 d.toNat 21 a.toNat 16 b.toNat 11)
  | .divu d a b => some (.scalar, w3 0x04000014 d.toNat 21 a.toNat 16 b.toNat 11)
  | .rem d a b => some (.scalar, w3 0x04000015 d.toNat 21 a.toNat 16 b.toNat 11)
  | .remu d a b => some (.scalar, w3 0x04000016 d.toNat 21 a.toNat 16 b.toNat 11)
  | .clz d a => some (.scalar, w2 0x04000018 d.toNat 21 a.toNat 16)
  | .ctz d a => some (.scalar, w2 0x04000019 d.toNat 21 a.toNat 16)
  | .popc d a => some (.scalar, w2 0x0400001A d.toNat 21 a.toNat 16)
  | .addi d a imm => some (.scalar, w3 0x08000000 d.toNat 21 a.toNat 16 imm.toNat 0)
  | .andi d a imm => some (.scalar, w3 0x0C000000 d.toNat 21 a.toNat 16 imm.toNat 0)
  | .ori d a imm => some (.scalar, w3 0x10000000 d.toNat 21 a.toNat 16 imm.toNat 0)
  | .xori d a imm => some (.scalar, w3 0x14000000 d.toNat 21 a.toNat 16 imm.toNat 0)
  | .slti d a imm => some (.scalar, w3 0x18000000 d.toNat 21 a.toNat 16 imm.toNat 0)
  | .shori d a imm => some (.scalar, w3 0x1C000000 d.toNat 21 a.toNat 16 imm.toNat 0)
  | .slli d a n => some (.scalar, w3 0x20000000 d.toNat 21 a.toNat 16 n.toNat 0)
  | .srli d a n => some (.scalar, w3 0x20000100 d.toNat 21 a.toNat 16 n.toNat 0)
  | .srai d a n => some (.scalar, w3 0x20000200 d.toNat 21 a.toNat 16 n.toNat 0)
  | .beq a b off => some (.scalar, w3 0x28000000 a.toNat 21 b.toNat 16 off.toNat 0)
  | .bne a b off => some (.scalar, w3 0x2C000000 a.toNat 21 b.toNat 16 off.toNat 0)
  | .blt a b off => some (.scalar, w3 0x30000000 a.toNat 21 b.toNat 16 off.toNat 0)
  | .bge a b off => some (.scalar, w3 0x34000000 a.toNat 21 b.toNat 16 off.toNat 0)
  | .bltu a b off => some (.scalar, w3 0x38000000 a.toNat 21 b.toNat 16 off.toNat 0)
  | .bgeu a b off => some (.scalar, w3 0x3C000000 a.toNat 21 b.toNat 16 off.toNat 0)
  | .jal d off => some (.scalar, w2 0x40000000 d.toNat 21 off.toNat 0)
  | .jalr d a imm => some (.scalar, w3 0x44000000 d.toNat 21 a.toNat 16 imm.toNat 0)
  | .ld d a sz byHome imm => some (.scalar, w5 0x48000000 d.toNat 21 a.toNat 16 sz.code 14 byHome.toNat 12 imm.toNat 0)
  | .ldu d a sz byHome imm => some (.scalar, w5 0x4C000000 d.toNat 21 a.toNat 16 sz.code 14 byHome.toNat 12 imm.toNat 0)
  | .st d a sz imm => some (.scalar, w4 0x50000000 d.toNat 21 a.toNat 16 sz.code 14 imm.toNat 0)
  | .lda d a sc sz => some (.scalar, w4 0x54000000 d.toNat 21 a.toNat 16 sc.code 7 sz.code 3)
  | .stl d a sc sz => some (.scalar, w4 0x58000000 d.toNat 21 a.toNat 16 sc.code 7 sz.code 3)
  | .amoAdd d a b sc sz acqrel => some (.scalar, w6 0x5C000000 d.toNat 21 a.toNat 16 b.toNat 11 sc.code 7 sz.code 1 acqrel.toNat 0)
  | .amoAnd d a b sc sz acqrel => some (.scalar, w6 0x5C000008 d.toNat 21 a.toNat 16 b.toNat 11 sc.code 7 sz.code 1 acqrel.toNat 0)
  | .amoOr d a b sc sz acqrel => some (.scalar, w6 0x5C000010 d.toNat 21 a.toNat 16 b.toNat 11 sc.code 7 sz.code 1 acqrel.toNat 0)
  | .amoXor d a b sc sz acqrel => some (.scalar, w6 0x5C000018 d.toNat 21 a.toNat 16 b.toNat 11 sc.code 7 sz.code 1 acqrel.toNat 0)
  | .amoMin d a b sc sz acqrel => some (.scalar, w6 0x5C000020 d.toNat 21 a.toNat 16 b.toNat 11 sc.code 7 sz.code 1 acqrel.toNat 0)
  | .amoMax d a b sc sz acqrel => some (.scalar, w6 0x5C000028 d.toNat 21 a.toNat 16 b.toNat 11 sc.code 7 sz.code 1 acqrel.toNat 0)
  | .amoMinu d a b sc sz acqrel => some (.scalar, w6 0x5C000030 d.toNat 21 a.toNat 16 b.toNat 11 sc.code 7 sz.code 1 acqrel.toNat 0)
  | .amoMaxu d a b sc sz acqrel => some (.scalar, w6 0x5C000038 d.toNat 21 a.toNat 16 b.toNat 11 sc.code 7 sz.code 1 acqrel.toNat 0)
  | .amoSwap d a b sc sz acqrel => some (.scalar, w6 0x5C000040 d.toNat 21 a.toNat 16 b.toNat 11 sc.code 7 sz.code 1 acqrel.toNat 0)
  | .amoCas d a b sc sz acqrel => some (.scalar, w6 0x5C000048 d.toNat 21 a.toNat 16 b.toNat 11 sc.code 7 sz.code 1 acqrel.toNat 0)
  | .ldSc d a j => some (.scalar, w3 0x60000000 d.toNat 21 a.toNat 16 j.toNat 7)
  | .stSc a b j => some (.scalar, w3 0x60000008 a.toNat 16 b.toNat 11 j.toNat 7)
  | .amoaddSc d a b j => some (.scalar, w4 0x60000010 d.toNat 21 a.toNat 16 b.toNat 11 j.toNat 7)
  | .swapSc d a b j => some (.scalar, w4 0x60000018 d.toNat 21 a.toNat 16 b.toNat 11 j.toNat 7)
  | .casSc d a b j => some (.scalar, w4 0x60000020 d.toNat 21 a.toNat 16 b.toNat 11 j.toNat 7)
  | .fenceFull sc => some (.scalar, w1 0x64000000 sc.code 0)
  | .fenceAcq sc => some (.scalar, w1 0x64000010 sc.code 0)
  | .fenceRel sc => some (.scalar, w1 0x64000020 sc.code 0)
  | .fenceEngines sc => some (.scalar, w1 0x64000030 sc.code 0)
  | .ownLend d a b => some (.scalar, w3 0x68000000 d.toNat 21 a.toNat 16 b.toNat 11)
  | .ownRet d a => some (.scalar, w2 0x68000080 d.toNat 21 a.toNat 16)
  | .ownSplit d a => some (.scalar, w2 0x68000100 d.toNat 21 a.toNat 16)
  | .ownJoin d a => some (.scalar, w2 0x68000180 d.toNat 21 a.toNat 16)
  | .ownShare d a b => some (.scalar, w3 0x68000200 d.toNat 21 a.toNat 16 b.toNat 11)
  | .ownDrop d a => some (.scalar, w2 0x68000280 d.toNat 21 a.toNat 16)
  | .ownQry d a => some (.scalar, w2 0x68000300 d.toNat 21 a.toNat 16)
  | .ownWait d a => some (.scalar, w2 0x68000380 d.toNat 21 a.toNat 16)
  | .ownClaim d a => some (.scalar, w2 0x68000400 d.toNat 21 a.toNat 16)
  | .wopen d a b => some (.scalar, w3 0x6C000000 d.toNat 21 a.toNat 16 b.toNat 11)
  | .wclose d a => some (.scalar, w2 0x6C000100 d.toNat 21 a.toNat 16)
  | .wwait d a b => some (.scalar, w3 0x6C000200 d.toNat 21 a.toNat 16 b.toNat 11)
  | .wcnt d a => some (.scalar, w2 0x6C000300 d.toNat 21 a.toNat 16)
  | .wrst d a => some (.scalar, w2 0x6C000400 d.toNat 21 a.toNat 16)
  | .post a k => some (.scalar, w2 0x70000000 a.toNat 16 k.toNat 4)
  | .wait a k => some (.scalar, w2 0x70000100 a.toNat 16 k.toNat 4)
  | .arrive n sc => some (.scalar, w2 0x70000200 n.toNat 4 sc.code 0)
  | .bwait n sc => some (.scalar, w2 0x70000300 n.toNat 4 sc.code 0)
  | .mwaitSync a b => some (.scalar, w2 0x70000400 a.toNat 16 b.toNat 11)
  | .yield => some (.scalar, 0x70000500)
  | .icsync => some (.scalar, 0x70000600)
  | .sleep a => some (.scalar, w1 0x70000700 a.toNat 16)
  | .hld hd a => some (.scalar, w2 0x74000000 hd.toNat 21 a.toNat 16)
  | .hst hd a => some (.scalar, w2 0x74000100 hd.toNat 21 a.toNat 16)
  | .hsetw hd a w => some (.scalar, w3 0x74000200 hd.toNat 21 a.toNat 16 w.toNat 0)
  | .hgetw d ha w => some (.scalar, w3 0x74000300 d.toNat 21 ha.toNat 16 w.toNat 0)
  | .haddb hd a => some (.scalar, w2 0x74000400 hd.toNat 21 a.toNat 16)
  | .omld om a => some (.scalar, w2 0x74000500 om.toNat 21 a.toNat 16)
  | .loopImm lv cnt len => some (.scalar, w3 0x78000000 lv.toNat 23 cnt.toNat 12 len.toNat 0)
  | .loopReg lv rs len => some (.scalar, w3 0x78400000 lv.toNat 23 rs.toNat 12 len.toNat 0)
  | .bqEmpty off => some (.scalar, w1 0x7C000000 off.toNat 0)
  | .bqNonempty off => some (.scalar, w1 0x7C200000 off.toNat 0)
  | .bqPoison off => some (.scalar, w1 0x7C400000 off.toNat 0)
  | .bqFault off => some (.scalar, w1 0x7C600000 off.toNat 0)
  | .bqOk off => some (.scalar, w1 0x7C800000 off.toNat 0)
  | .cqpop d => some (.scalar, w1 0x80000000 d.toNat 21)
  | .cqwait => some (.scalar, 0x80000001)
  | .cqwaity => some (.scalar, 0x80000002)
  | .cqpeek d => some (.scalar, w1 0x80000003 d.toNat 21)
  | .dqpush d a => some (.scalar, w2 0x84000000 d.toNat 21 a.toNat 16)
  | .dqpop d => some (.scalar, w1 0x84000001 d.toNat 21)
  | .dqsteal d a => some (.scalar, w2 0x84000002 d.toNat 21 a.toNat 16)
  | .dqlen d => some (.scalar, w1 0x84000003 d.toNat 21)
  | .launch d a => some (.scalar, w2 0x88000000 d.toNat 21 a.toNat 16)
  | .csrr d csr => some (.scalar, w2 0x8C000000 d.toNat 21 csr.toNat 0)
  | .csrw d a csr => some (.scalar, w3 0x8C001000 d.toNat 21 a.toNat 16 csr.toNat 0)
  | .csrs d a csr => some (.scalar, w3 0x8C002000 d.toNat 21 a.toNat 16 csr.toNat 0)
  | .csrc d a csr => some (.scalar, w3 0x8C003000 d.toNat 21 a.toNat 16 csr.toNat 0)
  | .nop => some (.scalar, 0x90000000)
  | .trap => some (.scalar, 0x90000001)
  | .eret => some (.scalar, 0x90000002)
  | .exit => some (.scalar, 0x90000003)
  | .brk => some (.scalar, 0x90000004)
  | .ftset ft a => some (.scalar, w2 0x94000000 ft.toNat 21 a.toNat 16)
  | .ftget d ft => some (.scalar, w2 0x94000001 d.toNat 21 ft.toNat 16)
  | .moveToE e a => some (.scalar, w2 0x98000000 e.toNat 21 a.toNat 16)
  | .moveFromE d e => some (.scalar, w2 0x98000001 d.toNat 21 e.toNat 16)
  | .fstep d => some (.scalar, w1 0x9C000000 d.toNat 21)
  | .cirq d ch => some (.scalar, w2 0x9C000001 d.toNat 21 ch.toNat 5)
  | .publish ha => some (.scalar, w1 0xA0000000 ha.toNat 16)
  | .pubq d ha => some (.scalar, w2 0xA0000001 d.toNat 21 ha.toNat 16)
  | .vadd o => some (.vector, w1 0x04000000 o.word 0)
  | .vsub o => some (.vector, w1 0x08000000 o.word 0)
  | .vmul o => some (.vector, w1 0x0C000000 o.word 0)
  | .vfma o => some (.vector, w1 0x10000000 o.word 0)
  | .vfnma o => some (.vector, w1 0x14000000 o.word 0)
  | .vdiv o => some (.vector, w1 0x18000000 o.word 0)
  | .vmin o => some (.vector, w1 0x1C000000 o.word 0)
  | .vminNum o => some (.vector, w1 0x1C000001 o.word 0)
  | .vmax o => some (.vector, w1 0x20000000 o.word 0)
  | .vmaxNum o => some (.vector, w1 0x20000001 o.word 0)
  | .vsqrt o => some (.vector, w1 0x24000000 o.word 0)
  | .vabs o => some (.vector, w1 0x24000001 o.word 0)
  | .vneg o => some (.vector, w1 0x24000002 o.word 0)
  | .vrint o => some (.vector, w1 0x24000003 o.word 0)
  | .vexp2 o => some (.vector, w1 0x28000000 o.word 0)
  | .vlog2 o => some (.vector, w1 0x28000001 o.word 0)
  | .vrcp o => some (.vector, w1 0x28000002 o.word 0)
  | .vrsq o => some (.vector, w1 0x28000003 o.word 0)
  | .vtanh o => some (.vector, w1 0x2C000000 o.word 0)
  | .vsin o => some (.vector, w1 0x2C000001 o.word 0)
  | .vcos o => some (.vector, w1 0x2C000002 o.word 0)
  | .verf o => some (.vector, w1 0x2C000003 o.word 0)
  | .vcmpEq o => some (.vector, w1 0x30000000 o.word 0)
  | .vcmpLt o => some (.vector, w1 0x30000001 o.word 0)
  | .vcmpLe o => some (.vector, w1 0x30000002 o.word 0)
  | .vcmpUnord o => some (.vector, w1 0x30000003 o.word 0)
  | .vcmpNe o => some (.vector, w1 0x34000000 o.word 0)
  | .vcmpGt o => some (.vector, w1 0x34000001 o.word 0)
  | .vcmpGe o => some (.vector, w1 0x34000002 o.word 0)
  | .vcmpOrd o => some (.vector, w1 0x34000003 o.word 0)
  | .vsel o => some (.vector, w1 0x38000020 o.word 0)
  | .vcvt o => some (.vector, w1 0x3C000000 o.word 0)
  | .viadd o => some (.vector, w1 0x40000008 o.word 0)
  | .visub o => some (.vector, w1 0x44000008 o.word 0)
  | .vimul o => some (.vector, w1 0x48000008 o.word 0)
  | .vand o => some (.vector, w1 0x4C000000 o.word 0)
  | .vor o => some (.vector, w1 0x4C000001 o.word 0)
  | .vxor o => some (.vector, w1 0x4C000002 o.word 0)
  | .vandn o => some (.vector, w1 0x4C000003 o.word 0)
  | .vsll o => some (.vector, w1 0x50000008 o.word 0)
  | .vsrl o => some (.vector, w1 0x50000009 o.word 0)
  | .vsra o => some (.vector, w1 0x5000000A o.word 0)
  | .vimin o => some (.vector, w1 0x54000008 o.word 0)
  | .vimax o => some (.vector, w1 0x54000009 o.word 0)
  | .viminu o => some (.vector, w1 0x5400000A o.word 0)
  | .vimaxu o => some (.vector, w1 0x5400000B o.word 0)
  | .vredSumT o => some (.vector, w1 0x60000000 o.word 0)
  | .vredSumR o => some (.vector, w1 0x60000001 o.word 0)
  | .vredMax o => some (.vector, w1 0x60000002 o.word 0)
  | .vredMin o => some (.vector, w1 0x60000003 o.word 0)
  | .vredrowSum o => some (.vector, w1 0x64000000 o.word 0)
  | .vredrowMax o => some (.vector, w1 0x64000001 o.word 0)
  | .vredrowMin o => some (.vector, w1 0x64000002 o.word 0)
  | .vscanSumI o => some (.vector, w1 0x68000000 o.word 0)
  | .vscanSumE o => some (.vector, w1 0x68000001 o.word 0)
  | .vscanMaxI o => some (.vector, w1 0x68000002 o.word 0)
  | .vrcoal d a => some (.vector, w2 0x6C000000 d.toNat 21 a.toNat 16)
  | .vrcnt e a => some (.vector, w2 0x6C000001 e.toNat 21 a.toNat 16)
  | .vrlen e a => some (.vector, w2 0x6C000002 e.toNat 21 a.toNat 16)
  | .vsegsumE o => some (.vector, w1 0x70000000 o.word 0)
  | .vsegsumP o => some (.vector, w1 0x70000001 o.word 0)
  | .vsegmaxE o => some (.vector, w1 0x70000002 o.word 0)
  | .vsegcntP o => some (.vector, w1 0x70000003 o.word 0)
  | .viota d t => some (.vector, w2 0x74000000 d.toNat 21 t.code 2)
  | .vsplat d rs t => some (.vector, w3 0x78000000 d.toNat 21 rs.toNat 16 t.code 0)
  | .vsplati d imm => some (.vector, w2 0x7C000000 d.toNat 21 imm.toNat 0)
  | .vshapeImm cols rows => some (.vector, w2 0x80000000 cols.toNat 8 rows.toNat 0)
  | .vshapeReg rs => some (.vector, w1 0x80000000 rs.toNat 16)
  | .vld o => some (.vector, w1 0x84000000 o.word 0)
  | .vst o => some (.vector, w1 0x88000000 o.word 0)
  | .vldr o => some (.vector, w1 0x8C000000 o.word 0)
  | .vstr o => some (.vector, w1 0x90000000 o.word 0)
  | .vfromm o => some (.vector, w1 0x94000000 o.word 0)
  | .vtom o => some (.vector, w1 0x98000000 o.word 0)
  | .vmov d a g => some (.vector, w3 0x9C000000 d.toNat 21 a.toNat 16 g.toNat 0)
  | .vpost k imm => some (.vector, w2 0xA0000000 k.toNat 18 imm.toNat 2)
  | .vwait k imm => some (.vector, w2 0xA0400000 k.toNat 18 imm.toNat 2)
  | .vland => some (.vector, 0xA0800000)
  | .vend => some (.vector, 0xA0C00000)
  | .vsetrm rm => some (.vector, w1 0xA1000000 rm.code 2)
  | .vclrf flags => some (.vector, w1 0xA1400000 flags.toNat 2)
  | .vloopImm lv cnt len => some (.vector, w3 0xA4000000 lv.toNat 23 cnt.toNat 12 len.toNat 0)
  | .vloopReg lv rs len => some (.vector, w3 0xA4400000 lv.toNat 23 rs.toNat 12 len.toNat 0)
  | .mma o => some (.matrix, w1 0x04000000 o.word 0)
  | .mmat o => some (.matrix, w1 0x08000000 o.word 0)
  | .mlda o => some (.matrix, w1 0x0C000000 o.word 0)
  | .msta o => some (.matrix, w1 0x10000000 o.word 0)
  | .mstq o => some (.matrix, w1 0x14000000 o.word 0)
  | .mclr md => some (.matrix, w1 0x18000000 md.toNat 19)
  | .mfull md => some (.matrix, w1 0x18400000 md.toNat 19)
  | .mempty md => some (.matrix, w1 0x18800000 md.toNat 19)
  | .mpost k imm => some (.matrix, w2 0x18C00000 k.toNat 18 imm.toNat 2)
  | .mwaitMctl k imm => some (.matrix, w2 0x19000000 k.toNat 18 imm.toNat 2)
  | .mland => some (.matrix, 0x19400000)
  | .mend => some (.matrix, 0x19800000)
  | .madd md ms => some (.matrix, w2 0x19C00000 md.toNat 19 ms.toNat 16)
  | .mscal md rs => some (.matrix, w2 0x1A000000 md.toNat 19 rs.toNat 14)
  | .mtrans md ms => some (.matrix, w2 0x1A400000 md.toNat 19 ms.toNat 16)
  | .mloopImm lv cnt len => some (.matrix, w3 0x1C000000 lv.toNat 23 cnt.toNat 12 len.toNat 0)
  | .mloopReg lv rs len => some (.matrix, w3 0x1C400000 lv.toNat 23 rs.toNat 12 len.toNat 0)
  | .cpy o => some (.copy, w1 0x04000000 o.word 0)
  | .cpyCvt o => some (.copy, w1 0x04100000 o.word 0)
  | .cpyTr2d o => some (.copy, w1 0x04200000 o.word 0)
  | .cpySwz o => some (.copy, w1 0x04300000 o.word 0)
  | .cpyRle o => some (.copy, w1 0x04400000 o.word 0)
  | .cpyUnrle o => some (.copy, w1 0x04500000 o.word 0)
  | .cpyQ4 o => some (.copy, w1 0x04600000 o.word 0)
  | .cpyDeq o => some (.copy, w1 0x04700000 o.word 0)
  | .cpyGather o => some (.copy, w1 0x04800000 o.word 0)
  | .cpyScatter o => some (.copy, w1 0x04900000 o.word 0)
  | .cpyFill o => some (.copy, w1 0x04A00000 o.word 0)
  | .cpyRadd o => some (.copy, w1 0x04B00000 o.word 0)
  | .cpyCrc o => some (.copy, w1 0x04C00001 o.word 0)
  | .xcpy o => some (.copy, w1 0x08000000 o.word 0)
  | .xcpyCvt o => some (.copy, w1 0x08100000 o.word 0)
  | .xcpyRle o => some (.copy, w1 0x08400000 o.word 0)
  | .xcpyUnrle o => some (.copy, w1 0x08500000 o.word 0)
  | .xcpyCrc o => some (.copy, w1 0x08C00001 o.word 0)
  | .wput o => some (.copy, w1 0x0C000000 o.word 0)
  | .wputCvt o => some (.copy, w1 0x0C100000 o.word 0)
  | .wputRle o => some (.copy, w1 0x0C400000 o.word 0)
  | .wputUnrle o => some (.copy, w1 0x0C500000 o.word 0)
  | .wputCrc o => some (.copy, w1 0x0CC00001 o.word 0)
  | .lcpy o => some (.copy, w1 0x14000000 o.word 0)
  | .lcpyCvt o => some (.copy, w1 0x14100000 o.word 0)
  | .lcpyRle o => some (.copy, w1 0x14400000 o.word 0)
  | .lcpyUnrle o => some (.copy, w1 0x14500000 o.word 0)
  | .lcpyCrc o => some (.copy, w1 0x14C00001 o.word 0)
  | .catomAdd o => some (.copy, w1 0x10000000 o.word 0)
  | .catomAnd o => some (.copy, w1 0x10100000 o.word 0)
  | .catomOr o => some (.copy, w1 0x10200000 o.word 0)
  | .catomXor o => some (.copy, w1 0x10300000 o.word 0)
  | .catomMin o => some (.copy, w1 0x10400000 o.word 0)
  | .catomMax o => some (.copy, w1 0x10500000 o.word 0)
  | .catomMinu o => some (.copy, w1 0x10600000 o.word 0)
  | .catomMaxu o => some (.copy, w1 0x10700000 o.word 0)
  | .catomSwap o => some (.copy, w1 0x10800000 o.word 0)
  | .catomCas o => some (.copy, w1 0x10900000 o.word 0)
  | .coll o => some (.copy, w1 0x18000000 o.word 0)
  | .cpost k imm => some (.copy, w2 0x1C000000 k.toNat 18 imm.toNat 2)
  | .cwait k imm => some (.copy, w2 0x1C400000 k.toNat 18 imm.toNat 2)
  | .cfence => some (.copy, 0x1C800000)
  | .cend => some (.copy, 0x1CC00000)
  | .crec imm => some (.copy, w1 0x1D000000 imm.toNat 2)
  | .cpub k => some (.copy, w1 0x1D400000 k.toNat 18)
  | .cloopImm lv cnt len => some (.copy, w3 0x20000000 lv.toNat 23 cnt.toNat 12 len.toNat 0)
  | .cloopReg lv rs len => some (.copy, w3 0x20400000 lv.toNat 23 rs.toNat 12 len.toNat 0)
  | .scopSend => none
  | .scopArrival => none
  | .scopApply => none
  | .mwaitTimeout => none
  | .sleepExpiry => none
  | .runCount => none
  | .vldDataCheck => none
  | .vectorLanding => none
  | .mmaLanding => none
  | .matrixLanding => none
  | .chunkPerformed => none
  | .copyComplete => none
  | .copyRestart => none
  | .storePerformed => none
  | .pageWalk => none
  | .patrol => none
  | .heldRecordEntry => none
  | .handlerEntry => none
  | .asyncHandlerEntry => none
  | .faultToCorelo => none
  | .threadEndByCorelo => none
  | .retirement => none
  | .scrubComplete => none
  | .launchRecord => none
  | .bind => none
  | .preemption => none
  | .resumption => none
  | .fabricStep => none
  | .circuitLive => none
  | .ringTuningLoss => none
  | .laserFailure => none
  | .portRetune => none
  | .chunkFrame => none
  | .ack => none
  | .nack => none
  | .notice => none
  | .expressFrame => none
  | .collContribution => none
  | .collDelivery => none
  | .flit => none
  | .linkAck => none
  | .linkNack => none
  | .millstoneForward => none
  | .millstoneHoldTimeout => none
  | .laneFailure => none
  | .laneMap => none
  | .restripeBoundary => none
  | .laneRetuned => none
  | .retrain => none
  | .retrainDone => none
  | .retrainTimeout => none
  | .linkDown => none
  | .bringUp => none
  | .quiesceDrained => none
  | .vetoTimeout => none
  | .jobCreate => none
  | .jobEnd => none
  | .mapPage => none
  | .submit => none
  | .cancel => none
  | .preemptCmd => none
  | .returnRegion => none
  | .quiesce => none
  | .resumeLink => none
  | .journalRead => none
  | .capRead => none
  | .diagRead => none
  | .attest => none
  | .auditRead => none
  | .auditAck => none
  | .download => none
  | .failUnit => none
  | .rdmaWrite => none
  | .rdmaRead => none
  | .sendFrame => none
  | .invalidRequest => none
  | .moduleReset => none
  | .thermalThrottle => none
  | .thermalTrip => none
  | .notAnInstruction => none
  | .instructionFetchFault => none
  | .mldaDataCheck => none
  | .monitorEviction => none
  | .machineCheckResume => none

/-- The stream whose instruction this is; none for an event. -/
def Instr.stream? (i : Instr) : Option Stream := (encode i).map Prod.fst

/-! ### The opcode table's words

The table numbers the words of all four maps together, so one word may be an instruction of several streams.
The words are read here in the map whose row for it fixes the most bits. -/

/-- How many bits of its word the row of a `CopyTail` word fixes. -/
def CopyTail.fixedBits : CopyTail → Nat
  | .catom _ _ => 16 | .coll _ => 20 | .cpost _ _ => 12 | .cwait _ _ => 12 | .crec _ => 16 | .cpub _ => 28
  | .cloopImm _ _ _ => 7 | .cloopReg _ _ _ => 12

/-- How many bits of its word an instruction's row of the opcode table fixes. -/
def Instr.fixedBits : Instr → Nat
  | .add _ _ _ => 17
  | .sub _ _ _ => 17
  | .and _ _ _ => 17
  | .or _ _ _ => 17
  | .xor _ _ _ => 17
  | .andn _ _ _ => 17
  | .sll _ _ _ => 17
  | .srl _ _ _ => 17
  | .sra _ _ _ => 17
  | .slt _ _ _ => 17
  | .sltu _ _ _ => 17
  | .seq _ _ _ => 17
  | .min _ _ _ => 17
  | .max _ _ _ => 17
  | .minu _ _ _ => 17
  | .maxu _ _ _ => 17
  | .mul _ _ _ => 17
  | .mulh _ _ _ => 17
  | .mulhu _ _ _ => 17
  | .div _ _ _ => 17
  | .divu _ _ _ => 17
  | .rem _ _ _ => 17
  | .remu _ _ _ => 17
  | .clz _ _ => 22
  | .ctz _ _ => 22
  | .popc _ _ => 22
  | .addi _ _ _ => 6
  | .andi _ _ _ => 6
  | .ori _ _ _ => 6
  | .xori _ _ _ => 6
  | .slti _ _ _ => 6
  | .shori _ _ _ => 6
  | .slli _ _ _ => 16
  | .srli _ _ _ => 16
  | .srai _ _ _ => 16
  | .beq _ _ _ => 6
  | .bne _ _ _ => 6
  | .blt _ _ _ => 6
  | .bge _ _ _ => 6
  | .bltu _ _ _ => 6
  | .bgeu _ _ _ => 6
  | .jal _ _ => 6
  | .jalr _ _ _ => 6
  | .ld _ _ _ _ _ => 7
  | .ldu _ _ _ _ _ => 7
  | .st _ _ _ _ => 8
  | .lda _ _ _ _ => 16
  | .stl _ _ _ _ => 16
  | .amoAdd _ _ _ _ _ _ => 10
  | .amoAnd _ _ _ _ _ _ => 10
  | .amoOr _ _ _ _ _ _ => 10
  | .amoXor _ _ _ _ _ _ => 10
  | .amoMin _ _ _ _ _ _ => 10
  | .amoMax _ _ _ _ _ _ => 10
  | .amoMinu _ _ _ _ _ _ => 10
  | .amoMaxu _ _ _ _ _ _ => 10
  | .amoSwap _ _ _ _ _ _ => 10
  | .amoCas _ _ _ _ _ _ => 10
  | .ldSc _ _ _ => 19
  | .stSc _ _ _ => 19
  | .amoaddSc _ _ _ _ => 14
  | .swapSc _ _ _ _ => 14
  | .casSc _ _ _ _ => 14
  | .scopSend => 0
  | .scopArrival => 0
  | .scopApply => 0
  | .fenceFull _ => 28
  | .fenceAcq _ => 28
  | .fenceRel _ => 28
  | .fenceEngines _ => 28
  | .ownLend _ _ _ => 17
  | .ownRet _ _ => 22
  | .ownSplit _ _ => 22
  | .ownJoin _ _ => 22
  | .ownShare _ _ _ => 17
  | .ownDrop _ _ => 22
  | .ownQry _ _ => 22
  | .ownWait _ _ => 22
  | .ownClaim _ _ => 22
  | .wopen _ _ _ => 17
  | .wclose _ _ => 22
  | .wwait _ _ _ => 17
  | .wcnt _ _ => 22
  | .wrst _ _ => 22
  | .post _ _ => 23
  | .wait _ _ => 23
  | .arrive _ _ => 24
  | .bwait _ _ => 24
  | .mwaitSync _ _ => 22
  | .mwaitTimeout => 0
  | .yield => 32
  | .icsync => 32
  | .sleep _ => 27
  | .sleepExpiry => 0
  | .hld _ _ => 22
  | .hst _ _ => 22
  | .hsetw _ _ _ => 20
  | .hgetw _ _ _ => 20
  | .haddb _ _ => 22
  | .omld _ _ => 22
  | .loopImm _ _ _ => 7
  | .loopReg _ _ _ => 12
  | .bqEmpty _ => 16
  | .bqNonempty _ => 16
  | .bqPoison _ => 16
  | .bqFault _ => 16
  | .bqOk _ => 16
  | .cqpop _ => 27
  | .cqwait => 32
  | .cqwaity => 32
  | .cqpeek _ => 27
  | .dqpush _ _ => 22
  | .dqpop _ => 27
  | .dqsteal _ _ => 22
  | .dqlen _ => 27
  | .launch _ _ => 22
  | .csrr _ _ => 15
  | .csrw _ _ _ => 10
  | .csrs _ _ _ => 10
  | .csrc _ _ _ => 10
  | .nop => 32
  | .trap => 32
  | .eret => 32
  | .exit => 32
  | .brk => 32
  | .ftset _ _ => 22
  | .ftget _ _ => 22
  | .moveToE _ _ => 22
  | .moveFromE _ _ => 22
  | .fstep _ => 27
  | .cirq _ _ => 21
  | .publish _ => 27
  | .pubq _ _ => 22
  | .vadd _ => 8
  | .vsub _ => 8
  | .vmul _ => 8
  | .vfma _ => 8
  | .vfnma _ => 8
  | .vdiv _ => 8
  | .vmin _ => 8
  | .vminNum _ => 8
  | .vmax _ => 8
  | .vmaxNum _ => 8
  | .vsqrt _ => 13
  | .vabs _ => 13
  | .vneg _ => 13
  | .vrint _ => 13
  | .vexp2 _ => 19
  | .vlog2 _ => 19
  | .vrcp _ => 19
  | .vrsq _ => 19
  | .vtanh _ => 19
  | .vsin _ => 19
  | .vcos _ => 19
  | .verf _ => 19
  | .vcmpEq _ => 8
  | .vcmpLt _ => 8
  | .vcmpLe _ => 8
  | .vcmpUnord _ => 8
  | .vcmpNe _ => 8
  | .vcmpGt _ => 8
  | .vcmpGe _ => 8
  | .vcmpOrd _ => 8
  | .vsel _ => 9
  | .vcvt _ => 11
  | .viadd _ => 10
  | .visub _ => 10
  | .vimul _ => 10
  | .vand _ => 8
  | .vor _ => 8
  | .vxor _ => 8
  | .vandn _ => 8
  | .vsll _ => 10
  | .vsrl _ => 10
  | .vsra _ => 10
  | .vimin _ => 10
  | .vimax _ => 10
  | .viminu _ => 10
  | .vimaxu _ => 10
  | .runCount => 0
  | .vredSumT _ => 22
  | .vredSumR _ => 22
  | .vredMax _ => 22
  | .vredMin _ => 22
  | .vredrowSum _ => 19
  | .vredrowMax _ => 19
  | .vredrowMin _ => 19
  | .vscanSumI _ => 19
  | .vscanSumE _ => 19
  | .vscanMaxI _ => 19
  | .vrcoal _ _ => 22
  | .vrcnt _ _ => 24
  | .vrlen _ _ => 24
  | .vsegsumE _ => 14
  | .vsegsumP _ => 14
  | .vsegmaxE _ => 14
  | .vsegcntP _ => 14
  | .viota _ _ => 25
  | .vsplat _ _ _ => 20
  | .vsplati _ _ => 11
  | .vshapeImm _ _ => 16
  | .vshapeReg _ => 27
  | .vld _ => 6
  | .vst _ => 6
  | .vldr _ => 6
  | .vstr _ => 6
  | .vldDataCheck => 0
  | .vfromm _ => 8
  | .vtom _ => 8
  | .vmov _ _ _ => 20
  | .vpost _ _ => 12
  | .vwait _ _ => 12
  | .vland => 32
  | .vend => 32
  | .vsetrm _ => 30
  | .vclrf _ => 27
  | .vloopImm _ _ _ => 7
  | .vloopReg _ _ _ => 12
  | .vectorLanding => 0
  | .mma _ => 7
  | .mmat _ => 7
  | .mmaLanding => 0
  | .mlda _ => 18
  | .msta _ => 14
  | .mstq _ => 14
  | .matrixLanding => 0
  | .mclr _ => 29
  | .mfull _ => 29
  | .mempty _ => 29
  | .mpost _ _ => 12
  | .mwaitMctl _ _ => 12
  | .mland => 32
  | .mend => 32
  | .madd _ _ => 26
  | .mscal _ _ => 24
  | .mtrans _ _ => 26
  | .mloopImm _ _ _ => 7
  | .mloopReg _ _ _ => 12
  | .cpy _ => 12
  | .cpyCvt _ => 12
  | .cpyTr2d _ => 12
  | .cpySwz _ => 12
  | .cpyRle _ => 12
  | .cpyUnrle _ => 12
  | .cpyQ4 _ => 12
  | .cpyDeq _ => 12
  | .cpyGather _ => 12
  | .cpyScatter _ => 12
  | .cpyFill _ => 16
  | .cpyRadd _ => 12
  | .cpyCrc _ => 13
  | .xcpy _ => 12
  | .xcpyCvt _ => 12
  | .xcpyRle _ => 12
  | .xcpyUnrle _ => 12
  | .xcpyCrc _ => 13
  | .wput _ => 12
  | .wputCvt _ => 12
  | .wputRle _ => 12
  | .wputUnrle _ => 12
  | .wputCrc _ => 13
  | .lcpy _ => 12
  | .lcpyCvt _ => 12
  | .lcpyRle _ => 12
  | .lcpyUnrle _ => 12
  | .lcpyCrc _ => 13
  | .catomAdd _ => 16
  | .catomAnd _ => 16
  | .catomOr _ => 16
  | .catomXor _ => 16
  | .catomMin _ => 16
  | .catomMax _ => 16
  | .catomMinu _ => 16
  | .catomMaxu _ => 16
  | .catomSwap _ => 16
  | .catomCas _ => 16
  | .coll _ => 20
  | .cpost _ _ => 12
  | .cwait _ _ => 12
  | .cfence => 32
  | .cend => 32
  | .crec _ => 16
  | .cpub _ => 28
  | .cloopImm _ _ _ => 7
  | .cloopReg _ _ _ => 12
  | .chunkPerformed => 0
  | .copyComplete => 0
  | .copyRestart => 0
  | .storePerformed => 0
  | .pageWalk => 0
  | .patrol => 0
  | .heldRecordEntry => 0
  | .handlerEntry => 0
  | .asyncHandlerEntry => 0
  | .faultToCorelo => 0
  | .threadEndByCorelo => 0
  | .retirement => 0
  | .scrubComplete => 0
  | .launchRecord => 0
  | .bind => 0
  | .preemption => 0
  | .resumption => 0
  | .fabricStep => 0
  | .circuitLive => 0
  | .ringTuningLoss => 0
  | .laserFailure => 0
  | .portRetune => 0
  | .chunkFrame => 0
  | .ack => 0
  | .nack => 0
  | .notice => 0
  | .expressFrame => 0
  | .collContribution => 0
  | .collDelivery => 0
  | .flit => 0
  | .linkAck => 0
  | .linkNack => 0
  | .millstoneForward => 0
  | .millstoneHoldTimeout => 0
  | .laneFailure => 0
  | .laneMap => 0
  | .restripeBoundary => 0
  | .laneRetuned => 0
  | .retrain => 0
  | .retrainDone => 0
  | .retrainTimeout => 0
  | .linkDown => 0
  | .bringUp => 0
  | .quiesceDrained => 0
  | .vetoTimeout => 0
  | .jobCreate => 0
  | .jobEnd => 0
  | .mapPage => 0
  | .submit => 0
  | .cancel => 0
  | .preemptCmd => 0
  | .returnRegion => 0
  | .quiesce => 0
  | .resumeLink => 0
  | .journalRead => 0
  | .capRead => 0
  | .diagRead => 0
  | .attest => 0
  | .auditRead => 0
  | .auditAck => 0
  | .download => 0
  | .failUnit => 0
  | .rdmaWrite => 0
  | .rdmaRead => 0
  | .sendFrame => 0
  | .invalidRequest => 0
  | .moduleReset => 0
  | .thermalThrottle => 0
  | .thermalTrip => 0
  | .notAnInstruction => 0
  | .instructionFetchFault => 0
  | .mldaDataCheck => 0
  | .monitorEviction => 0
  | .machineCheckResume => 0

/-- The stream, among those whose map holds the word, whose row fixes the most bits of it. -/
def tableStream (w : Nat) : Stream :=
  let bitsIn (st : Stream) : Nat := 
    match decodeHead st w with
    | some i => i.fixedBits
    | none => match decodeTail st w with | some t => t.fixedBits | none => 0
  let best (p q : Stream) : Stream := if bitsIn p < bitsIn q then q else p
  best (best (best .scalar .vector) .matrix) .copy

/-- The instruction of an opcode-table row's word: 32 bits, stored little-endian (R76). The rows without a word are
events. -/
noncomputable def decodeTableWord (nbits w : Nat) : Option Instr :=
  if nbits = 32 ∧ w < 2 ^ 32 then decode (tableStream w) w else none

end Sys2Proof
end

