-- ==== Sys2Proof/Config.lean ====
section
/-! DEFINITION. What an implementation fixes and what the manual leaves open: the published figures of the LV-3200
as shipped (R2) and the free values, which no proof can see. -/

namespace Sys2Proof.Config

/-- A free number: the manual leaves a cycle or a choice open. It is applied to the counter `State.freeCtr`. -/
opaque freeNat : Nat → Nat

/-- A free choice between two outcomes that the manual allows. -/
opaque freeBool : Nat → Bool

/-- A free 64-bit value: an undefined value (R5). -/
opaque freeWord : Nat → Word

/-- A free 80-bit value: an accumulator element read before its result has landed (R91). -/
opaque freeA80 : Nat → A80

/-- The ML-DSA-87 verification of a firmware image's signature under a public key (R381), which the manual names and does not define. -/
opaque mlDsaVerify : List Byte → List Byte → List Byte → Bool

/-- The SHA3-512 digest of Korique's public key, which is fused (R381). -/
opaque fusedKeyDigest : List Byte

/-- The signature of an attestation report (R383). -/
opaque mlDsaSign : List Byte → List Byte

/-- The module's 16-byte serial number (R377), by byte. -/
opaque serialByte : Nat → Byte

/-- The fuse configuration's fixed part and the ROM identity, which boot stage 1 measures (R380). -/
opaque romIdentity : List Byte

/-- The lowest and highest protocol version of this module's Fantail (R365), which the manual leaves to the image. -/
opaque fantailLow : Nat
opaque fantailHigh : Nat

/-- The settle time of a circuit in fabric steps (R2, R340). -/
def settleSteps : Nat := 8

/-- The horizon of a SCOP, in CCLK (R110). -/
def horizon : Nat := 8192

/-- One turn of the slot wheel, in CCLK (R263). -/
def wheelTurn : Nat := 4096

/-- One fabric step, in CCLK (R1). -/
def fabricStep : Nat := 128

/-- The time after which an MWAIT ends whatever happens (R127). -/
def mwaitLimit : Nat := 2 ^ 20

/-- Entries of a core's work deque (R135). -/
def dequeSize : Nat := 1024

/-- Entries of a thread's completion ring (R33). -/
def ringSize : Nat := 64

/-- Copy operations a thread may have in flight (R196). -/
def copyLimit : Nat := 32

/-- Token-table entries of a die, forward entries included (R270). -/
def tokenCap : Nat := 262144

/-- Share records of a die (R270). -/
def shareCap : Nat := 65536

/-- Launches waiting in the pending-launch pool (R313). -/
def poolCap : Nat := 4096

/-- Words of a stream's loop buffer (R228). -/
def loopBufferWords : Nat := 256

/-- Lines of an unfused L1: 256 KiB of 128 bytes (R288). -/
def l1Lines : Nat := 2048

/-- Entries of a core's TLB (R299). -/
def tlbSize : Nat := 512

end Sys2Proof.Config
end

