-- ==== Sys2Proof/Machine/Types.lean ====
section
/-! DEFINITION. The parts of the machine's state: a thread's registers and streams (R12–R29), what its engines have
in flight, cores, token entries (R268), launches (R307) and context images (R245). -/

namespace Sys2Proof.Machine

/-- A thread slot: core g of the module and slot within it (R3). -/
structure SlotId where
  core : CoreId
  slot : BitVec 2
deriving DecidableEq, Repr

/-! ### Registers -/

/-- A tensor handle's four words (R15). -/
structure Handle where
  w0 : Word
  w1 : Word
  w2 : Word
  w3 : Word
deriving DecidableEq, Repr

/-- An offset map's six signed coefficients (R20). -/
abbrev OffMap := Vector Word32 6

/-- One run: a value and how many elements have it (R21). -/
structure Run where
  val : Word32
  count : Nat
deriving DecidableEq, Repr

/-- A run register: the ZERO tag of a register not written since bind, or typed runs in element order (R21, R22). -/
inductive RunReg
  | zero
  | runs (t : VType) (rs : List Run)
deriving DecidableEq, Repr

/-- A 128 × 128 tile of A80 values: entries (row · 128 + column, value), rising, none +0; an unlisted element is +0. -/
abbrev Tile := List (Nat × A80)

/-- A matrix register: elements, full/empty bit, poison mask, step count and scale product (R23, R60, R178). -/
structure MatReg where
  tile : Tile
  full : Bool
  pmask : Word
  nsteps : Word32
  ts : A80
deriving DecidableEq, Repr

/-- VCSR's fields (R27). -/
structure Vcsr where
  rm : RoundMode
  flags : BitVec 5
  autoc : Bool
deriving DecidableEq, Repr

/-! ### Streams -/

/-- One hardware-loop level (R132). `frozen` holds while a handler interrupts it. -/
structure LoopLevel where
  active : Bool
  frozen : Bool
  first : Pc
  last : Pc
  count : Nat
  lc : BitVec 32
deriving DecidableEq, Repr

def LoopLevel.off : LoopLevel := { active := false, frozen := false, first := 0, last := 0, count := 0, lc := 0 }

/-- The loop buffer: the level whose body it holds and the words fetched so far, by address (R228). -/
structure LoopBuf where
  level : Nat
  words : List (Pc × Word32)
deriving DecidableEq, Repr

/-- A synchronous fault: cause, detail and address (R28, R235). -/
structure SFault where
  cause : BitVec 8
  detail : BitVec 16
  addr : Word
deriving DecidableEq, Repr

/-- A fault held with its stream, with the faulting address and word (R29, R236). -/
structure PendFault where
  flt : SFault
  fpc : Word
  finsn : Word32
deriving DecidableEq, Repr

/-- A request on its way over a circuit, or held until the circuit is live again: the handle, the address; `gone` once the circuit
has been torn down under it (R342, R349). -/
structure HeldReq where
  ch : Nat
  va : Word
  gone : Bool
deriving DecidableEq, Repr

/-- One stream of a thread (R9, R29, R222). -/
structure StreamState where
  pc : Pc
  ended : Bool
  stopped : Bool
  /-- Stopped by STOPALL or by a machine check routed to Corelo, with no fault of its own (R236, R238). -/
  halted : Bool
  /-- The stopping fault not yet entered in the handler. -/
  pending : Option PendFault
  age : Nat
  loops : Vector LoopLevel 6
  buf : Option LoopBuf
  /-- Issue is held for an earlier instruction's run count, VLD, VLDR or MLDA data, until this cycle (R220). -/
  holdUntil : Option Nat
  /-- The fault that the instruction which holds issue raises when its data or run count is known (R147, R163, R189). -/
  holdFault : Option PendFault
  /-- The circuit on which its fetch, or its read of a COLL's record, is held (R342). -/
  heldRead : Option HeldReq
  /-- Its next word is a blocking instruction whose condition does not hold (R117, R245). -/
  blocked : Bool
deriving DecidableEq, Repr

/-! ### Memory accesses in flight -/

/-- Page kinds of the page-table entry (R295); a scratchpad window is RELEASE (R102). -/
inductive PageKind | strong | release | unordered
deriving DecidableEq, Repr

/-- A store that has completed and is not yet performed at its home (R104). -/
structure PendStore where
  /-- Job virtual address of the first byte. -/
  va : Word
  /-- The home's key of each byte, and its value. -/
  bytes : List (Nat × Byte)
  /-- The L1 lines (va / 128) that hold its bytes (R105). -/
  lines : List Nat
  kind : PageKind
  /-- The store is an STL: every earlier ordered store is performed first (R107). -/
  rel : Bool
  /-- Bytes that an open window counts when the store is performed (R103). -/
  count : Nat
  /-- When it may be performed; of a matrix instruction's chunk, the number of the chunk (R343). -/
  due : Nat
  /-- The circuit that carries it to another die (R342, R349). -/
  ch : Option Nat
deriving DecidableEq, Repr

/-- A vector instruction's result that has not landed (R90). -/
structure VLanding where
  id : Nat
  due : Nat
  runs : List (BitVec 5 × RunReg)
  ereg : Option (BitVec 3 × Word)
  flags : BitVec 5
  /-- A row or column of a matrix register, as (element, value) (VTOM). -/
  elems : List (Nat × A80)
  mreg : Option (BitVec 3)
  /-- The full/empty change made on completion (R179). -/
  full : Option Bool
  /-- Stores of VST and VSTR. -/
  stores : List PendStore
deriving DecidableEq, Repr

/-- The register file after one K-step of an MMA (R183): elements, poison mask, step count. -/
structure MmaFrame where
  tile : Tile
  pmask : Word
  nsteps : Word32
deriving DecidableEq, Repr

/-- The issue-time copies of an instruction's two handles and of the terms that their offset maps add (R187, R211). -/
structure IssueCopy where
  a : Handle
  b : Handle
  ta : Word
  tb : Word
deriving DecidableEq, Repr

/-- How an MMA in flight runs (R92, R187): on, to a stop at the end of its first k remaining K-steps, or stopped at a
K-step boundary until the matrix stream goes on. -/
inductive MmaRun
  | on
  | stopping (k : Nat)
  | stopped
deriving DecidableEq, Repr

/-- A matrix instruction's result that has not landed (R90, R183). -/
structure MLanding where
  id : Nat
  due : Nat
  issued : Nat
  mreg : Option (BitVec 3)
  /-- Rows lo up to hi, hi excluded, take the tile's elements. -/
  lo : Nat
  hi : Nat
  tile : Tile
  ts : Option A80
  /-- The poison mask and step count start from 0, then take these bits and steps. -/
  restart : Bool
  pmask : Word
  nsteps : Word32
  full : Option Bool
  /-- An MMA or MMAT: the register after each of its K-steps, for a pre-emption (R187). -/
  frames : List MmaFrame
  /-- Its handles, offset terms and entry as they were at issue, and its z (R187). -/
  ops : IssueCopy
  entry : Word32
  z : Bool
  /-- K-steps that ended before it last went on (R187). -/
  doneSteps : Nat
  run : MmaRun
  post : Bool
  stores : List PendStore
  /-- An MLDA's bytes that are still to come over circuits, in chunks (R342, R343). -/
  loads : List PendStore
  /-- An uncorrectable scratchpad error met by an MMA: the address and level (R187). -/
  eccAt : Option (Word × Nat)
  fpc : Word
  finsn : Word32
deriving DecidableEq, Repr

/-- A SCOP of a thread from its issue to its reply (R110). -/
inductive ScopPhase
  | waiting (pos : Nat)
  | sent (cycle : Nat)
  | arrived (cycle : Nat) (at_ : Nat)
  /-- Applied; its reply, the result or the level of an uncorrectable error, waits for the circuit (R349). -/
  | applied (old : Word) (ecc : Option Nat)
deriving DecidableEq, Repr

inductive ScopOp | ld | st | add | swap | cas
deriving DecidableEq, Repr

structure Scop where
  op : ScopOp
  d : BitVec 5
  va : Word
  bytes : List Nat
  kind : PageKind
  arg : Word
  cmp : Word
  issued : Nat
  pos : Nat
  phase : ScopPhase
  count : Nat
  /-- The circuit chosen when it was sent (R342, R349). -/
  ch : Option Nat
  /-- Its word, for a fault before its result returns (R112, R236). -/
  finsn : Word32
deriving DecidableEq, Repr

/-- What the scalar stream waits for while blocked with state of its own (R127, R130). -/
inductive Waiting
  | none
  | sleeping (until_ : Nat)
  /-- MWAIT: the monitored line, the address, the time limit, the circuit its read used and its word (R127, R349). -/
  | monitor (line va until_ : Nat) (ch : Option Nat) (finsn : Word32)
  | woken
  /-- Blocked in CQWAITY: the thread counts as yielded (R134). -/
  | yielded
deriving DecidableEq, Repr

/-! ### Copy operations -/

/-- Majors of the copy stream that make operations (R88). -/
inductive CopyMajor | cpy | xcpy | wput | lcpy | catom | coll
deriving DecidableEq, Repr

/-- Transform codes (R201). -/
inductive Transform
  | none | cvt | tr2d | swz | rle | unrle | q4 | deq | gather | scatter | fill | radd | crc
deriving DecidableEq, Repr

/-- A tensor: a handle's fields, with the offset term added to the base (R15, R20, R43, R59). -/
structure Tensor where
  base : Word
  e0 : Nat
  e1 : Nat
  e2 : Nat
  fmt : Nat
  space : Nat
  swz : Nat
  bg : Bool
  pair : Bool
  str1 : Int
  str2 : Int
  hdr : Nat
  scale : Word32
  /-- The translations made at issue: 64 KiB granules of job virtual addresses and their physical addresses (R299). -/
  pages : List (Nat × Nat)
deriving DecidableEq, Repr

/-- What a chunk of an operation writes, by job virtual address, and what it adds to the operation: poison bits, an index out
of range, the CRC so far, bytes of records (R202, R204). -/
structure ChunkOut where
  cells : List (Nat × Byte)
  poison : Word
  range : Bool
  crc : Word
  out : Nat
deriving DecidableEq, Repr

/-- Where an operation stands: running, waiting for its circuit or link under automatic retry, at a Millstone unit, or
ended and waiting for its record to be posted (R196, R209). -/
inductive CopyPhase
  | running
  | awaitCircuit
  | awaitLink
  /-- A COLL whose contribution is on its way to its unit, and one that has reached it (R328, R329). -/
  | toUnit
  | atUnit
  /-- A COLL whose circuit has failed on its way. -/
  | hit (cause : BitVec 8) (detail : BitVec 16)
  | ended (status : Nat) (cause : BitVec 8) (detail : BitVec 16)
  /-- Its record is made and waits to be posted. -/
  | posting
deriving DecidableEq, Repr

/-- A copy operation in flight, with the issue-time copies of its operands (R196, R211). -/
structure CopyOp where
  id : Nat
  major : CopyMajor
  tr : Transform
  /-- Source and destination, offset terms and shadow views applied. -/
  x : Tensor
  y : Tensor
  /-- Control word, and transform word or CATOM target word. -/
  ctl : Word
  tw : Word
  atom : AtomOp
  /-- The operands of a CATOM; of an LCPY argB is w0 of its destination handle (R141), of a COLL argC the core that issued it. -/
  argB : Word
  argC : Word
  tag : Nat
  post : Bool
  /-- The circuits chosen at issue (R342). -/
  chs : List Nat
  chunks : Nat
  /-- Chunks performed, and chunks that a window has counted (R208, R210). -/
  done : List Nat
  counted : List Nat
  /-- Spans, as (base, size), that the operation reads and writes (R116, R214). -/
  rdSpans : List (Nat × Nat)
  wrSpans : List (Nat × Nat)
  /-- The old value of a CATOM, or the byte count of a COLL. -/
  acc : Word
  poison : Word
  /-- Of each chunk carried out: its bytes of rle records, and the CRC with it (R202, R204). -/
  parts : List (Nat × Nat × Word)
  /-- Circuits, and chunks that have been checked in behind them (R342, R344). -/
  arrived : List (Nat × Nat)
  range : Bool
  /-- When the next chunk moves. -/
  due : Nat
  retries : Nat
  phase : CopyPhase
  /-- The failing chunk's first address (R237). -/
  failAddr : Word
  fpc : Word
  finsn : Word32
  /-- The record of a COLL (R206). -/
  recd : List Byte
  /-- Its handles and offset terms as they were at issue (R211). -/
  ops : IssueCopy
deriving DecidableEq, Repr

/-! ### Records -/

/-- A completion record's fields (R239). -/
structure Record where
  kind : BitVec 16
  status : BitVec 16
  tag : Word32
  count : Word
  poison : Word
  code : Word32
  retries : BitVec 16
deriving DecidableEq, Repr

/-- An asynchronous handler entry that waits (R237). -/
structure AsyncFault where
  cause : BitVec 8
  detail : BitVec 16
  stream : BitVec 2
  fpc : Word
  finsn : Word32
  addr : Word
deriving DecidableEq, Repr

/-- A stopping fault that went to Corelo: its cause, whether Corelo may resume the thread, the faulting stream and the
address it resumes at (R238). -/
structure CoreloHold where
  cause : BitVec 8
  mayResume : Bool
  stream : Stream
  fpc : Word
deriving DecidableEq, Repr

/-- A copy operation of a thread, wherever the thread is: launch, linear instance number, number of the operation. -/
structure OpId where
  launch : Nat
  lin : Nat
  op : Nat
deriving DecidableEq, Repr

/-- A record that waits for room in a ring, and the copy operation or entry it belongs to (R134, R186, R237). -/
structure WaitRecord where
  rcd : Record
  /-- The copy operation that is complete once the record is posted. -/
  op : Option OpId
  /-- The asynchronous handler entry that follows the post. -/
  async : Option AsyncFault
  /-- An MMA record in the queue of held records of a thread: its launch and linear instance number (R186). -/
  mma : Option (Nat × Nat)
  /-- A route entry of destination 0 or 1 sent it to this ring (R234). -/
  routed : Bool
  /-- The buffers of the collective that it reports (R332). -/
  bufs : List (Nat × Nat)
deriving DecidableEq, Repr

/-! ### Slots -/

/-- States of a bind record (R320). -/
inductive SlotStatus | free | binding | bound | saving | restoring | scrubbing
deriving DecidableEq, Repr

/-- What a thread has at bind besides its registers: the bind record and the launch's values (R25, R26, R320). -/
structure BindRec where
  supervisor : Bool
  job : Nat
  partition : BitVec 16
  launch : Nat
  lin : Nat
  moduleId : BitVec 16
  idx : Vector Word 6
  role : BitVec 2
  vcap : Nat
  mregs : Nat
  spsize : Nat
  spbaseA : Nat
  spbaseB : Nat
  recordCopy : Word
  image : Word
deriving DecidableEq, Repr

/-- A thread's most recent ARRIVE at a barrier, until a BWAIT completes: its instance and phase (R126). -/
structure ArriveMark where
  barrier : Nat
  inst : Nat
  phase : Nat
deriving DecidableEq, Repr

/-- A thread slot and the thread bound to it (R12). -/
structure Slot where
  key : SlotId
  status : SlotStatus
  bind : BindRec
  s : Vector Word 32
  /-- Scalar registers whose value has an uncorrectable error (R235). -/
  badS : List (BitVec 5)
  /-- The destination of a division whose result has not returned, and when it does (R96, R221). -/
  quotient : Option (BitVec 5 × Nat)
  h : Vector Handle 16
  e : Vector Word 8
  k : Vector (BitVec 16) 16
  ft : Vector Word32 16
  om : Vector OffMap 16
  v : Vector RunReg 32
  rows : Nat
  cols : Nat
  m : Vector MatReg 8
  vcsr : Vcsr
  ftoff : BitVec 4
  fscratch0 : Word
  fscratch1 : Word
  tvec : Word
  fcause : BitVec 24
  fstream : BitVec 2
  fpc : Word
  finsn : Word32
  faddr : Word
  ih : Bool
  /-- The stream whose fault is handled; none for an asynchronous entry (R236, R237). -/
  handled : Option Stream
  /-- The address at which trap entry diverted the scalar stream (R138). -/
  divert : Word
  scalar : StreamState
  vector : StreamState
  matrix : StreamState
  copy : StreamState
  stores : List PendStore
  vfly : List VLanding
  mfly : List MLanding
  scop : Option Scop
  /-- SCOPs that reached their homes and lost the circuit of their replies: each is applied and answers nobody (R349). -/
  orphans : List Scop
  waiting : Waiting
  /-- The scalar stream's access that is on its way over a circuit, or held on it (R342, R349). -/
  heldOn : Option HeldReq
  /-- The scalar stream is interlocked on an instruction in progress, which completes before any diversion or
  pre-emption (R96, R236, R242). -/
  locked : Bool
  /-- The engine work numbered below this had issued when the interlocked instruction issued (R113, R114, R116). -/
  fenceAt : Option Nat
  /-- The mark of the stream's last STRONG access at a home, among the fills of L1 lines (R257). -/
  strongAt : Nat
  copies : List CopyOp
  nextOp : Nat
  /-- Ring head, tail and fill (R25 CQSTAT). -/
  cqHead : Nat
  cqTail : Nat
  cqCount : Nat
  /-- The buffers of the collectives that the records of the ring report, from the head (R332). -/
  ringBufs : List (List (Nat × Nat))
  waitRecs : List WaitRecord
  asyncPend : List AsyncFault
  arrives : List ArriveMark
  /-- A pre-emption request waits for R241's conditions. -/
  preemptReq : Bool
  /-- The child launch and die for which a pre-emption of R322 is in force. -/
  waitsFor : Option (Nat × Nat)
  /-- The stopping fault for which Corelo must resume or end the thread (R238). -/
  corelo : Option CoreloHold
  /-- Corelo ends the thread, with a cause or 0: its release is under way (R247, R248). -/
  ending : Option (BitVec 8)
  /-- When the bind, the restore or the scrub is over (R248, R318, R320). -/
  readyAt : Nat
  /-- Dirty run registers, matrix blocks and scratchpad granules (R246). -/
  dirtyV : List Nat
  dirtyM : List Nat
  dirtyG : List Nat
  /-- The image from which the thread was last restored: its number and chain depth (R245, R246). -/
  chain : Option (Nat × Nat)
deriving DecidableEq, Repr

/-! ### Cores -/

/-- An L1 line: job, line address (va / 128) and its 128 bytes (R288). -/
structure L1Line where
  job : Nat
  line : Nat
  data : List Byte
  /-- The mark of its fill (R257). -/
  stamp : Nat
deriving DecidableEq, Repr

/-- A TLB entry: job, page base, page size and the translation (R299). -/
structure TlbEntry where
  job : Nat
  base : Nat
  log2 : Nat
  pte : Word
  die : Nat
deriving DecidableEq, Repr

/-- A unit that stays busy after an issue (R221). -/
inductive CoreUnit | divider | merge | port | rowPort | array | rowPath
deriving DecidableEq, Repr

/-- A core: Governor, deque, L1, TLB and granule tags (R31, R135, R221, R223, R286, R288). -/
structure Core where
  g : CoreId
  govAge : BitVec 16
  /-- The threshold that the Governor uses in the present cycle: GOV_AGE as the cycle began (R31). -/
  govNow : BitVec 16
  ptr : Vector Nat 4
  busy : List (CoreUnit × Nat)
  dequeLaunch : Nat
  deque : List Word
  l1 : List L1Line
  tlb : List TlbEntry
  /-- Granule tags other than 0, rising by granule (R286). -/
  tags : List (Nat × BitVec 3)
  fused : Bool
  fusedJob : Nat
  failed : Bool
deriving DecidableEq, Repr

/-! ### Registers at reset (R12, R25) -/

/-- Handles of zeros: an instruction that has none. -/
def IssueCopy.none : IssueCopy := { a := { w0 := 0, w1 := 0, w2 := 0, w3 := 0 }, b := { w0 := 0, w1 := 0, w2 := 0, w3 := 0 }, ta := 0, tb := 0 }

def RunReg.reset : RunReg := .zero

/-- 1.0 in A80 (R55). -/
def a80One : A80 := 0x3FF80000000000000000#80

def MatReg.reset : MatReg := { tile := [], full := false, pmask := 0, nsteps := 0, ts := a80One }

def StreamState.reset : StreamState :=
  { pc := 0, ended := false, stopped := false, halted := false, pending := none, age := 0,
    loops := Vector.replicate 6 LoopLevel.off, buf := none, holdUntil := none, holdFault := none, heldRead := none, blocked := false }

def BindRec.reset : BindRec :=
  { supervisor := false, job := 0, partition := 0, launch := 0, lin := 0, moduleId := 0,
    idx := Vector.replicate 6 0, role := 0, vcap := 16, mregs := 0, spsize := 0, spbaseA := 0, spbaseB := 0,
    recordCopy := 0, image := 0 }

/-- A slot with every register at its reset value (R12, R25). -/
def Slot.reset (k : SlotId) : Slot :=
  { key := k, status := .free, bind := BindRec.reset,
    s := Vector.replicate 32 0, badS := [], quotient := none, h := Vector.replicate 16 { w0 := 0, w1 := 0, w2 := 0, w3 := 0 },
    e := Vector.replicate 8 0, k := Vector.replicate 16 0, ft := Vector.replicate 16 0,
    om := Vector.replicate 16 (Vector.replicate 6 0), v := Vector.replicate 32 RunReg.reset, rows := 1, cols := 1,
    m := Vector.replicate 8 MatReg.reset, vcsr := { rm := .rne, flags := 0, autoc := false }, ftoff := 0,
    fscratch0 := 0, fscratch1 := 0, tvec := 0, fcause := 0, fstream := 0, fpc := 0, finsn := 0, faddr := 0,
    ih := false, handled := none, divert := 0, scalar := StreamState.reset, vector := StreamState.reset,
    matrix := StreamState.reset, copy := StreamState.reset, stores := [], vfly := [], mfly := [], scop := none, orphans := [],
    waiting := .none, heldOn := none, locked := false, fenceAt := none, strongAt := 0, copies := [], nextOp := 0, cqHead := 0, cqTail := 0, cqCount := 0, ringBufs := [],
    waitRecs := [], asyncPend := [], arrives := [], preemptReq := false, waitsFor := none, corelo := none, ending := none,
    readyAt := 0, dirtyV := [], dirtyM := [], dirtyG := [], chain := none }

/-- A core as reset leaves it: GOV_AGE 256 (R25), empty deque, L1, TLB and tags. -/
def Core.reset (g : CoreId) : Core :=
  { g := g, govAge := 256, govNow := 256, ptr := Vector.replicate 4 0, busy := [], dequeLaunch := 0, deque := [], l1 := [], tlb := [],
    tags := [], fused := false, fusedJob := 0, failed := false }

/-! ### Token entries -/

/-- States of a region (R120). -/
inductive TokState | excl | shared | lent | window | lost
deriving DecidableEq, Repr

/-- A token-table entry, with its share records and the dies that hold forwards to it (R267, R268). -/
structure Entry where
  job : Nat
  base : Nat
  log2 : Nat
  die : DieId
  owner : AgentId
  homeAgent : AgentId
  st : TokState
  pair : Bool
  /-- The region has been used as a buffer pair (R141). -/
  paired : Bool
  shares : List (AgentId × Nat)
  writers : Word
  counter : Word
  pubs : Word
  grant : Nat
  partition : BitVec 16
  forwards : List DieId
  /-- A WCLOSE waits for the puts that have passed their check; no new put is admitted (R125). -/
  closing : Bool
deriving DecidableEq, Repr

/-! ### Launches -/

/-- A barrier of a launch: scope and participant count (R126, R307). -/
structure BarrierDecl where
  scope : BitVec 8
  count : Nat
deriving DecidableEq, Repr

/-- An instance of a barrier: its phase number and arrivals (R126). -/
structure BarrierInst where
  barrier : Nat
  inst : Nat
  phase : Nat
  arrivals : Nat
deriving DecidableEq, Repr

/-- Who submitted a launch and receives its LAUNCH record (R323). -/
inductive Submitter
  | host
  | thread (k : SlotId) (launch : Nat) (lin : Nat)
  | corelo
deriving DecidableEq, Repr

/-! ### Context images -/

/-- A 64 KiB granule of a thread's halves as an image holds it: its number, group A first, its bytes other than zero by
offset, and its 2 KiB tags other than 0 (R245). -/
structure Granule where
  num : Nat
  cells : List Host.Cell
  tags : List (Nat × BitVec 3)
deriving DecidableEq, Repr

/-- A context image (R245, R246): of a saved thread, or an older one of its chain. -/
structure Image where
  num : Nat
  /-- Its place in the chain: 0 for a base, which writes every unit, else a delta (R246). -/
  depth : Nat
  /-- The image before it in the chain. -/
  prev : Option Nat
  launch : Nat
  /-- Agent identifier at the save. -/
  agent : AgentId
  /-- The physical address of its bytes. -/
  addr : Nat
  /-- The fixed part: the saved slot, progress of MMAs and copies included. Its dirty lists are the dirty maps, and of its run
  registers and matrix registers the units they mark are the image's. -/
  ctx : Slot
  /-- The granules that the image writes. -/
  grans : List Granule
  /-- Ready to resume; else the child launch and die of R322 it waits for. -/
  blockedOn : Option (Nat × Nat)
  /-- The slot into which it is being restored (R244). -/
  restoring : Option SlotId
  /-- The thread is ended, with a cause or 0, once its windows are closed (R247, R248). -/
  ending : Option (BitVec 8)
deriving DecidableEq, Repr

/-! ### Jobs -/

/-- A job on this module: its partition's dies, the stack offset of its page-table root and its number within the job
(R25, R297). -/
structure Job where
  id : Nat
  partition : BitVec 16
  dies : List Nat
  root : Nat
  moduleId : BitVec 16
  /-- Torus extents, this module's coordinates and the ring dimension (R366). -/
  extents : List Nat
  coords : List Nat
  ring : Nat
  /-- Blocks of 4 KiB that its tables use, and its pages: address, log2 of the size and entry. -/
  tables : Nat
  maps : List (Nat × Nat × Word)
deriving DecidableEq, Repr

/-! ### Fabric -/

/-- An endpoint of the fabric and a port of it (R335). -/
structure Endpoint where
  num : Nat
  port : Nat
deriving DecidableEq, Repr

/-- A circuit-program entry's operation (R337). -/
inductive ProgOp
  | fin
  | establish (ch : Nat) (autoretry multicast : Bool) (src : Endpoint) (dsts : List Endpoint)
  | teardown (ch : Nat)
  | holdUntil (stage : Nat)
  | jump (target : Nat)
deriving DecidableEq, Repr

structure ProgEntry where
  step : Nat
  op : ProgOp
deriving DecidableEq, Repr

/-- Where an established circuit stands (R341): settling until a launch step, live, or faulted with the launch step by
which it is established again. -/
inductive CircSt
  | settling (liveAt : Nat)
  | live
  | faulted (detected : Nat) (cause : BitVec 8) (ep : Endpoint) (lost : Nat)
  | resettling (liveAt : Nat)
deriving DecidableEq, Repr

/-- Where a chunk frame stands (R344): on its way; dropped for its CRC, so that a NACK is due; arrived whole, before a lower
chunk has been checked in; checked in and performed, and not yet acknowledged. -/
inductive FrameSt | flying | bad | here | done
deriving DecidableEq, Repr

/-- A chunk frame sent and not acknowledged: sequence number, operation (none once it has stopped), chunk, CRC failures so far
(R343). -/
structure Frame where
  seq : Nat
  op : Option OpId
  chunk : Nat
  fails : Nat
  st : FrameSt
  /-- What it carries: the bytes as sent, then as they arrived. -/
  out : ChunkOut
  /-- The message of a Millstone that it carries: its link and last flit (R358). -/
  held : Option (Nat × Nat)
deriving DecidableEq, Repr

/-- A notice on a circuit: it acts once every chunk below seq is performed (R345). -/
structure Notice where
  seq : Nat
  /-- The member it is for, its operation, and how the collective ended (R331). -/
  lin : Nat
  op : Nat
  status : Nat
  cause : BitVec 8
  detail : BitVec 16
  count : Nat
deriving DecidableEq, Repr

/-- An established circuit of a launch (R337, R340). -/
structure Circuit where
  ch : Nat
  src : Endpoint
  dsts : List Endpoint
  autoretry : Bool
  multicast : Bool
  st : CircSt
  waves : BitVec 16
  nextSeq : Nat
  rxSeq : Nat
  frames : List Frame
  /-- Result chunks of collectives that the Millstone has yet to send: operation, chunk number and content (R329, R345). -/
  outbox : List (OpId × Nat × ChunkOut)
  notices : List Notice
deriving DecidableEq, Repr

/-- Why a launch's circuit program is stopped at its next entry (R339). -/
inductive Hold | none | stage (n : Nat) | port
deriving DecidableEq, Repr

/-- An accepted launch (R307, R312). -/
structure Launch where
  num : Nat
  job : Nat
  recd : List Byte
  supervisor : Bool
  submitter : Submitter
  recordAddr : Word
  /-- Corelo's copy of the record (R320). -/
  copyAddr : Word
  /-- Linear numbers of the instances not yet bound. -/
  unbound : List Nat
  total : Nat
  inPool : Bool
  stage : Word32
  barriers : List BarrierInst
  prog : List ProgEntry
  progNext : Nat
  progStep : Nat
  /-- The fabric step that is launch step 0 (R319). -/
  step0 : Option Nat
  hold : Hold
  progOver : Bool
  circuits : List Circuit
  reroutes : List (Nat × Nat)
  retired : Nat
  killed : Nat
  killCause : BitVec 8
  cancelled : Bool
  /-- The launch step in which the sequencer last ran the program (R339). -/
  ran : Option Nat
  /-- Threads of the launch in slots or saved images. -/
  live : Nat
  /-- Records for a designated handler thread that is not yet bound (R234). -/
  heldRecs : List WaitRecord
deriving DecidableEq, Repr

end Sys2Proof.Machine
end

