-- ==== Sys2Proof/Machine/Devices.lean ====
section
/-! DEFINITION. The parts of the module outside its threads: module links (R355–R369), collectives at the Millstones
(R325–R331), the host port, boot state, journal and audit log (R370–R385). -/

namespace Sys2Proof.Machine

/-! ### Module links -/

/-- The operation of a thread that a message belongs to. -/
structure OpRef where
  key : SlotId
  launch : Nat
  lin : Nat
  op : Nat
deriving DecidableEq, Repr

/-- What crosses a link: a chunk of an LCPY as bytes by job virtual address, and through a pair = 1 handle its w0 and base (R141); a
remote CATOM, the notice of a chunk's performance, a CATOM's response, and a refusal by the other module (R356–R358). -/
inductive LinkMsg
  | chunk (r : OpRef) (n : Nat) (pair : Option (Nat × Nat)) (cells : List (Nat × Byte))
  | catom (r : OpRef) (va : Word) (size space : Nat) (code : AtomOp) (b c : Word)
  | performed (r : OpRef) (n : Nat)
  | response (r : OpRef) (old : Word)
  | refused (r : OpRef) (cause : BitVec 8) (detail : BitVec 16)
deriving DecidableEq, Repr

/-- A flit: its sequence number, its kind (0 idle, 1 data, 2 express), its payload, its CRC-64 as it stands in bytes 248–255, and the
message whose last bytes it carries (R356). -/
structure Flit where
  seq : Nat
  kind : Nat
  payload : List Byte
  crc : Word
  msg : Option LinkMsg
deriving DecidableEq, Repr

/-- What the control lane carries (R357, R360, R361, R363, R365): an ACK and a NACK with a sequence number; a LANEMAP, and a request for
another rate, each with the mask, f and b; the identity and the version exchange of bring-up. -/
inductive LaneMsg
  | ack (n : Nat)
  | nack (n : Nat)
  | laneMap (mask : BitVec 16) (f b : Nat)
  | retrain (mask : BitVec 16) (f b rate : Nat)
  | identity (job modl link : Nat) (coords : List Nat)
  | versions (lo hi : Nat)
deriving DecidableEq, Repr

/-- States of a link; in `up` the lane set gives the width (R359). -/
inductive LinkSt | up | restripe | retrain | quiesced | down
deriving DecidableEq, Repr

/-- A handshake in progress: flit of detection, boundary, lanes failed, lane set before, the rate a retrain asks for; whether f and b
are sequence numbers of this end; the mask sent, and the peer's once its LANEMAP has come; whether the peer's flits have passed the
boundary (R360, R361). -/
structure Shake where
  f : Nat
  b : Nat
  failed : BitVec 16
  before : BitVec 16
  rate : Option Nat
  mine : Bool
  mask : BitVec 16
  peerMask : Option (BitVec 16)
  passed : Bool
deriving DecidableEq, Repr

/-- A module link (R355–R369). -/
structure Link where
  num : Nat
  st : LinkSt
  lanes : BitVec 16
  usable : BitVec 16
  peerUsable : BitVec 16
  rate : Nat
  /-- The peer that bring-up recorded: module and link; its torus coordinates, and the version that the link runs (R365). -/
  peer : Option (Nat × Nat)
  peerCoords : List Nat
  version : Nat
  /-- The peer that RESUME expects. -/
  expect : Option (Nat × Nat)
  /-- Next sequence numbers to send and to expect, and the last ACK received. -/
  tx : Nat
  rx : Nat
  acked : Nat
  /-- Flits sent and not acknowledged, oldest first (R357). -/
  replay : List Flit
  /-- The sequence number that goes out next: below tx while a replay runs. -/
  wire : Nat
  /-- Messages not yet sent whole, and the flits of the first that have been sent. -/
  queue : List LinkMsg
  part : Nat
  /-- Chunks of the peer that a window has counted (R210). -/
  counted : List (OpRef × Nat)
  shake : Option Shake
  /-- The cycle in which a retrain began. -/
  since : Nat
  /-- When Fantail tries bring-up next, whether it is trying, and whether it has tried since reset (R362, R385). -/
  tryAt : Nat
  trying : Bool
  tried : Bool
  /-- A quiesce waits for a change of width or rate to end; a drain is under way, and the cycle in which it began (R367, R369). -/
  quiesceReq : Bool
  draining : Bool
  drainAt : Nat
  /-- Where the incoming flits stand: the sequence number after the last, good or bad. -/
  pos : Nat
  /-- Payload of the data flits of the chunk frame that is coming in, and chunk frames sent (R356). -/
  rxData : List Byte
  frameNo : Nat
  /-- The last ACK sent and its cycle, and the flit that a NACK has named (R357). -/
  ackSent : Nat
  ackAt : Nat
  nacked : Option Nat
  /-- What leaves in the present cycle: a flit, and messages on the control lane. -/
  sent : Option Flit
  ctl : List LaneMsg
  /-- Flits received, for the CRC limits. -/
  flits : Nat
  /-- Flits whose CRC failed: by lane, and for the lane set (R359, R361). -/
  laneErrs : List (Nat × Nat)
  setErrs : List Nat
deriving DecidableEq, Repr

/-- A chunk or request from another module at the Millstone of its link: the link, the message, the cycle in which it came and its last
flit; the launch and handle of the circuit that carries it to its home die; and what goes back over that circuit (R358). -/
structure HeldMsg where
  link : Nat
  msg : LinkMsg
  since : Nat
  last : Nat
  via : Option (Nat × Nat)
  answer : Option LinkMsg
deriving DecidableEq, Repr

/-- A link as reset leaves it: DOWN, with bring-up due at once (R362, R385). -/
def Link.reset (n : Nat) : Link :=
  { num := n, st := .down, lanes := 0, usable := BitVec.allOnes 16, peerUsable := BitVec.allOnes 16, rate := 0, peer := none, peerCoords := [],
    version := 0, expect := none, tx := 0, rx := 0, acked := 0, replay := [], wire := 0, queue := [], part := 0, counted := [], shake := none,
    since := 0, tryAt := 0, trying := false, tried := false, quiesceReq := false, draining := false, drainAt := 0, pos := 0, rxData := [],
    frameNo := 0, ackSent := 0, ackAt := 0, nacked := none, sent := none, ctl := [], flits := 0, laneErrs := [], setErrs := [] }

/-! ### Collectives -/

/-- A member's contribution at a unit: of a thread of this module, or of a member on another module with its data
(R328, R329). -/
structure Contribution where
  member : Nat
  /-- The launch, linear instance number and operation of the contributing thread, and its module's part in it. -/
  launch : Nat
  lin : Nat
  op : Nat
  here : Bool
  /-- The core of its COLL, the circuits it uses, and its handles' tensors. -/
  core : CoreId
  chs : List Nat
  src : Tensor
  dst : Tensor
  recd : List Byte
  /-- Of a member on another module: the bytes of its source, and of its destination for a walk (R330). -/
  data : List Byte
  out : List Byte
deriving DecidableEq, Repr

/-- An ending of a collective: status, cause, detail and byte count; whether the destinations are undefined (R331). -/
structure Ending where
  status : Nat
  cause : BitVec 8
  detail : BitVec 16
  count : Nat
  undef : Bool
deriving DecidableEq, Repr

/-- A collective at a unit, its contributions in order of arrival (R328). -/
structure Coll where
  mill : Nat
  unit : Nat
  job : Nat
  key : Nat
  /-- The unit serves this key; the others wait, each with one contribution, in order of arrival. -/
  served : Bool
  recd : List Byte
  got : List Contribution
  /-- Member indices that have arrived or are lost; a key that has failed keeps the unit until all have. -/
  arrived : List Nat
  /-- How the collective ends before its delivery (R331). -/
  ending : Option Ending
  /-- Corelo has cancelled it: the unit is free of the key once it has ended (R328, R331). -/
  cancelled : Bool
  /-- The dies on which launches of the job that have ended had instances (R331). -/
  ended : List Nat
  /-- The result chunks are on their way to the members (R329). -/
  delivering : Bool
deriving DecidableEq, Repr

/-- An uncorrectable error in the data of a Millstone's chunk buffer: the unit, the key and the member whose data it is, and its level
(R235, R331). -/
structure ChunkErr where
  unit : Nat
  key : Nat
  member : Nat
  level : Nat
deriving DecidableEq, Repr

/-! ### The host port -/

/-- A journal entry (R376), with the whole answer that a repeated command is given again (R374). -/
structure JournalEntry where
  seq : Nat
  code : Nat
  status : Nat
  time : Nat
  digest : List Byte
  answer : List Byte
deriving DecidableEq, Repr

/-- An audit entry (R384). -/
structure AuditEntry where
  index : Nat
  time : Nat
  kind : Nat
  agent : AgentId
  data : List Byte
  hash : List Byte
deriving DecidableEq, Repr

/-- A firmware image: security version, bytes, signature and the public key that it names (R381). -/
structure FwImage where
  version : Word32
  bytes : List Byte
  sig : List Byte
  key : List Byte
deriving DecidableEq, Repr

/-- An answer to an RDMA request: data, of a WRITE none; a NAK for an invalid request; a NAK for a remote access error (R371, R372). -/
inductive RdmaAnswer
  | ok (data : List Byte)
  | invalidRequest
  | accessError
deriving DecidableEq, Repr

/-- A command that has been accepted and waits for its answer: QUIESCE and RESUME of a link, MAP of a page. -/
structure Pending where
  seq : Nat
  code : Nat
  job : Nat
  digest : List Byte
  arg : Nat
  /-- For a MAP: the entry that it replaces. -/
  old : Word
deriving DecidableEq, Repr

/-- The host port, the root of trust and the management core's records (R370–R385). -/
structure HostState where
  /-- The port accepts commands: the last step of bring-up is over (R385). -/
  opened : Bool
  /-- A boot stage failed (R381). -/
  recovery : Bool
  /-- The host address set; empty until the first JOB_CREATE (R370). -/
  addrs : List (BitVec 128)
  next : Nat
  journal : List JournalEntry
  noticeSeq : Nat
  /-- Frames sent to the host, oldest first. -/
  sent : List (List Byte)
  audit : List AuditEntry
  auditCount : Nat
  auditHash : List Byte
  /-- One past the highest index that an AUDIT_READ has returned. -/
  auditRead : Nat
  meas : List (List Byte)
  /-- The firmware slot: Corelo, sequencer, Fantail (R380, R382). -/
  firmware : List FwImage
  fuse : Word32
  waiting : Option Pending
  nextJob : Nat
  /-- Answers to RDMA requests by queue pair, oldest first (R371, R372). -/
  rdma : List (Nat × RdmaAnswer)
deriving DecidableEq, Repr

/-- Corelo's error counters (R287, R346, R359). -/
structure ErrCounts where
  soft : Nat
  fabric : Nat
  lanes : Nat
  links : Nat
deriving DecidableEq, Repr

/-- What comes with an event from outside the module. -/
inductive Msg
  | none
  /-- A KCP frame and its source address. -/
  | frame (src : BitVec 128) (bytes : List Byte)
  /-- An arriving flit, as it arrives. -/
  | flit (f : Flit)
  /-- A LANEMAP of the peer, or its request for another rate: its mask, f and b (R360, R361). -/
  | laneMap (mask : BitVec 16) (f b : Nat)
  /-- What bring-up learns of the peer: job, module, link, torus coordinates, lowest and highest version, usable lanes (R365). -/
  | peer (job modl link : Nat) (coords : List Nat) (lo hi : Nat) (mask : BitVec 16)
  /-- An RDMA request: source address, queue pair, job, address and the bytes to write. -/
  | rdma (src : BitVec 128) (qp job : Nat) (va : Nat) (bytes : List Byte)
  /-- Another module's Corelo gives back a region that it was lent, or with no region word all of them, its part of the job being over
  (R280). -/
  | loanBack (modl job : Nat) (region : Option Nat)
  /-- A launch record that Corelo submits on its own behalf, through its management path (R11, R312). -/
  | management (job : Nat) (recd : List Byte)
  /-- A contribution of a member on another module. -/
  | contribution (mill unit : Nat) (job member : Nat) (recd data out : List Byte)
deriving DecidableEq, Repr

end Sys2Proof.Machine
end

