-- ==== Sys2Proof/Machine/State.lean ====
section
/-! DEFINITION. The state of one LV-3200 module: everything the manual gives the machine, as plain data, and the state
after module reset. -/

namespace Sys2Proof.Machine

/-- Why the machine stops. -/
inductive Fault
  /-- Raised by `execPatrol` for a core number that no core has: an access to memory that does not exist. Safe. -/
  | noSuchMemory
deriving DecidableEq, Repr

/-- Why the model gives no next state. -/
inductive Refusal
  /-- Raised by an arm of `exec` whose instruction has no meaning yet. Safe. -/
  | notModelled (mnemonic : String)
deriving DecidableEq, Repr

/-- The operands of an event: which slot and which number of it, an address, a word, a stream, a fault, and what came
from outside with it. -/
structure EvArgs where
  slot : SlotId
  num : Nat
  addr : Word
  word : Word32
  stream : Stream
  flt : SFault
  msg : Msg
deriving DecidableEq, Repr

/-- What one step of the machine takes from the agenda. -/
inductive Turn
  /-- The engines of a core pick their streams (R223, R224). -/
  | pick (g : CoreId)
  /-- A stream issues its next word. -/
  | issue (k : SlotId) (e : Stream)
  /-- An event of the machine happens, with its operands. -/
  | event (i : Instr) (a : EvArgs)
deriving DecidableEq, Repr

/-- Something that reaches the module from outside in a cycle: an event and its operands. -/
structure Input where
  cycle : Nat
  what : Instr
  args : EvArgs
deriving DecidableEq, Repr

/-- The state of the module. -/
structure State where
  /-- The slot whose thread acts, and every other slot that is not as reset leaves it. -/
  cur : Slot
  others : List Slot
  cores : List Core
  /-- Bytes by home: HBM by physical address (R293), scratchpads by window address (R32). -/
  mem : List Host.Cell
  /-- Words with an uncorrectable error: address and level (R287, R292, R293). -/
  bad : List (Nat × Nat)
  tokens : List Entry
  jobs : List Job
  launches : List Launch
  /-- The saved threads, in the order they were saved; the older images of the chains of threads (R246). -/
  images : List Image
  archive : List Image
  nextImage : Nat
  /-- The dies held for a GANG launch that is the first candidate there and cannot bind: launch and die (R316). -/
  gangHolds : List (Nat × Nat)
  /-- The next launch number (R312). -/
  nextLaunch : Nat
  /-- Fabric ports that have failed, as endpoint and port (R347), and Millstone ports by partition (R350). -/
  badPorts : List Endpoint
  millPorts : List (Endpoint × BitVec 16)
  /-- Laser sources that have failed (R336). -/
  badLasers : List Nat
  /-- Dies declared failed (R281). -/
  deadDies : List Nat
  /-- Remote-module agents whose path has been declared failed (R281). -/
  lostModules : List AgentId
  links : List Link
  held : List HeldMsg
  colls : List Coll
  /-- Uncorrectable errors in the Millstones' chunk buffers (R331). -/
  chunkErrs : List ChunkErr
  host : HostState
  errors : ErrCounts
  /-- Words of scratchpads with a correctable error, not yet corrected (R287). -/
  soft : List Nat
  /-- The core clock in MHz (R385). -/
  cclk : Nat
  /-- The hardware has stopped every core at the trip point (R385). -/
  tripped : Bool
  /-- Records sent to Corelo, newest last, and whether each is forwarded to the host (R233, R234). -/
  corelo : List (Record × Bool)
  cycle : Nat
  agenda : List Turn
  /-- What reaches the module from outside, in order. -/
  inputs : List Input
  ev : EvArgs
  /-- The word that the acting stream has fetched (R236 FINSN). -/
  insn : Word32
  freeCtr : Nat
deriving DecidableEq, Repr

/-- The slot that acts after reset: slot 0 of core 0. -/
def SlotId.first : SlotId := { core := 0, slot := 0 }

/-- An event's operands with nothing in them. -/
def EvArgs.none : EvArgs :=
  { slot := SlotId.first, num := 0, addr := 0, word := 0, stream := .scalar, flt := { cause := 0, detail := 0, addr := 0 }, msg := .none }

/-- A firmware image of no bytes. -/
def FwImage.empty : FwImage := { version := 0, bytes := [], sig := [], key := [] }

/-- The host port and the root of trust as reset leaves them, before the boot stages (R370, R374, R379). -/
def HostState.reset : HostState :=
  { opened := false, recovery := false, addrs := [], next := 0, journal := [], noticeSeq := 0, sent := [], audit := [], auditCount := 0,
    auditHash := [], auditRead := 0, meas := List.replicate 8 (List.replicate 64 0), firmware := List.replicate 3 FwImage.empty, fuse := 0,
    waiting := none, nextJob := 1, rdma := [] }

/-- The module right after reset: no job, no launch, no thread; memory lists nothing; the boot stages come next (R12, R312,
R370, R379, R380). -/
def State.reset : State :=
  { cur := Slot.reset SlotId.first, others := [], cores := [], mem := [], bad := [], tokens := [], jobs := [], launches := [], images := [],
    archive := [], nextImage := 0, gangHolds := [], nextLaunch := 1, badPorts := [], millPorts := [], badLasers := [], deadDies := [], lostModules := [], links := (List.range 16).map Link.reset,
    held := [], colls := [], chunkErrs := [], host := HostState.reset, errors := { soft := 0, fabric := 0, lanes := 0, links := 0 }, soft := [], cclk := 2000,
    tripped := false, corelo := [], cycle := 0, agenda := [.event .moduleReset EvArgs.none], inputs := [], ev := EvArgs.none, insn := 0,
    freeCtr := 0 }

end Sys2Proof.Machine
end

