-- ==== Sys2Proof/Machine/Bits.lean ====
section
/-! DEFINITION. Little-endian bytes (R6), sign extension and the bit fields of registers. -/

namespace Sys2Proof.Machine

/-- The n low bytes of v, least significant first (R6). -/
def bytesOf : Nat → Nat → List Byte
  | 0, _ => []
  | n + 1, v => BitVec.ofNat 8 v :: bytesOf n (v / 256)

/-- The number whose bytes, least significant first, are given (R6). -/
def ofBytes : List Byte → Nat
  | [] => 0
  | b :: t => b.toNat + 256 * ofBytes t

/-- Bits [lo + n − 1 : lo] of a register, as a number. -/
def wbits (w : Word) (lo n : Nat) : Nat := w.toNat / 2 ^ lo % 2 ^ n

/-- A number of n bits read as two's complement. -/
def signedOf (n v : Nat) : Int := if v < 2 ^ (n - 1) then (v : Int) else (v : Int) - 2 ^ n

/-- A value of 8·size bits, sign- or zero-extended to 64 (R106). -/
def extendBytes (sgn : Bool) (size v : Nat) : Word :=
  if sgn then BitVec.ofInt 64 (signedOf (8 * size) (v % 2 ^ (8 * size))) else BitVec.ofNat 64 (v % 2 ^ (8 * size))

/-- The address of a program counter as a job virtual address. -/
def pcWord (p : Pc) : Word := p.setWidth 64

/-- A job virtual address as a program counter, whose bits [1:0] are zero (R9). -/
def toPc (w : Word) : Pc := (w.setWidth 52) &&& ~~~ 3#52

/-- Bytes of an access size (R81). -/
def memBytes : MemSize → Nat
  | .byte => 1 | .half => 2 | .word => 4 | .double => 8

/-- Bytes of an AMO (R109). -/
def amoBytes : AmoSize → Nat
  | .word => 4 | .double => 8

/-- The n-th power-of-two test used by natural alignment. -/
def aligned (a n : Nat) : Bool := decide (a % n = 0)

end Sys2Proof.Machine
end

