-- ==== Sys2Proof/Machine/Flags.lean ====
section
/-! DEFINITION. The floating-point flags and the status words that software reads whole: VCSR (R27) and TSTATUS (R29). -/

namespace Sys2Proof.Machine

/-- Floating-point flags: nv 1, dz 2, of 4, uf 8, nx 16, as VCSR[8:4] holds them (R27). -/
abbrev FFlags := BitVec 5

def flagNv : FFlags := 1
def flagDz : FFlags := 2
def flagOf : FFlags := 4
def flagUf : FFlags := 8
def flagNx : FFlags := 16

/-- VCSR as a register (R27). -/
def Vcsr.word (v : Vcsr) : Word := BitVec.ofNat 64 (v.rm.code + v.flags.toNat * 16 + (if v.autoc then 4096 else 0))

def roundOf (n : Nat) : RoundMode := match n % 4 with | 0 => .rne | 1 => .rz | 2 => .rup | _ => .rdn

/-- The fields of a value written to VCSR; the bits marked zero are dropped (R7, R27). -/
def vcsrOf (w : Word) : Vcsr :=
  { rm := roundOf (wbits w 0 2), flags := BitVec.ofNat 5 (wbits w 4 5), autoc := w.getLsbD 12 }

/-- A bit of TSTATUS for each stream, the scalar stream's lowest (R29). -/
def Slot.streamBits (t : Slot) (f : StreamState → Bool) : Nat :=
  (if f t.scalar then 1 else 0) + (if f t.vector then 2 else 0) + (if f t.matrix then 4 else 0) + (if f t.copy then 8 else 0)

/-- TSTATUS (R25, R29). -/
def Slot.tstatus (t : Slot) : Word :=
  BitVec.ofNat 64 ((if t.ih then 1 else 0) + t.streamBits (fun x => x.stopped || x.halted) * 16
    + t.streamBits (fun x => x.ended) * 256 + t.bind.role.toNat * 4096 + (if t.bind.supervisor then 65536 else 0))

end Sys2Proof.Machine
end

