-- ==== Sys2Proof/Machine/Mem.lean ====
section
/-! DEFINITION. Memory: the bytes at their homes (R253), one list of cells in canonical form, and the words with an
uncorrectable error. An unlisted byte reads as zero: a scrubbed scratchpad, a zeroed frame (R248, R249, R255). -/

namespace Sys2Proof.Machine

/-- The byte at a home address. -/
def memRead : List Host.Cell → Nat → Byte
  | [], _ => 0
  | (x, v) :: t, a => if a = x then v else memRead t a

/-- Memory with one byte unlisted. -/
def memDrop (m : List Host.Cell) (a : Nat) : List Host.Cell := m.filter fun c => decide (c.1 ≠ a)

/-- Memory with a cell put before the first cell above it. -/
def memInsert : List Host.Cell → Nat → Byte → List Host.Cell
  | [], a, b => [(a, b)]
  | (x, v) :: t, a, b => if a < x then (a, b) :: (x, v) :: t else (x, v) :: memInsert t a b

/-- Memory with one byte written; the cells stay rising and none holds zero. -/
def memWrite (m : List Host.Cell) (a : Nat) (b : Byte) : List Host.Cell :=
  if b = 0 then memDrop m a else memInsert (memDrop m a) a b

/-- The canonical form from an address bound on: rising addresses and no zero byte. -/
def memWfFrom : Nat → List Host.Cell → Bool
  | _, [] => true
  | lo, (x, v) :: t => decide (lo ≤ x) && decide (v ≠ 0) && memWfFrom (x + 1) t

/-- The memory is in canonical form. -/
def Memory.wf (m : List Host.Cell) : Bool := memWfFrom 0 m

/-- Bytes written at given home addresses. -/
def memWrites (m : List Host.Cell) : List (Nat × Byte) → List Host.Cell
  | [] => m
  | (a, b) :: t => memWrites (memWrite m a b) t

/-- n bytes from a home address up. -/
def memBytesAt (m : List Host.Cell) (a : Nat) : Nat → List Byte
  | 0 => []
  | n + 1 => memRead m a :: memBytesAt m (a + 1) n

/-- The little-endian number of n bytes from a home address up. -/
def memNat (m : List Host.Cell) (a n : Nat) : Nat := ofBytes (memBytesAt m a n)

/-- The pairs of address and byte that n bytes from a home address take. -/
def cellsAt (a : Nat) : List Byte → List (Nat × Byte)
  | [] => []
  | b :: t => (a, b) :: cellsAt (a + 1) t

/-- Memory with all cells of a range of home addresses removed: they read as zero (R248). -/
def memZero (m : List Host.Cell) (lo hi : Nat) : List Host.Cell :=
  m.filter fun c => decide (c.1 < lo) || decide (hi ≤ c.1)

/-- The level of the uncorrectable error that covers a byte, if any: words of 8 bytes for the scratchpad (0) and HBM
(2), superblocks of 512 bytes for L2 (1) (R235, R287, R292, R293). -/
def eccAt (bad : List (Nat × Nat)) (a : Nat) : Option Nat :=
  match bad with
  | [] => none
  | (x, l) :: t =>
    if (if l = 1 then x / 512 = a / 512 else x / 8 = a / 8) then some l else eccAt t a

/-- The first of n bytes from a home address under an uncorrectable error, and its level. -/
def eccIn (bad : List (Nat × Nat)) (a : Nat) : Nat → Option (Nat × Nat)
  | 0 => none
  | n + 1 => match eccAt bad a with
    | some l => some (a, l)
    | none => eccIn bad (a + 1) n

/-- A store of given cells covers the whole 8-byte word (or, in L2, 128-byte line) of an error at x (R287, R292). -/
def coversWord (cells : List (Nat × Byte)) (x l : Nat) : Bool :=
  let unit := if l = 1 then 128 else 8
  (List.range unit).all fun i => cells.any fun c => decide (c.1 = x / unit * unit + i)

/-- The cells of a store that take effect: those in a word with an uncorrectable error that the store does not
replace whole are discarded (R287, R292). -/
def storeCells (bad : List (Nat × Nat)) (cells : List (Nat × Byte)) : List (Nat × Byte) :=
  match bad with
  | [] => cells
  | _ => cells.filter fun c => match eccAt bad c.1 with
    | none => true
    | some l => coversWord cells c.1 l

/-- The errors left by a store: a word replaced whole is good again (R287). -/
def storeBad (bad : List (Nat × Nat)) (cells : List (Nat × Byte)) : List (Nat × Nat) :=
  match bad with
  | [] => []
  | _ => bad.filter fun e => !coversWord cells e.1 e.2

/-- Cells of a store lie in the 8-byte word at x. -/
def meetsWord (cells : List (Nat × Byte)) (x : Nat) : Bool := cells.any fun c => decide (x ≤ c.1) && decide (c.1 < x + 8)

/-- The words with a single-bit error that a store leaves: it replaces a word whole, or first reads it, which corrects it (R287). -/
def storeSoft (soft : List Nat) (cells : List (Nat × Byte)) : List Nat := soft.filter fun w => !meetsWord cells w

/-- The single-bit errors that a store counts: those of the words that it writes in part, and so reads (R287). -/
def softRead (soft : List Nat) (cells : List (Nat × Byte)) : Nat :=
  (soft.filter fun w => meetsWord cells w && !coversWord cells w 0).length

/-- A store performed at its home (R253, R287). -/
def State.store (s : State) (cells : List (Nat × Byte)) : State :=
  { s with
    mem := memWrites s.mem (storeCells s.bad cells), bad := storeBad s.bad cells, soft := storeSoft s.soft cells
    errors := { s.errors with soft := s.errors.soft + softRead s.soft cells } }

/-- The words from lo up to hi are written whole, with no error left in them (R248, R287). -/
def State.freshWords (s : State) (lo hi : Nat) : State :=
  let out (a : Nat) : Bool := !(decide (lo ≤ a) && decide (a < hi))
  { s with bad := s.bad.filter fun e => out e.1, soft := s.soft.filter out }

/-- The byte at a home address. -/
def State.byteAt (s : State) (a : Nat) : Byte := memRead s.mem a

end Sys2Proof.Machine
end

