-- ==== Sys2Proof/Machine/Trust.lean ====
section
/-! DEFINITION. SHA3-512, the digest that the manual names for frames, images, measurements and the audit log (R373, R379,
R384), as FIPS 202 defines it; the audit log's append port (R384); KCP frames, notices and the journal (R373–R376). -/

namespace Sys2Proof.Machine

/-! ### The permutation

A state is a list of 25 words, the lane of column x and row y at place 5 y + x. -/

/-- The next place of the walk that carries lanes around: (x, y) goes to (y, 2x + 3y). -/
def piNext (i : Nat) : Nat := i / 5 + 5 * ((2 * (i % 5) + 3 * (i / 5)) % 5)

/-- The lanes of column x taken together bit by bit. -/
def parity (a : List Word) (x : Nat) : Word := ((a.drop x).zipIdx.filter fun p => p.2 % 5 = 0).foldl (fun w p => w ^^^ p.1) 0

/-- Every lane takes in the parities of the columns beside its own, that of the right one turned by one bit. -/
def mixColumns (a : List Word) : List Word :=
  let p := (List.range 5).map (parity a)
  a.zipIdx.map fun w => w.1 ^^^ p[(w.2 + 4) % 5]?.getD 0 ^^^ (p[(w.2 + 1) % 5]?.getD 0).rotateLeft 1

/-- The lane at place i, turned by t(t+1)/2 bits in step t, takes the next place of the walk. -/
def carryLanes (a : List Word) : Nat → Nat → Nat → List Word → List Word
  | 0, _, _, b => b
  | n + 1, t, i, b => carryLanes a n (t + 1) (piNext i) (b.set (piNext i) ((a[i]?.getD 0).rotateLeft (t * (t + 1) / 2 % 64)))

/-- Every lane takes in its row's next two, and lane 0 the round's constant. -/
def mixRows (k : Word) (a : List Word) : List Word :=
  a.zipIdx.map fun w =>
    let right (n : Nat) := a[w.2 - w.2 % 5 + (w.2 + n) % 5]?.getD 0
    w.1 ^^^ (right 2 &&& ~~~ right 1) ^^^ if w.2 = 0 then k else 0

/-- One step of the register that gives the round constants, of the polynomial x^8 + x^6 + x^5 + x^4 + 1. -/
def lfsrNext (r : Nat) : Nat := if r < 128 then 2 * r else (2 * r) ^^^ 0x171

/-- The register over n steps. -/
def lfsrRun : Nat → Nat → List Nat
  | 0, _ => []
  | n + 1, r => r :: lfsrRun n (lfsrNext r)

/-- The constants of 24 rounds: bit 2^j - 1 of round n's is the low bit of the register after 7n + j steps. -/
def roundConstants : List Word :=
  let bits := lfsrRun 168 1
  (List.range 24).map fun n => BitVec.ofNat 64 ((((bits.drop (7 * n)).take 7).zipIdx.map fun p => p.1 % 2 * 2 ^ (2 ^ p.2 - 1)).sum)

/-- A round, with its constant. -/
def permRound (a : List Word) (k : Word) : List Word :=
  let m := mixColumns a
  mixRows k (carryLanes m 24 1 1 m)

/-- The permutation. -/
def permute (a : List Word) : List Word := roundConstants.foldl permRound a

/-! ### SHA3-512 -/

/-- The word of byte places 8i to 8i + 7 of a block. -/
def blockWord (bs : List Byte) (i : Nat) : Word := BitVec.ofNat 64 (ofBytes ((bs.drop (8 * i)).take 8))

/-- The state after the blocks of a padded message, 72 bytes a block and 24 rounds after each. -/
def sponge : Nat → List Word → List Byte → List Word
  | 0, a, _ => a
  | n + 1, a, bs => sponge n (permute (a.zipIdx.map fun w => w.1 ^^^ blockWord (bs.take 72) w.2)) (bs.drop 72)

/-- A message with its padding to whole blocks: a byte 6, zeros, and bit 7 of the last byte. -/
def padded (m : List Byte) : List Byte :=
  let n := 72 * (m.length / 72 + 1) - m.length
  m ++ (List.range n).map fun i => (if i = 0 then 0x06#8 else 0) ||| (if i + 1 = n then 0x80#8 else 0)

/-- The SHA3-512 digest of bytes. -/
def sha3 (m : List Byte) : List Byte :=
  ((sponge (m.length / 72 + 1) (List.replicate 25 0) (padded m)).take 8).flatMap fun w => bytesOf 8 w.toNat

/-! ### Time and the audit log -/

/-- Nanoseconds since module reset, at the nominal clock (R1). -/
def State.nanos (s : State) : Nat := s.cycle / 2

/-- Product and serial number, as capability 0x0001 gives them (R377). -/
def productBytes : List Byte := bytesOf 2 0x3200 ++ (List.range 16).map Config.serialByte

/-- The head of the audit log's hash chain (R384). -/
def HostState.auditHead (h : HostState) : List Byte := if h.auditCount = 0 then sha3 productBytes else h.auditHash

/-- The 128 bytes of an audit entry before its hash (R384). -/
def auditBytes (index time kind : Nat) (agent : AgentId) (data : List Byte) : List Byte :=
  bytesOf 8 index ++ bytesOf 8 time ++ bytesOf 2 kind ++ bytesOf 2 0 ++ bytesOf 4 agent.toNat
    ++ (data ++ List.replicate 104 0).take 104

/-- Entries that the audit log holds (R384). -/
def auditSize : Nat := 65536

/-- An append to the audit log: the port gives the index, the time and the chain hash. DESIGN CHOICE: an append to a full log is lost
(R384, log 76). -/
def State.audit (s : State) (kind : Nat) (agent : AgentId) (data : List Byte) : State :=
  let h := s.host
  let hash := sha3 (h.auditHead ++ auditBytes h.auditCount s.nanos kind agent data)
  let e : AuditEntry := { index := h.auditCount, time := s.nanos, kind := kind, agent := agent, data := (data ++ List.replicate 104 0).take 104, hash := hash }
  if auditSize ≤ h.audit.length then s
  else { s with host := { h with audit := h.audit ++ [e], auditCount := h.auditCount + 1, auditHash := hash } }

/-! ### KCP frames (R373) -/

/-- A KCP frame: header, body and digest. -/
def frameBytes (type seq code job status : Nat) (body : List Byte) : List Byte :=
  let f := bytesOf 4 0x4B435031 ++ bytesOf 2 1 ++ bytesOf 2 type ++ bytesOf 8 seq ++ bytesOf 4 code ++ bytesOf 4 job
    ++ bytesOf 4 body.length ++ bytesOf 4 status ++ body
  f ++ sha3 f

/-- A frame that the port sends to the host. -/
def State.sendHost (s : State) (f : List Byte) : State := { s with host := { s.host with sent := s.host.sent ++ [f] } }

/-- A notice to the host: 1 RECORD, 2 TOKEN, 3 THERMAL, with the number of the job it concerns, or 0 (R373, R375). -/
def State.notice (s : State) (kind job : Nat) (body : List Byte) : State :=
  { s with host := { s.host with noticeSeq := s.host.noticeSeq + 1 } }.sendHost (frameBytes 3 s.host.noticeSeq kind job 0 body)

/-- Commands the journal keeps (R376). -/
def journalSize : Nat := 65536

/-- An accepted command is answered and journaled (R374, R376). -/
def State.answer (s : State) (p : Pending) (status : Nat) (body : List Byte) : State :=
  let f := frameBytes 2 p.seq p.code p.job status body
  let e : JournalEntry := { seq := p.seq, code := p.code, status := status, time := s.nanos, digest := p.digest, answer := f }
  let js := s.host.journal ++ [e]
  { s with host := { s.host with journal := js.drop (js.length - journalSize) } }.sendHost f

/-- The command that waits is answered. -/
def State.answerWaiting (s : State) (status : Nat) (body : List Byte) : State :=
  match s.host.waiting with
  | some p => { s with host := { s.host with waiting := none } }.answer p status body
  | none => s

end Sys2Proof.Machine
end

