-- ==== Sys2Proof/Machine/Ops.lean ====
section
/-! DEFINITION. The named operations on registers, streams, cores, records and slots; taking an exception (R236–R238)
and the return from one (R138). -/

namespace Sys2Proof.Machine

/-! ### Slots and streams -/

/-- A change to the acting slot. -/
def State.upd (s : State) (f : Slot → Slot) : State := { s with cur := f s.cur }

/-- The state of a stream of the slot. -/
def Slot.str (t : Slot) : Stream → StreamState
  | .scalar => t.scalar | .vector => t.vector | .matrix => t.matrix | .copy => t.copy

def Slot.setStr (t : Slot) (e : Stream) (x : StreamState) : Slot :=
  match e with
  | .scalar => { t with scalar := x } | .vector => { t with vector := x }
  | .matrix => { t with matrix := x } | .copy => { t with copy := x }

/-- A change to one stream of the acting slot. -/
def State.updStr (s : State) (e : Stream) (f : StreamState → StreamState) : State :=
  s.upd fun t => t.setStr e (f (t.str e))

/-- The acting thread as it makes a read of a stream of its own, a fetch or a COLL's record: on the circuit on which that is held (R342). -/
def State.onRead (s : State) (e : Stream) : State := s.upd fun t => { t with heldOn := (t.str e).heldRead }

/-- A stream's read is over. -/
def State.dropRead (s : State) (e : Stream) : State := s.updStr e fun x => { x with heldRead := none }

/-- The slot with a key among the others, or a slot as reset leaves it. -/
def findSlot (ts : List Slot) (dflt : Slot) (k : SlotId) : Slot :=
  match ts with
  | [] => dflt
  | t :: r => if t.key = k then t else findSlot r dflt k

/-- The others with the slot of one key replaced by another slot. -/
def swapSlot (ts : List Slot) (k : SlotId) (t : Slot) : List Slot :=
  match ts with
  | [] => [t]
  | x :: r => if x.key = k then t :: r else x :: swapSlot r k t

/-- The order number of a slot in the module. -/
def SlotId.num (k : SlotId) : Nat := 4 * k.core.toNat + k.slot.toNat

/-- The die of a core (R3). -/
def dieOf (g : CoreId) : Nat := g.toNat / 16

/-- The cluster of a core within the module (R3). -/
def clusterOf (g : CoreId) : Nat := g.toNat / 4

/-- The agent identifier of a thread in a slot (R30). -/
def SlotId.agent (k : SlotId) : AgentId :=
  BitVec.ofNat 32 (0x10000000 + dieOf k.core * 2 ^ 23 + k.core.toNat % 16 * 2 ^ 19 + k.slot.toNat * 2 ^ 17)

/-- The slot a thread's agent identifier names (R30). -/
def agentSlot (a : AgentId) : SlotId :=
  { core := BitVec.ofNat 9 (a.toNat / 2 ^ 23 % 32 * 16 + a.toNat / 2 ^ 19 % 16), slot := BitVec.ofNat 2 (a.toNat / 2 ^ 17) }

/-- The kind of an agent identifier (R30). -/
def agentKind (a : AgentId) : Nat := a.toNat / 2 ^ 28

/-- The management agent (R30). -/
def mgmtAgent : AgentId := 0x50000000#32

/-- The state with another slot acting. -/
def State.focus (s : State) (k : SlotId) : State :=
  if s.cur.key = k then s
  else { s with cur := findSlot s.others (Slot.reset k) k, others := swapSlot s.others k s.cur }

/-- The slot with a key, acting or not. -/
def State.slotAt (s : State) (k : SlotId) : Slot :=
  if s.cur.key = k then s.cur else findSlot s.others (Slot.reset k) k

/-- An operation of another slot, after which this slot acts again. -/
def State.onSlot (s : State) (k : SlotId) (f : State → State) : State := (f (s.focus k)).focus s.cur.key

/-- Every slot that is not as reset leaves it, the acting one first. -/
def State.slots (s : State) : List Slot := s.cur :: s.others

/-- The slot holds a thread: from its bind until the slot is scrubbed (R9, R320). -/
def Slot.holds (t : Slot) : Bool := !decide (t.status = .free) && !decide (t.status = .scrubbing)

/-! ### Register files -/

/-- s(i); s0 reads as zero (R13). DESIGN CHOICE: a stream that reads without an ordering edge sees the present value, one of those
that R14 allows it; so do reads of the other files (R15, R16, R19, R20, log 91). -/
def Slot.getS (t : Slot) (i : BitVec 5) : Word := if i = 0 then 0 else t.s[i.toNat]'i.isLt

/-- Write of s(i); a write to s0 is discarded (R13). A value written anew has no error (R235). -/
def Slot.setS (t : Slot) (i : BitVec 5) (v : Word) : Slot :=
  if i = 0 then t else { t with s := t.s.set i.toNat v i.isLt, badS := t.badS.filter fun r => r ≠ i }

def State.getS (s : State) (i : BitVec 5) : Word := s.cur.getS i
def State.setS (s : State) (i : BitVec 5) (v : Word) : State := s.upd fun t => t.setS i v

def Slot.getH (t : Slot) (i : BitVec 4) : Handle := t.h[i.toNat]'i.isLt
def Slot.setH (t : Slot) (i : BitVec 4) (v : Handle) : Slot := { t with h := t.h.set i.toNat v i.isLt }
def Slot.getE (t : Slot) (i : BitVec 3) : Word := t.e[i.toNat]'i.isLt
def Slot.setE (t : Slot) (i : BitVec 3) (v : Word) : Slot := { t with e := t.e.set i.toNat v i.isLt }
def Slot.getK (t : Slot) (i : BitVec 4) : BitVec 16 := t.k[i.toNat]'i.isLt
def Slot.setK (t : Slot) (i : BitVec 4) (v : BitVec 16) : Slot := { t with k := t.k.set i.toNat v i.isLt }
def Slot.getFt (t : Slot) (i : BitVec 4) : Word32 := t.ft[i.toNat]'i.isLt
def Slot.setFt (t : Slot) (i : BitVec 4) (v : Word32) : Slot := { t with ft := t.ft.set i.toNat v i.isLt }
def Slot.getOm (t : Slot) (i : BitVec 4) : OffMap := t.om[i.toNat]'i.isLt
def Slot.setOm (t : Slot) (i : BitVec 4) (v : OffMap) : Slot := { t with om := t.om.set i.toNat v i.isLt }
def Slot.getV (t : Slot) (i : BitVec 5) : RunReg := t.v[i.toNat]'i.isLt
def Slot.setV (t : Slot) (i : BitVec 5) (v : RunReg) : Slot :=
  { t with v := t.v.set i.toNat v i.isLt, dirtyV := if t.dirtyV.contains i.toNat then t.dirtyV else i.toNat :: t.dirtyV }
def Slot.getM (t : Slot) (i : BitVec 3) : MatReg := t.m[i.toNat]'i.isLt
def Slot.setM (t : Slot) (i : BitVec 3) (v : MatReg) : Slot := { t with m := t.m.set i.toNat v i.isLt }

/-- A word of a handle (R15). -/
def Handle.word (h : Handle) (w : BitVec 2) : Word :=
  match w with
  | 0#2 => h.w0 | 1#2 => h.w1 | 2#2 => h.w2 | _ => h.w3

def Handle.setWord (h : Handle) (w : BitVec 2) (v : Word) : Handle :=
  match w with
  | 0#2 => { h with w0 := v } | 1#2 => { h with w1 := v } | 2#2 => { h with w2 := v } | _ => { h with w3 := v }

/-- The loop counter of a level; an inactive level reads 0 (R18, R20). -/
def StreamState.lc (x : StreamState) (i : Nat) : BitVec 32 :=
  match x.loops[i]? with
  | some l => if l.active then l.lc else 0
  | none => 0

/-- The term an offset map adds to an address: the exact sum, truncated to 64 bits (R20). -/
def offTerm (o : OffMap) (x : StreamState) : Word :=
  BitVec.ofInt 64 ((List.range 6).foldl (fun acc i => acc + (o[i]?.getD 0).toInt * (x.lc i).toNat) 0)

/-! ### Program counters and loops -/

/-- The innermost active loop, not frozen, that ends at a word: the level whose body starts last (R132). -/
def innermost (ls : Vector LoopLevel 6) (pc : Pc) : Option (Fin 6) :=
  (List.finRange 6).foldl (fun b i =>
    let l := ls[i]
    if l.active && !l.frozen && l.last = pc then
      match b with
      | none => some i
      | some j => if ls[j].first < l.first then some i else some j
    else b) none

/-- The loop buffer after a level ends: released when it held that level's body (R228). -/
def dropBuf (b : Option LoopBuf) (i : Nat) : Option LoopBuf :=
  match b with
  | some x => if x.level = i then none else some x
  | none => none

/-- Where a stream goes once it has completed its word in sequence: the loops that end at the word are tested from the
innermost outwards (R132). -/
def seqNext : Nat → StreamState → StreamState
  | 0, x => { x with pc := x.pc + 4 }
  | n + 1, x =>
    match innermost x.loops x.pc with
    | none => { x with pc := x.pc + 4 }
    | some i =>
      let l := x.loops[i]
      if l.lc.toNat + 1 < l.count then
        { x with loops := x.loops.set i { l with lc := l.lc + 1 }, pc := l.first }
      else seqNext n { x with loops := x.loops.set i LoopLevel.off, buf := dropBuf x.buf i }

/-- The stream goes on in sequence. -/
def State.advance (s : State) (e : Stream) : State := s.updStr e (seqNext 6)

/-- A taken branch to a target: loops whose bodies do not hold the target end (R132). -/
def StreamState.jumpTo (x : StreamState) (target : Pc) : StreamState :=
  let out (l : LoopLevel) : Bool := l.active && !l.frozen && !(decide (l.first ≤ target) && decide (target ≤ l.last))
  { x with
    loops := x.loops.map fun l => if out l then LoopLevel.off else l,
    buf := match x.buf with
      | some b => (match x.loops[b.level]? with
        | some l => if out l then none else some b
        | none => some b)
      | none => none,
    pc := target }

/-- A program counter's next word, loops aside. -/
def StreamState.skip (x : StreamState) (words : Nat) : StreamState := { x with pc := x.pc + BitVec.ofNat 52 (4 * words) }

/-! ### Free values -/

/-- A free number at this point of the run, and the state after it (R5). -/
def State.free (s : State) : Nat × State := (Config.freeNat s.freeCtr, { s with freeCtr := s.freeCtr + 1 })

/-- A free landing cycle: after this cycle and within the bound (R89, R90). -/
def State.freeDue (s : State) (bound : Nat) : Nat := s.cycle + 1 + Config.freeNat s.freeCtr % bound

/-! ### Cores -/

def findCore (cs : List Core) (g : CoreId) : Core :=
  match cs with
  | [] => Core.reset g
  | c :: r => if c.g = g then c else findCore r g

def putCore (cs : List Core) (c : Core) : List Core :=
  match cs with
  | [] => [c]
  | x :: r => if x.g = c.g then c :: r else x :: putCore r c

/-- A core of the module. -/
def State.core (s : State) (g : CoreId) : Core := findCore s.cores g

/-- A change to a core. -/
def State.updCore (s : State) (g : CoreId) (f : Core → Core) : State := { s with cores := putCore s.cores (f (s.core g)) }

/-- The core of the acting slot. -/
def State.ownCore (s : State) : Core := s.core s.cur.key.core

/-- The tag of a 2 KiB granule (R286). -/
def Core.tag (c : Core) (granule : Nat) : BitVec 3 :=
  match c.tags with
  | [] => 0
  | ts => (ts.find? fun t => t.1 = granule).elim 0 Prod.snd

/-- A granule's tag written; tag 0 is not listed. -/
def setTag : List (Nat × BitVec 3) → Nat → BitVec 3 → List (Nat × BitVec 3)
  | [], i, v => if v = 0 then [] else [(i, v)]
  | (j, w) :: t, i, v =>
    if i < j then (if v = 0 then (j, w) :: t else (i, v) :: (j, w) :: t)
    else if i = j then (if v = 0 then t else (i, v) :: t)
    else (j, w) :: setTag t i v

/-! ### Scratchpad addresses (R32, R33) -/

/-- The window address of offset o of core g's scratchpad. -/
def windowAddr (g : CoreId) (o : Nat) : Nat := 0x000F000000000000 + g.toNat * 0x2000000 + o

/-- The core whose window holds an address. -/
def windowCore (a : Nat) : CoreId := BitVec.ofNat 9 ((a - 0x000F000000000000) / 0x2000000)

/-- The offset of an address in its window. -/
def windowOff (a : Nat) : Nat := (a - 0x000F000000000000) % 0x2000000

/-- An address lies in the scratchpad windows, the holes of each window aside. -/
def inWindows (a : Nat) : Bool := decide (0x000F000000000000 ≤ a ∧ a < 0x000F000400000000)

/-- An address lies in the page range. -/
def inPages (a : Nat) : Bool := decide (a < 0x000F000000000000)

/-- The thread's completion ring: its window address (R33). -/
def Slot.ringBase (t : Slot) : Nat := windowAddr t.key.core t.bind.spbaseA

/-- An offset of the thread's own core lies in its two halves. -/
def Slot.inHalves (t : Slot) (o : Nat) : Bool :=
  decide (t.bind.spbaseA ≤ o ∧ o < t.bind.spbaseA + t.bind.spsize)
    || decide (t.bind.spbaseB ≤ o ∧ o < t.bind.spbaseB + t.bind.spsize)

/-- Marks the 64 KiB granules of the scratchpad that a write touches dirty, in the slot that holds them (R246). -/
def Slot.markDirty (t : Slot) (o : Nat) : Slot :=
  if t.inHalves o then
    let u := o / 65536
    { t with dirtyG := if t.dirtyG.contains u then t.dirtyG else u :: t.dirtyG }
  else t

/-! ### L1 (R105, R288, R289) -/

/-- The cores whose L1s serve a core: itself, or its cluster when fused. -/
def State.l1Cores (s : State) (g : CoreId) : List CoreId :=
  if (s.core g).fused then (List.range 4).map fun q => BitVec.ofNat 9 (g.toNat / 4 * 4 + q) else [g]

/-- The core whose L1 holds a line for an access of core g: by va[13:12] when fused. -/
def State.l1Home (s : State) (g : CoreId) (va : Nat) : CoreId :=
  if (s.core g).fused then BitVec.ofNat 9 (g.toNat / 4 * 4 + va / 4096 % 4) else g

/-- The line that holds an address, if the serving L1 has it. -/
def State.l1Find (s : State) (g : CoreId) (job va : Nat) : Option L1Line :=
  (s.core (s.l1Home g va)).l1.find? fun l => decide (l.job = job) && decide (l.line = va / 128)

/-- A line filled in place of an older one of its address, with the mark of the fill; the oldest line goes when the L1 is full. -/
def State.l1Fill (s : State) (g : CoreId) (ln : L1Line) : State :=
  ({ s with freeCtr := s.freeCtr + 1 }).updCore (s.l1Home g (ln.line * 128)) fun c =>
    { c with l1 := ({ ln with stamp := s.freeCtr } :: c.l1.filter fun l => !(decide (l.job = ln.job) && decide (l.line = ln.line))).take Config.l1Lines }

/-- The lines of the given cores' L1s that a test keeps. -/
def State.l1Keep (s : State) (gs : List CoreId) (keep : L1Line → Bool) : State :=
  gs.foldl (fun s g => if (s.core g).l1.isEmpty then s else s.updCore g fun c => { c with l1 := c.l1.filter keep }) s

/-- The lines that n bytes from an address up lie in. -/
def linesOf (va n : Nat) : List Nat := (List.range ((va + n - 1) / 128 + 1 - va / 128)).map fun i => va / 128 + i

/-- A write of a thread invalidates the lines that hold its bytes in the L1 that serves the core (R105). -/
def State.l1Drop (s : State) (g : CoreId) (job : Nat) (lines : List Nat) : State :=
  s.l1Keep (s.l1Cores g) fun l => !(decide (l.job = job) && lines.contains l.line)

/-- Every line of the L1 that serves a core goes: an acquire at .core or wider, ICSYNC (R262, R288). -/
def State.l1Clear (s : State) (g : CoreId) : State := s.l1Keep (s.l1Cores g) fun _ => false

/-- Lines of a region go from the L1 that serves a core (R123). -/
def State.l1DropRegion (s : State) (g : CoreId) (job base size : Nat) : State :=
  s.l1Keep (s.l1Cores g) fun l => !(decide (l.job = job) && decide (base ≤ l.line * 128 + 127) && decide (l.line * 128 < base + size))

/-! ### Records (R134, R239) -/

/-- A record's 32 bytes (R239). -/
def Record.bytes (r : Record) : List Byte :=
  bytesOf 2 r.kind.toNat ++ bytesOf 2 r.status.toNat ++ bytesOf 4 r.tag.toNat ++ bytesOf 8 r.count.toNat
    ++ bytesOf 8 r.poison.toNat ++ bytesOf 4 r.code.toNat ++ bytesOf 2 r.retries.toNat ++ bytesOf 2 0

/-- A FAULT record (R240). -/
def faultRecord (agent : AgentId) (fpc addr : Word) (cause : BitVec 8) (detail : BitVec 16) (e : Nat) : Record :=
  { kind := 4, status := 2, tag := agent, count := fpc, poison := addr,
    code := BitVec.ofNat 32 (cause.toNat + detail.toNat * 256 + e * 2 ^ 24), retries := 0 }

/-- The acting thread's ring takes a record: the device writes it at the tail (R33, R134). -/
def State.ringPut (s : State) (r : Record) : State :=
  let t := s.cur
  (s.store (cellsAt (t.ringBase + t.cqTail * 32) r.bytes)).upd fun t =>
    { t with cqTail := (t.cqTail + 1) % Config.ringSize, cqCount := t.cqCount + 1 }.markDirty t.bind.spbaseA

/-- A record of a job sent to Corelo, which forwards it to the host as a RECORD notice where it is routed so (R233, R375). -/
def State.toCorelo (s : State) (job : Nat) (r : Record) (host : Bool) : State :=
  let s := { s with corelo := s.corelo ++ [(r, host)] }
  if host then s.notice 1 job r.bytes else s

/-! ### Stopping and entering the handler (R29, R236, R237) -/

/-- The launch with a number. -/
def findLaunch (ls : List Launch) (n : Nat) : Option Launch := ls.find? fun l => l.num = n

/-- The launch of the acting thread. -/
def State.launch? (s : State) : Option Launch := findLaunch s.launches s.cur.bind.launch

/-- The byte at an offset of a launch record (R307). -/
def Launch.byte (l : Launch) (o : Nat) : Nat := (l.recd[o]?.getD 0).toNat

/-- The little-endian number of n bytes at an offset of a launch record (R307). -/
def Launch.num8 (l : Launch) (o n : Nat) : Nat := ofBytes ((l.recd.drop o).take n)

/-- A bit of the launch's flags (R307). -/
def Launch.flag (l : Launch) (i : Nat) : Bool := decide (l.byte 2 / 2 ^ i % 2 = 1)

/-- A flag of the acting thread's launch; a thread without a launch has none set. -/
def State.launchFlag (s : State) (i : Nat) : Bool := s.launch?.elim false fun l => l.flag i

/-- The destination of a class of faults in the route table (R233). -/
def State.route (s : State) (cls : Nat) : Nat := s.launch?.elim 0 fun l => l.byte (0x78 + cls) % 8

/-- The four streams in order. -/
def allStreams : List Stream := [.scalar, .vector, .matrix, .copy]

/-- A stream is running: it has not ended and no fault or halt stops it. The scalar stream runs the handler of its own
fault with its stopped bit set, until it faults there (R9, R29, R237). -/
def Slot.running (t : Slot) (e : Stream) : Bool :=
  let x := t.str e
  !x.ended && !x.halted && (!x.stopped || (decide (e = .scalar) && t.ih && decide (t.handled = some .scalar) && x.pending.isNone))

/-- K-steps of an MMA or MMAT that have ended at the first K-step boundary from a cycle on (R95, R242). -/
def MLanding.stepsBy (l : MLanding) (c : Nat) : Nat := min l.frames.length ((c - l.issued - 24 + 127) / 128)

/-- The cycle in which an MMA ends its first k K-steps (R95). -/
def MLanding.boundary (l : MLanding) (k : Nat) : Nat := l.issued + 24 + 128 * k

/-- An MMA in flight stops at its next K-step boundary; one in its last K-step lands (R92, R187). -/
def MLanding.stopFrom (c : Nat) (l : MLanding) : MLanding :=
  if l.run = .on ∧ l.stepsBy c < l.frames.length then { l with run := .stopping (l.stepsBy c) } else l

/-- Matrix results of a stopped stream: MMAs stop, and DESIGN CHOICE: a later result for the register of a stopped MMA stays
behind it (R90, log 103). -/
def stopMatrix (c : Nat) : Nat → List MLanding → List MLanding
  | 0, ls => ls
  | _, [] => []
  | n + 1, l :: t =>
    let l := l.stopFrom c
    l :: stopMatrix c n (if l.run = .on then t else t.map fun x => if x.mreg.isSome ∧ x.mreg = l.mreg then { x with run := .stopped } else x)

/-- The MMAs of a stopped matrix stream stop (R92, R236). -/
def Slot.stopMmas (t : Slot) (c : Nat) : Slot := { t with mfly := stopMatrix c t.mfly.length t.mfly }

/-- Results that stopped go on, one MMA after another: what is left lands within its bound (R185, R187, R244). -/
def resumeMatrix (start ctr : Nat) : List MLanding → List MLanding
  | [] => []
  | l :: t =>
    if l.run = .stopped then
      { l with run := .on, issued := start, due := start + 1 + Config.freeNat ctr % (24 + 128 * l.frames.length) }
        :: resumeMatrix (start + 128 * l.frames.length) (ctr + 1) t
    else l :: resumeMatrix start (ctr + 1) t

/-- The MMAs of the acting slot that stopped go on (R92, R236). -/
def State.runMmas (s : State) : State :=
  { s with
    freeCtr := s.freeCtr + s.cur.mfly.length
    cur := { s.cur with mfly := resumeMatrix s.cycle s.freeCtr s.cur.mfly } }

/-- The MMAs of the acting slot go on when its matrix stream runs again (R92, R236). -/
def State.resumeMmas (s : State) : State := if s.cur.running .matrix then s.runMmas else s

/-- Halts every stream that has not ended: STOPALL, or a fault sent to Corelo (R236, R238). -/
def Slot.haltAll (t : Slot) : Slot :=
  allStreams.foldl (fun t e => let x := t.str e
    if x.ended then t else t.setStr e { x with halted := true }) t

/-- Every stream stops at its next instruction boundary and MMAs at their next K-step (R92, R236). -/
def State.haltAll (s : State) : State := s.upd fun t => t.haltAll.stopMmas s.cycle

/-- The scalar stream enters the handler at TVEC: the CSRs, ih, the frozen loops and the diverted address in one update
(R236 step 3, R237). -/
def Slot.divertTo (t : Slot) (cause : BitVec 8) (detail : BitVec 16) (e : BitVec 2) (fpc : Word) (finsn : Word32)
    (addr : Word) (handled : Option Stream) : Slot :=
  { t with
    fcause := detail ++ cause, fstream := e, fpc := fpc, finsn := finsn, faddr := addr, ih := true,
    handled := handled, divert := pcWord t.scalar.pc, waiting := .none,
    scalar := { t.scalar with
      loops := t.scalar.loops.map fun l => if l.active then { l with frozen := true } else l,
      halted := false, heldRead := none, pc := toPc t.tvec } }

/-- A stream that has stopped has landed what it issued before: an interlocked scalar instruction, vector results whole,
matrix results but for MMAs that stand at a K-step boundary (R92, R96, R236). -/
def Slot.settled (t : Slot) : Stream → Bool
  | .scalar => !t.locked && t.scop.isNone
  | .vector => t.vfly.isEmpty
  | .matrix => t.mfly.all fun l => decide (l.run = .stopped)
  | .copy => true

/-- Every stream that a fault or STOPALL has stopped is settled (R236 step 1). -/
def Slot.settledAll (t : Slot) : Bool := allStreams.all fun e => !((t.str e).stopped || (t.str e).halted) || t.settled e

/-- The handler can be entered: a bound thread that Corelo does not hold, ih clear, a handler address, a scalar stream that
has not ended and is not interlocked (R29, R236, R238, R242). -/
def Slot.canEnter (t : Slot) : Bool :=
  !t.ih && decide (t.tvec ≠ 0) && !t.scalar.ended && t.scop.isNone && !t.locked && decide (t.status = .bound) && t.corelo.isNone

/-- The pending faults of a thread, in the order of its streams (R29). -/
def Slot.pendings (t : Slot) : List (Stream × PendFault) := allStreams.filterMap fun e => (t.str e).pending.map fun p => (e, p)

/-- The pending fault of the lowest-numbered stream (R29). -/
def Slot.nextPending (t : Slot) : Option (Stream × PendFault) := t.pendings.head?

/-- Under STOPALL a fault that will enter the handler stops every other running stream (R236 step 1). -/
def State.stopOthers (s : State) : State := if s.launchFlag 5 then s.haltAll else s

/-- Handler entry for the pending fault of the lowest-numbered stream, when it may be taken (R236). -/
def State.enterHandler (s : State) : State :=
  let t := s.cur
  match t.nextPending with
  | some (e, p) =>
    if t.canEnter && t.settledAll then
      let t := t.setStr e { t.str e with pending := none }
      { s with cur := t.divertTo p.flt.cause p.flt.detail (BitVec.ofNat 2 e.num) p.fpc p.finsn p.flt.addr (some e) }
    else s
  | none => s

/-- Asynchronous handler entry for the oldest waiting record, when no stopping fault is pending (R237). -/
def State.enterAsync (s : State) : State :=
  let t := s.cur
  match t.asyncPend with
  | [] => s
  | a :: rest =>
    if t.canEnter && t.nextPending.isNone then
      { s with cur := { t with asyncPend := rest }.divertTo a.cause a.detail a.stream a.fpc a.finsn a.addr none }
    else s

/-- A stopping fault that goes to Corelo: all four streams stop and a FAULT record is sent (R238). The host receives it
too unless the route names Corelo alone. -/
def State.coreloFault (s : State) (e : Stream) (p : PendFault) (mayResume host : Bool) : State :=
  (s.haltAll.upd fun t => { t with corelo := some { cause := p.flt.cause, mayResume := mayResume, stream := e, fpc := p.fpc } }).toCorelo
    s.cur.bind.job (faultRecord s.cur.key.agent p.fpc p.flt.addr p.flt.cause p.flt.detail e.num) host

/-- The class of a stopping fault: mcheck for F_HORIZON and a precise F_ECC, instr otherwise (R232). -/
def faultClass (cause : BitVec 8) : Nat := if cause = 0x14 ∨ cause = 0x11 then 5 else 0

/-- Where a stopping fault of a stream goes (R29, R236, R238): to the handler, or to Corelo as a double fault, by its
route, or because no handler can be entered. -/
inductive FaultWay | handler | double | routed (host : Bool) | noHandler
deriving DecidableEq, Repr

def State.faultWay (s : State) (e : Stream) (p : PendFault) : FaultWay :=
  let dest := s.route (faultClass p.flt.cause)
  if e = .scalar ∧ s.cur.ih then .double
  else if dest = 3 ∨ dest = 4 then .routed (dest = 4)
  else if !s.cur.ih && (decide (s.cur.tvec = 0) || s.cur.scalar.ended) then .noHandler
  else .handler

/-- A stopping fault whose way is not the handler goes to Corelo; a double fault is audited (R29, R238, R384). -/
def State.faultToCorelo (s : State) (e : Stream) (p : PendFault) : State :=
  match s.faultWay e p with
  | .handler => s
  | .double => (s.coreloFault e p false true).audit 5 s.cur.key.agent (bytesOf 8 p.fpc.toNat)
  | .routed host => s.coreloFault e p true host
  | .noHandler => s.coreloFault e p false true

/-- A pending fault of the acting thread goes to Corelo (R238). -/
def State.coreloDue (s : State) : Bool := s.cur.pendings.any fun x => decide (s.faultWay x.1 x.2 ≠ .handler)

/-- The first pending fault that goes to Corelo: all four streams stop, and the record is sent once what they issued before
has landed (R92, R238). -/
def State.coreloPending (s : State) : State :=
  match s.cur.pendings.find? fun x => decide (s.faultWay x.1 x.2 ≠ .handler) with
  | none => s
  | some (e, p) =>
    let s := s.haltAll
    if s.cur.status = .bound ∧ s.cur.corelo = none ∧ s.cur.settledAll then
      (s.updStr e fun x => { x with pending := none }).faultToCorelo e p
    else s

/-- The faulting stream stops: an interlocked scalar instruction ends without effect, MMAs stop at their next K-step
(R92, R236). -/
def State.stopStream (s : State) (e : Stream) : State :=
  let s := s.updStr e fun x => { x with stopped := true }
  match e with
  | .scalar => s.upd fun t => { t with heldOn := none, locked := false, fenceAt := none }
  | .matrix => s.upd fun t => t.stopMmas s.cycle
  | _ => s

/-- What follows for the pending faults of the acting thread: to Corelo, held while the handler runs, or into the handler, under
STOPALL once every other stream has stopped (R29, R236, R238). -/
def State.takeFault (s : State) : State :=
  if s.coreloDue then s.coreloPending
  else if s.cur.ih ∨ s.cur.nextPending = none ∨ s.cur.status ≠ .bound ∨ s.cur.corelo.isSome then s
  else s.stopOthers.enterHandler

/-- TAKING AN EXCEPTION: a stopping fault of a stream of the acting thread at its present word (R29, R236, R238, R242). The
stream stops and the fault is held with it. One of the scalar stream, the lowest-numbered, enters the handler at once where it
can; DEDUCED: any other, one that goes to Corelo, and one that stops the other streams with it is taken by HANDLER_ENTRY or
FAULT_TO_CORELO of the next cycle, so that every instruction of the cycle has issued (log 7); one held for ih waits for ERET
whatever TVEC then holds (log 92). While the thread is being saved, or Corelo holds it, the fault stays with its stream. -/
def State.raiseAt (s : State) (e : Stream) (p : PendFault) : State :=
  let s := (s.stopStream e).updStr e fun x => { x with pending := some p }
  if e = .scalar ∧ s.faultWay e p = .handler ∧ s.launchFlag 5 = false then s.enterHandler else s

/-- A stopping fault at the word the stream has issued (R77). -/
def State.raise (s : State) (e : Stream) (f : SFault) : State :=
  s.raiseAt e { flt := f, fpc := pcWord (s.cur.str e).pc, finsn := s.insn }

/-- A stream that a return resumes: it runs again unless a fault of its own is pending (R29, R138). -/
def StreamState.resume (x : StreamState) : StreamState :=
  if x.pending.isSome then x else { x with stopped := false, halted := false }

/-- THE RETURN FROM AN EXCEPTION (R138, R237): ih clears, loops the handler left active end and frozen loops go on, the
stream FSTREAM names resumes at FPC, every stream the handled fault stopped resumes, and the scalar stream, when it
was not the faulting one, resumes where entry diverted it. -/
def Slot.returnFrom (t : Slot) : Slot :=
  let loops := t.scalar.loops.map fun l => if l.active && !l.frozen then LoopLevel.off else { l with frozen := false }
  let buf := match t.scalar.buf with
    | some b => (match t.scalar.loops[b.level]? with
      | some l => if l.active && !l.frozen then none else some b
      | none => some b)
    | none => none
  let t := { t with ih := false, scalar := { t.scalar with loops := loops, buf := buf } }
  match t.handled with
  | none => { t with scalar := { t.scalar with pc := toPc t.divert } }
  | some e =>
    let t := { t with handled := none }
    let t := if e = .scalar then t else { t with scalar := { t.scalar with pc := toPc t.divert } }
    let t := allStreams.foldl (fun t e => t.setStr e (t.str e).resume) t
    let n : Stream := match t.fstream with | 0#2 => .scalar | 1#2 => .vector | 2#2 => .matrix | _ => .copy
    t.setStr n { t.str n with pc := toPc t.fpc }

/-- After a return the MMAs of a matrix stream that runs again go on, and a stopping fault held while the handler ran enters
it again (R29, R236); asynchronous entries follow by ASYNC_HANDLER_ENTRY (R237). -/
def State.afterReturn (s : State) : State :=
  s.resumeMmas.takeFault

/-! ### Posting records (R134, R234) -/

/-- An operation of the slot's thread by its number. -/
def Slot.opId (t : Slot) (n : Nat) : OpId := { launch := t.bind.launch, lin := t.bind.lin, op := n }

/-- An operation leaves the thread that issued it. -/
def Slot.dropOp (t : Slot) (o : OpId) : Slot :=
  if t.opId o.op = o then { t with copies := t.copies.filter fun x => x.id ≠ o.op } else t

/-- A copy operation is complete: nothing of it is left (R213). -/
def State.finishOp (s : State) (o : Option OpId) : State :=
  match o with
  | none => s
  | some o => { s with
      cur := s.cur.dropOp o
      others := s.others.map fun t => t.dropOp o
      images := s.images.map fun i => { i with ctx := i.ctx.dropOp o } }

/-- A record enters the acting thread's ring: the operation it reports is complete, and the asynchronous handler entry
that goes with it waits its turn (R134, R237). -/
def State.ringEnter (s : State) (w : WaitRecord) : State :=
  let s := (s.ringPut w.rcd).finishOp w.op
  s.upd fun t => { t with
    ringBufs := t.ringBufs ++ [w.bufs]
    asyncPend := match w.async with | some a => t.asyncPend ++ [a] | none => t.asyncPend }

/-- A record for the acting thread's ring: into the ring when it has room and none waits, else behind those that
wait. -/
def State.post (s : State) (w : WaitRecord) : State :=
  if s.cur.waitRecs.isEmpty && decide (s.cur.cqCount < Config.ringSize) then s.ringEnter w
  else s.upd fun t => { t with waitRecs := t.waitRecs ++ [w] }

/-- The oldest waiting record enters the ring when it has room (R134). -/
def State.postWaiting (s : State) : State :=
  match s.cur.waitRecs with
  | [] => s
  | w :: rest =>
    if s.cur.cqCount < Config.ringSize then (s.upd fun t => { t with waitRecs := rest }).ringEnter w else s

/-- The scalar stream of the acting thread has ended: the routed records that wait for its ring go to Corelo (R234). -/
def State.flushRouted (s : State) : State :=
  if s.cur.scalar.ended then
    (s.cur.waitRecs.filter fun w => w.routed).foldl (fun s w => (s.finishOp w.op).toCorelo s.cur.bind.job w.rcd true)
      (s.upd fun t => { t with waitRecs := t.waitRecs.filter fun w => !w.routed })
  else s

/-- A waiting record that goes with the thread of a slot when it leaves: of its own operations and MMAs (R248). -/
def Slot.ownRecord (t : Slot) (w : WaitRecord) : Bool :=
  (w.op.elim false fun o => decide (o.launch = t.bind.launch) && decide (o.lin = t.bind.lin)) || decide (w.mma = some (t.bind.launch, t.bind.lin))

/-- The thread of a context leaves for good: the records of others that wait for its ring go to Corelo, and the operations that they
report are complete (R234). -/
def State.passRecords (s : State) (t : Slot) : State :=
  (t.waitRecs.filter fun w => !t.ownRecord w).foldl (fun s w => (s.finishOp w.op).toCorelo t.bind.job w.rcd true) s

/-! ### Outcomes -/

/-- The outcome type of the machine. -/
abbrev Res := Host.Outcome State Fault Refusal

/-- A check of the machine: a value or a synchronous fault. -/
abbrev Chk (α : Type) := Except SFault α

/-- A fault of a cause (R28). -/
def flt (cause : BitVec 8) (detail : Nat) (addr : Word) : SFault :=
  { cause := cause, detail := BitVec.ofNat 16 detail, addr := addr }

def fIllegal (detail : Nat) : SFault := flt 0x01 detail 0

/-- The outcome of an instruction of stream e: the next state, or the fault taken with nothing else changed (R235). -/
def outcome (e : Stream) (s : State) (r : Chk State) : Res :=
  match r with
  | .ok s' => .next s'
  | .error f => .next (s.raise e f)

end Sys2Proof.Machine
end

