-- ==== Sys2Proof/Machine/Translate.lean ====
section
/-! DEFINITION. Translation (R294–R300), token regions (R267, R274), circuits that serve an access (R342) and the
checks of an access (R101–R103). -/

namespace Sys2Proof.Machine

/-! ### Page walks -/

/-- What a page-table entry says (R295). -/
structure Pte where
  v : Bool
  lf : Bool
  r : Bool
  w : Bool
  x : Bool
  ord : Nat
  loc : Bool
  raw : Word
deriving DecidableEq, Repr

def pteOf (p : Word) : Pte :=
  { v := p.getLsbD 0, lf := p.getLsbD 1, r := p.getLsbD 2, w := p.getLsbD 3, x := p.getLsbD 4,
    ord := wbits p 5 2, loc := p.getLsbD 8, raw := p }

/-- The top 64 MiB of a stack, reserved to the device (R293). -/
def reservedBase : Nat := 0xFFC000000

/-- An entry at a level of the walk is refused: it raises F_XLATE with the level (R296). -/
def pteBad (p : Pte) (level : Nat) : Bool :=
  !p.v || (decide (level ≤ 2) && p.lf) || (decide (level = 4) && !p.lf) || decide (p.ord = 3) || (p.w && p.x)
    || (p.loc && (p.w || !p.lf)) || decide (wbits p.raw 9 3 ≠ 0) || decide (wbits p.raw 48 16 ≠ 0)
    || (p.lf && decide (wbits p.raw 12 4 ≠ 0))
    || decide (wbits p.raw 36 7 ≠ 0)
    || (p.lf && decide (wbits p.raw 12 24 * 4096 ≥ reservedBase))
    || (p.lf && decide (level = 3) && decide (wbits p.raw 16 9 ≠ 0))

/-- Why a walk gives no leaf: an entry that R296 refuses, at its level, or an uncorrectable error where it reads, with its level
(R235, R292). -/
inductive WalkErr
  | entry (level : Nat)
  | ecc (level : Nat)
deriving DecidableEq, Repr

/-- The fault that an access takes from a walk (R292, R296). -/
def walkFault (e : WalkErr) (va : Nat) : SFault :=
  match e with
  | .entry l => flt 0x03 l (BitVec.ofNat 64 va)
  | .ecc l => flt 0x11 l (BitVec.ofNat 64 va)

/-- The walk from a table of a level: the leaf entry and the page's size, or why there is none. Tables are read in the copy of the
walking die (R297). -/
def walkFrom (m : List Host.Cell) (bad : List (Nat × Nat)) (die va : Nat) : Nat → Nat → Nat → Except WalkErr (Pte × Nat)
  | 0, _, _ => .error (.entry 4)
  | fuel + 1, level, table =>
    let at_ := die * 2 ^ 43 + table + 8 * (va / 2 ^ (52 - 9 * level) % 512)
    let p := pteOf (BitVec.ofNat 64 (memNat m at_ 8))
    match eccIn bad at_ 8 with
    | some (_, l) => .error (.ecc l)
    | none =>
      if pteBad p level then .error (.entry level)
      else if p.lf then .ok (p, if level = 3 then 25 else 16)
      else walkFrom m bad die va fuel (level + 1) (wbits p.raw 12 24 * 4096)

def findJob (js : List Job) (id : Nat) : Option Job := js.find? fun j => j.id = id

/-- The job of the acting thread. -/
def State.job? (s : State) : Option Job := findJob s.jobs s.cur.bind.job

/-- The TLB entry of a core for an address (R299). -/
def tlbFind (ts : List TlbEntry) (job va : Nat) : Option TlbEntry :=
  ts.find? fun e => decide (e.job = job) && decide (va / 2 ^ e.log2 = e.base)

/-- The leaf that maps an address of the page range for a job on a die of core g: from the core's TLB, else by a walk
(R294–R299). -/
def State.leafFor (s : State) (g : CoreId) (job va : Nat) : Except WalkErr (Pte × Nat) :=
  match tlbFind (s.core g).tlb job va with
  | some e => .ok (pteOf e.pte, e.log2)
  | none =>
    match findJob s.jobs job with
    | none => .error (.entry 1)
    | some j => walkFrom s.mem s.bad (dieOf g) va 4 1 j.root

/-- The physical address a leaf gives, on the accessing die for a replicated page (R295, R298). -/
def leafPa (p : Pte) (log2 va die : Nat) : Nat :=
  let off := wbits p.raw 0 36 / 2 ^ log2 * 2 ^ log2 + va % 2 ^ log2
  (if p.loc then die else wbits p.raw 43 5) * 2 ^ 43 + off

/-- The home die of a physical address (R293). -/
def homeDie (pa : Nat) : Nat := pa / 2 ^ 43 % 32

/-- A translated address of the page range. -/
structure Mapped where
  pa : Nat
  pte : Pte
  kind : PageKind
deriving DecidableEq, Repr

def pageKind (ord : Nat) : PageKind := match ord with | 0 => .strong | 1 => .release | _ => .unordered

/-- Translation of an address of the page range (R292, R296): F_XLATE with the level, F_ECC where the walk reads an uncorrectable
word, or F_PROTECT for a frame outside the job's partition. -/
def State.translate (s : State) (g : CoreId) (job : Nat) (va : Nat) : Chk Mapped :=
  match s.leafFor g job va with
  | .error e => .error (walkFault e va)
  | .ok (p, log2) =>
    let pa := leafPa p log2 va (dieOf g)
    if !p.loc && !((findJob s.jobs job).elim false fun j => j.dies.contains (homeDie pa)) then
      .error (flt 0x04 2 (BitVec.ofNat 64 va))
    else .ok { pa := pa, pte := p, kind := pageKind p.ord }

/-! ### Token regions -/

/-- The entry of a job whose region covers an address (R267). -/
def findRegion (es : List Entry) (job va : Nat) : Option Entry :=
  es.find? fun e => decide (e.job = job) && decide (e.base ≤ va) && decide (va < e.base + 2 ^ e.log2)

/-- The entry of exactly a base and size. -/
def findEntry (es : List Entry) (job base log2 : Nat) : Option Entry :=
  es.find? fun e => decide (e.job = job) && decide (e.base = base) && decide (e.log2 = log2)

/-- An entry replaced by another of its base and size. -/
def putEntry (es : List Entry) (e : Entry) : List Entry :=
  es.map fun x => if x.job = e.job ∧ x.base = e.base ∧ x.log2 = e.log2 then e else x

/-- An agent's shares of a region (R268). -/
def Entry.sharesOf (e : Entry) (a : AgentId) : Nat := (e.shares.find? fun x => x.1 = a).elim 0 Prod.snd

/-- The share count of a region: the sum of its records (R268). -/
def Entry.shareCount (e : Entry) : Nat := e.shares.foldl (fun n x => n + x.2) 0

/-- The launch of the thread that an agent identifier or a suspension mark names (R269). -/
def State.launchOf (s : State) (a : AgentId) : Option Nat :=
  let t := s.slotAt (agentSlot a)
  if agentKind a = 1 ∧ t.holds then some t.bind.launch
  else if agentKind a = 15 then (s.images.find? fun i => i.num % 2 ^ 28 = a.toNat % 2 ^ 28).map fun i => i.launch
  else none

/-- The window of an entry admits an agent of the entry's job (R124). -/
def State.admits (s : State) (e : Entry) (a : AgentId) : Bool :=
  let k := agentSlot a
  let o := agentSlot e.owner
  let thr := decide (agentKind a = 1)
  !e.closing && match wbits e.writers 0 4 with
  | 0 => decide (e.writers.toNat / 2 ^ 32 = a.toNat)
  | 1 => thr && decide (agentKind e.owner = 1) && decide (k.core = o.core)
  | 2 => thr && decide (agentKind e.owner = 1) && decide (clusterOf k.core = clusterOf o.core)
  | 3 => thr && decide (agentKind e.owner = 1) && decide (dieOf k.core = dieOf o.core)
  | 4 => thr && decide ((s.launchOf a).isSome ∧ s.launchOf a = s.launchOf e.owner)
  | 5 => decide (agentKind a = 2)
  | 6 => decide (agentKind a = 3)
  | _ => false

/-- Kinds of access (R101). -/
inductive AccKind | load | store | rmw
deriving DecidableEq, Repr

/-- An address of a pair's shadow view: its upper half (R141). -/
def Entry.shadow (e : Entry) (va : Nat) : Bool := e.paired && decide (e.base + 2 ^ (e.log2 - 1) ≤ va)

/-- The address whose bytes stand behind a view: the halves change places while the pair bit is set (R141). -/
def Entry.behind (e : Entry) (va : Nat) : Nat :=
  if e.pair then
    (if va < e.base + 2 ^ (e.log2 - 1) then va + 2 ^ (e.log2 - 1) else va - 2 ^ (e.log2 - 1))
  else va

/-- The token check of an access by an agent (R103, R121, R141): allowed, and whether it is a put; or the fault.
`scLoad` marks LD.SC, which an admitted writer may make. -/
def State.tokenCheck (s : State) (e : Entry) (a : AgentId) (va : Nat) (kind : AccKind) (scLoad : Bool) : Except (Nat × Nat) Bool :=
  let owner := decide (e.owner = a)
  let shadow := e.shadow va
  let sharer := decide (e.sharesOf a ≠ 0) && !shadow
  let adm := s.admits e a
  if e.st = .lost ∨ s.deadDies.contains e.die.toNat then .error (0x07, 0)
  else match e.st, kind with
    | .window, .load =>
      if owner then .ok false else if adm && scLoad then .ok false else .error (0x05, 0)
    | .window, _ => if adm then .ok true else .error (0x13, 0)
    | .shared, .load => if owner || sharer then .ok false else .error (0x05, 0)
    | .shared, _ =>
      if owner then (if shadow then .ok false else .error (0x06, e.shareCount)) else .error (0x05, 0)
    | _, _ => if owner then .ok false else .error (0x05, 0)

/-! ### Circuits that serve an access (R342) -/

/-- The lowest-numbered circuit, of those a test takes. -/
def pickCircuit (cs : List Circuit) (ok : Circuit → Bool) : Option Circuit :=
  cs.foldl (fun b c => if ok c then (match b with | none => some c | some x => if c.ch < x.ch then some c else some x) else b) none

/-- A circuit joins two dies in either direction and is not multicast. -/
def Circuit.joins (c : Circuit) (a b : Nat) : Bool :=
  !c.multicast && ((decide (c.src.num = a) && c.dsts.any fun d => d.num = b) || (decide (c.src.num = b) && c.dsts.any fun d => d.num = a))

/-- A circuit carries bytes from one die to another and is not multicast. -/
def Circuit.carries (c : Circuit) (a b : Nat) : Bool :=
  !c.multicast && decide (c.src.num = a) && c.dsts.any fun d => d.num = b

def Circuit.isLive (c : Circuit) : Bool := match c.st with | .live => true | _ => false

/-- CIRQ [2]: the circuit has faulted and is being re-routed (R341). -/
def Circuit.isFaulted (c : Circuit) : Bool := match c.st with | .faulted .. => true | .resettling _ => true | _ => false

/-- The handle that a circuit-program entry establishes. -/
def ProgEntry.establishes (e : ProgEntry) : Option Nat := match e.op with | .establish ch .. => some ch | _ => none

/-- The first handle that a launch's circuit program names, in the detail of F_NOCIRC, or 0 (R342). -/
def firstHandle (l : Option Launch) : Nat := (l.elim none fun l => l.prog.findSome? ProgEntry.establishes).getD 0

/-- What a scalar access between two dies finds (R342): the circuit that carries it, if it needs one; a faulted circuit on
which it is held; or none. -/
inductive Path | open_ (ch : Option Nat) | held (ch : Nat) | none_ (detail : Nat)
deriving DecidableEq, Repr

/-- The circuits of the acting thread's launch. -/
def State.circuits (s : State) : List Circuit := s.launch?.elim [] fun l => l.circuits

/-- The path over the circuit that a request was given: it waits while the circuit is re-routed, and fails with detail 3
once it is torn down (R342, R349). -/
def State.pathOn (s : State) (own home ch : Nat) : Path :=
  match s.circuits.find? fun c => decide (c.ch = ch) && c.joins own home with
  | none => .none_ (3 + ch * 256)
  | some c => if c.isLive then .open_ (some ch) else .held ch

/-- The path of a scalar access of the acting thread at an address, to a home die: one that has been sent or is held keeps its
circuit, and fails once that has been torn down (R342, R349). -/
def State.scalarPath (s : State) (va : Word) (home : Nat) : Path :=
  let own := dieOf s.cur.key.core
  if home = own then .open_ none
  else match s.cur.heldOn.filter fun r => decide (r.va = va) with
  | some r => if r.gone then .none_ (3 + r.ch * 256) else s.pathOn own home r.ch
  | none =>
    match pickCircuit s.circuits fun c => c.joins own home && c.isLive with
    | some c => .open_ (some c.ch)
    | none => match pickCircuit s.circuits fun c => c.joins own home && c.isFaulted with
      | some c => .held c.ch
      | none => .none_ (firstHandle s.launch? * 256)

/-! ### The checks of an access (R101–R103) -/

/-- An access that has passed its checks: the home key of its first byte, its page kind, whether a window counts it, its
home die, the circuit on which it is held, if any, the one that carries it, and its address. -/
structure Access where
  key : Nat
  kind : PageKind
  put : Bool
  home : Nat
  held : Option Nat
  ch : Option Nat := none
  va : Word := 0
deriving DecidableEq, Repr

/-- The request that an access makes of a circuit (R342). -/
def Access.request (a : Access) : Option HeldReq := a.ch.map fun ch => { ch := ch, va := a.va, gone := false }

/-- The last step of a check: the circuit to the home die. -/
def State.viaCircuit (s : State) (va : Word) (a : Access) : Chk Access :=
  match s.scalarPath va a.home with
  | .open_ ch => .ok { a with ch := ch, va := va }
  | .held ch => .ok { a with held := some ch, ch := some ch, va := va }
  | .none_ d => .error (flt 0x0D d va)

/-- The window rules (R33, R102), for an address of the scratchpad windows, the circuit aside. -/
def State.windowAdmit (s : State) (va : Word) (size : Nat) (kind : AccKind) (sc : Bool) : Chk Access :=
  let t := s.cur
  let a := va.toNat
  let me := t.key.agent
  let g := windowCore a
  let done (e : Entry) (put : Bool) : Chk Access :=
    .ok { key := e.behind a, kind := .release, put := put, home := dieOf g, held := none }
  let byToken (e : Entry) : Chk Access :=
    match s.tokenCheck e me a kind false with
    | .ok put => done e put
    | .error (c, d) => .error (flt (BitVec.ofNat 8 c) d va)
  let entry := findRegion s.tokens t.bind.job a
  if sc then .error (flt 0x04 1 va)
  else if g = t.key.core then
    if t.inHalves (windowOff a) then
      if kind ≠ .load ∧ a < t.ringBase + 2048 ∧ t.ringBase < a + size then .error (flt 0x04 3 va)
      else match entry with
        | some e => byToken e
        | none => .error (flt 0x05 0 va)
    else match entry with
      | none => .error (flt 0x04 1 va)
      | some e => byToken e
  else if kind = .load then .error (flt 0x04 1 va)
  else match entry with
    | none => .error (flt 0x13 0 va)
    | some e =>
      if e.st = .lost ∨ s.deadDies.contains e.die.toNat then .error (flt 0x07 0 va)
      else if e.st = .window ∧ s.admits e me then done e true
      else .error (flt 0x13 0 va)

/-- The checks on a scalar access to the scratchpad windows: the window rules, then the circuit (R101, R102). -/
def State.windowCheck (s : State) (va : Word) (size : Nat) (kind : AccKind) (sc : Bool) : Chk Access :=
  match s.windowAdmit va size kind sc with
  | .error f => .error f
  | .ok a => s.viaCircuit va a

/-- Translation, permissions and tokens of an access by the acting thread to the page range (R101). -/
def State.pageAdmit (s : State) (va : Word) (kind : AccKind) (sc : Bool) : Chk Access :=
  let t := s.cur
  let a := va.toNat
  match s.translate t.key.core t.bind.job a with
  | .error f => .error f
  | .ok m =>
    if kind ≠ .store ∧ !m.pte.r then .error (flt 0x04 0 va)
    else if kind ≠ .load ∧ !m.pte.w then .error (flt 0x04 0 va)
    else if m.pte.w then
      match findRegion s.tokens t.bind.job a with
      | none => .error (flt 0x05 0 va)
      | some e =>
        match s.tokenCheck e t.key.agent a kind sc with
        | .error (c, d) => .error (flt (BitVec.ofNat 8 c) d va)
        | .ok put =>
          if e.behind a = a then .ok { key := m.pa, kind := m.kind, put := put, home := homeDie m.pa, held := none }
          else match s.translate t.key.core t.bind.job (e.behind a) with
            | .error f => .error { f with addr := va }
            | .ok m' => .ok { key := m'.pa, kind := m.kind, put := put, home := homeDie m'.pa, held := none }
    else .ok { key := m.pa, kind := m.kind, put := false, home := homeDie m.pa, held := none }

/-- The checks on a scalar access to the page range: translation, permissions, token, circuit (R101). -/
def State.pageCheck (s : State) (va : Word) (kind : AccKind) (sc : Bool) : Chk Access :=
  match s.pageAdmit va kind sc with
  | .error f => .error f
  | .ok a => s.viaCircuit va a

/-- An address lies in no assigned range of the map (R32). -/
def unassigned (a : Nat) : Bool := !inPages a && !(inWindows a && decide (windowOff a < 0x1800000))

/-- The checks on every scalar access, in their order (R101). `sc` marks a SCOP. -/
def State.check (s : State) (va : Word) (size align : Nat) (kind : AccKind) (sc : Bool) : Chk Access :=
  if va.toNat % align ≠ 0 then .error (flt 0x02 0 va)
  else if va.toNat / 2 ^ 52 ≠ 0 ∨ unassigned va.toNat then .error (flt 0x03 0 va)
  else if inPages va.toNat then s.pageCheck va kind sc
  else s.windowCheck va size kind sc

/-- A check of an access whose size is its alignment. -/
def State.check1 (s : State) (va : Word) (size : Nat) (kind : AccKind) : Chk Access := s.check va size size kind false

end Sys2Proof.Machine
end

