-- ==== Sys2Proof/Machine/Access.lean ====
section
/-! DEFINITION. Performing accesses at their homes (R104, R253), the store buffer and the order it keeps (R107), the
monitor of MWAIT (R127), releases and acquires (R262). -/

namespace Sys2Proof.Machine

/-! ### Performing a write -/

/-- A write of cells wakes a slot whose monitored 64-byte line it touches (R127). -/
def Slot.wake (t : Slot) (cells : List (Nat × Byte)) : Slot :=
  match t.waiting with
  | .monitor l .. => if cells.any fun c => decide (c.1 / 64 = l) then { t with waiting := .woken } else t
  | _ => t

def State.wakeAll (s : State) (cells : List (Nat × Byte)) : State :=
  { s with cur := s.cur.wake cells, others := s.others.map fun t => t.wake cells }

/-- A window counts bytes (R103, R125). -/
def State.countPut (s : State) (job va n : Nat) : State :=
  if n = 0 then s
  else match findRegion s.tokens job va with
    | some e => if e.st = .window then { s with tokens := putEntry s.tokens { e with counter := e.counter + BitVec.ofNat 64 n } } else s
    | none => s

/-- The scratchpad granules that a write dirties, in the slots that hold them (R246). -/
def State.dirtyCells (s : State) (cells : List (Nat × Byte)) : State :=
  match cells with
  | [] => s
  | c :: _ =>
    if inWindows c.1 then
      let g := windowCore c.1
      let mark (t : Slot) : Slot :=
        if t.key.core = g then cells.foldl (fun t c => t.markDirty (windowOff c.1)) t else t
      { s with cur := mark s.cur, others := s.others.map mark }
    else s

/-- A write of a thread of core g is performed at its home: unless its region is LOST, the bytes stand in memory, the
window counts them, monitors wake, and the given L1 lines are dropped from the L1 that serves the core (R104, R105, R127). -/
def State.performAt (s : State) (job : Nat) (g : CoreId) (va : Word) (cells : List (Nat × Byte)) (count : Nat)
    (lines : List Nat) : State :=
  if (findRegion s.tokens job va.toNat).elim false fun e => decide (e.st = .lost) then s
  else (((s.store cells).countPut job va.toNat count).wakeAll cells).dirtyCells cells |>.l1Drop g job lines

/-- A write of bytes that stand side by side is performed. -/
def State.perform (s : State) (job : Nat) (g : CoreId) (va : Word) (cells : List (Nat × Byte)) (count : Nat) : State :=
  s.performAt job g va cells count (linesOf va.toNat cells.length)

/-! ### The store buffer -/

/-- A pending store writes one of n bytes from a key up. -/
def PendStore.touches (p : PendStore) (a n : Nat) : Bool := p.bytes.any fun c => decide (a ≤ c.1) && decide (c.1 < a + n)

/-- A pending store writes into a region: the bytes of one never cross a 64 KiB boundary. -/
def PendStore.inRange (p : PendStore) (base size : Nat) : Bool :=
  decide (base ≤ p.va.toNat) && decide (p.va.toNat < base + size)

def pendTouches (ss : List PendStore) (a n : Nat) : Bool := ss.any fun p => p.touches a n

/-- A pending store on a STRONG page. -/
def pendStrong (ss : List PendStore) : Bool := ss.any fun p => decide (p.kind = .strong)

/-- A pending store that ordering instructions order: every kind, or all but UNORDERED (R107). -/
def pendOrdered (ss : List PendStore) (all : Bool) : Bool := ss.any fun p => all || decide (p.kind ≠ .unordered)

/-- A store may be performed before none of the earlier pending ones: same bytes, STRONG after STRONG, a release after
every ordered store (R104, R107). -/
def PendStore.mayGo (p : PendStore) (earlier : List PendStore) : Bool :=
  earlier.all fun q =>
    !(q.bytes.any fun c => p.bytes.any fun d => decide (c.1 = d.1))
      && !(decide (p.kind = .strong) && decide (q.kind = .strong))
      && !(p.rel && decide (p.kind ≠ .unordered) && decide (q.kind ≠ .unordered))

/-- The die of a home key. -/
def homeOfKey (k : Nat) : Nat := if inWindows k then dieOf (windowCore k) else homeDie k

/-- The circuit that carries a store of the acting thread to its home: the lowest live one that a test takes, when the
home is another die (R342). -/
def State.storeCircuit (s : State) (key : Nat) (ok : Circuit → Bool) : Option Nat :=
  if homeOfKey key = dieOf s.cur.key.core then none
  else (pickCircuit s.circuits fun c => ok c && c.isLive).map fun c => c.ch

/-- A core's array streams the operands of an MMA from both bank groups (R184). DESIGN CHOICE: one that stands at a K-step boundary
streams nothing, so its bank groups are free until it goes on (log 120). -/
def State.streaming (s : State) (g : CoreId) : Bool :=
  s.slots.any fun t => decide (t.key.core = g) && t.mfly.any fun l =>
    !l.frames.isEmpty && decide (l.run ≠ .stopped) && decide (s.cycle < l.issued + 128 * l.frames.length)

/-- A home key lies in a scratchpad whose banks an MMA is streaming: the access waits (R184). -/
def State.banksHeld (s : State) (key : Nat) : Bool := inWindows key && s.streaming (windowCore key)

/-- A store of the acting thread has a way to its home: its circuit is live, if it needs one (R342). -/
def State.storeOpen (s : State) (p : PendStore) : Bool :=
  match p.ch with
  | none => true
  | some ch => s.circuits.any fun c => decide (c.ch = ch) && c.isLive

/-- A completed store of the acting thread may reach its home: the way is open, and no MMA streams from the banks it writes
(R184, R342). -/
def State.storeLive (s : State) (p : PendStore) : Bool := s.storeOpen p && !s.banksHeld (p.bytes.headD (0, 0)).1

/-- A completed store joins the buffer, with the circuit that carries it; it is performed at a later cycle that the manual leaves open (R104). -/
def State.pushStore (s : State) (va : Word) (cells : List (Nat × Byte)) (kind : PageKind) (rel : Bool) (count : Nat) (ch : Option Nat) : State :=
  let due := s.cycle + 1 + Config.freeNat s.freeCtr
  { s with
    freeCtr := s.freeCtr + 1
    cur := { s.cur with stores := s.cur.stores ++ [{ va := va, bytes := cells, lines := linesOf va.toNat cells.length, kind := kind,
                                                      rel := rel, count := count, due := due, ch := ch }] } }

/-- The n-th pending store of the acting thread is performed, if the order lets it go. -/
def State.performNth (s : State) (n : Nat) : State :=
  match s.cur.stores[n]? with
  | none => s
  | some p =>
    if p.mayGo (s.cur.stores.take n) && s.storeLive p then
      let s := s.upd fun t => { t with stores := t.stores.eraseIdx n
                                       strongAt := if p.kind = .strong then s.freeCtr else t.strongAt }
      s.performAt s.cur.bind.job s.cur.key.core p.va p.bytes p.count p.lines
    else s

/-! ### Releases and acquires -/

/-- A copy operation whose writes go to another module: LCPY or a remote CATOM (R262). -/
def CopyOp.remote (o : CopyOp) : Bool :=
  match o.major with
  | .lcpy => true
  | .catom => o.tw.getLsbD 2
  | _ => false

/-- An operation still has writes to perform: it has not ended. -/
def CopyOp.writing (o : CopyOp) : Bool := match o.phase with | .ended .. => false | .posting => false | _ => true

/-- Engine work with a number had issued when the instruction that waits for it issued (R113, R116). -/
def Slot.before (t : Slot) (id : Nat) : Bool := decide (id < t.fenceAt.getD t.nextOp)

/-- The scope reaches other modules, and writes of LCPYs and remote CATOMs that had issued before the release are still to
be performed there (R262). -/
def Slot.farWrites (t : Slot) (sc : Scope) : Bool :=
  decide (sc = .ring ∨ sc = .job ∨ sc = .host) && t.copies.any fun o => o.remote && o.writing && t.before o.id

/-- A release at a scope has nothing left to wait for: stores, and writes to other modules (R262). -/
def Slot.released (t : Slot) (sc : Scope) (all : Bool) : Bool :=
  match sc with
  | .stream => true
  | sc => !pendOrdered t.stores all && !t.farWrites sc

/-- An acquire at .core or wider empties the L1 that serves the thread (R262). -/
def State.acquire (s : State) (sc : Scope) : State :=
  match sc with
  | .stream | .thread => s
  | _ => s.l1Clear s.cur.key.core

/-! ### Scalar reads -/

/-- n bytes at a home key. -/
def State.readHome (s : State) (key : Nat) : Nat → List Byte
  | 0 => []
  | n + 1 => s.byteAt key :: State.readHome s (key + 1) n

/-- n bytes read from an L1 line that holds the address va. -/
def L1Line.read (ln : L1Line) (va : Nat) : Nat → List Byte
  | 0 => []
  | n + 1 => ln.data[va % 128]?.getD 0 :: L1Line.read ln (va + 1) n

/-- A scalar access that cannot be performed yet leaves the stream interlocked on it with no effect (R96, R342). -/
def State.holdOn (s : State) (a : Access) : State :=
  s.upd fun t => { t with heldOn := a.request, locked := true, fenceAt := some (t.fenceAt.getD t.nextOp) }

/-- The scalar stream is interlocked on an instruction that waits; the engine work issued before it is what it waits for
(R96, R116). -/
def State.interlock (s : State) : State := s.upd fun t => { t with locked := true, fenceAt := some (t.fenceAt.getD t.nextOp) }

/-- The interlock is over: no circuit is waited for. -/
def State.unhold (s : State) : State := s.upd fun t => { t with heldOn := none, locked := false, fenceAt := none }

/-- A scalar load, rmw or MWAIT of n bytes may be performed now: its circuit is live, no MMA streams from the banks, a STRONG
access finds no STRONG store pending, and the stream's own stores to those bytes have been performed (R107, R184, R257,
R342). -/
def State.mayAccess (s : State) (a : Access) (n : Nat) : Bool :=
  a.held.isNone && !s.banksHeld a.key && !(decide (a.kind = .strong) && pendStrong s.cur.stores) && !pendTouches s.cur.stores a.key n

/-- The reply of a load, rmw or MWAIT comes over a circuit: its request has been sent on it before (R345, R349). -/
def State.answered (s : State) (a : Access) : Bool :=
  a.ch.isNone || s.cur.heldOn.elim false fun r => decide (some r.ch = a.ch) && decide (r.va = a.va)

/-- A scalar load, rmw or MWAIT may be performed now, and its request has crossed to the home (R342, R345). -/
def State.mayLoad (s : State) (a : Access) (n : Nat) : Bool := s.mayAccess a n && s.answered a

/-- A plain load of a global page may be served from the L1 (R105). -/
def inL1 (va : Word) : Bool := inPages va.toNat

/-- The L1 line that may serve a plain load of the acting thread, if the L1 has one: on a STRONG page, none that was filled
before the stream's last STRONG access (R257). -/
def State.l1Serves (s : State) (a : Access) (va : Word) : Option L1Line :=
  if inL1 va then
    (s.l1Find s.cur.key.core s.cur.bind.job va.toNat).filter fun ln => decide (a.kind ≠ .strong) || decide (s.cur.strongAt ≤ ln.stamp)
  else none

/-- A STRONG access of the acting thread at its home takes its place among the fills of L1 lines (R257). -/
def State.markStrong (s : State) (a : Access) : State :=
  if a.kind = .strong then s.upd fun t => { t with strongAt := s.freeCtr } else s

/-- A STRONG load that a line serves reads as of the line's fill: later ones of the stream read nothing older (R257). -/
def State.readLine (s : State) (a : Access) (ln : L1Line) : State :=
  if a.kind = .strong then s.upd fun t => { t with strongAt := ln.stamp } else s

/-- The line of a plain load's bytes is filled from the home; a line with an uncorrectable error is not (R288). -/
def State.fillFor (s : State) (a : Access) (va : Word) : State :=
  let base := a.key - va.toNat % 128
  if (eccIn s.bad base 128).isSome then s
  else s.l1Fill s.cur.key.core
    { job := s.cur.bind.job, line := va.toNat / 128, data := memBytesAt s.mem base 128, stamp := 0 }

/-- A read corrects the scratchpad words with a single-bit error that it takes, and counts them (R287). -/
def State.correctWords (s : State) (hit : Nat → Bool) : State :=
  let n := (s.soft.filter hit).length
  if n = 0 then s
  else { s with soft := s.soft.filter (fun w => !hit w), errors := { s.errors with soft := s.errors.soft + n } }

/-- A read of n bytes at the home corrects the words that it takes (R287). -/
def State.correct (s : State) (key n : Nat) : State := s.correctWords fun w => decide (key < w + 8) && decide (w < key + n)

/-- A check met an uncorrectable error. -/
def metEcc {α : Type} (r : Chk α) : Bool := match r with | .error f => decide (f.cause = 0x11) | .ok _ => false

/-- Work that reads memory corrects the words in which an uncorrectable error would have stopped it (R287). -/
def State.correctRead (s : State) (fails : State → Bool) : State :=
  if s.soft.isEmpty then s else s.correctWords fun w => fails { s with bad := [(w, 0)] }

/-- The value of a load of n bytes and the state after it: from an L1 line that may serve it, else from the home, which
fills a line when the load is a plain one (R105, R288); F_ECC for an uncorrectable error (R104). -/
def State.loadValue (s : State) (a : Access) (va : Word) (n : Nat) (plain : Bool) : Chk (List Byte × State) :=
  match if plain then s.l1Serves a va else none with
  | some ln => .ok (ln.read va.toNat n, s.readLine a ln)
  | none =>
    match eccIn s.bad a.key n with
    | some (_, l) => .error (flt 0x11 l va)
    | none =>
      let s' := (s.correct a.key n).markStrong a
      .ok (s.readHome a.key n, if plain && inL1 va then s'.fillFor a va else s')

end Sys2Proof.Machine
end

