-- ==== Sys2Proof/Machine/Alu.lean ====
section
/-! DEFINITION. The scalar stream's integer operations: the ALU group (R97, R98) and the immediate forms (R99). -/

namespace Sys2Proof.Machine

/-- 1 for true, 0 for false. -/
def ofBool (b : Bool) : Word := if b then 1 else 0

/-- DIV: the signed quotient truncated towards zero; by zero all-ones; −2^63 by −1 gives −2^63 (R98). -/
def divSigned (a b : Word) : Word := if b = 0 then BitVec.allOnes 64 else BitVec.ofInt 64 (a.toInt.tdiv b.toInt)

/-- REM: the remainder with the sign of A; by zero A; −2^63 by −1 gives 0 (R98). -/
def remSigned (a b : Word) : Word := if b = 0 then a else BitVec.ofInt 64 (a.toInt.tmod b.toInt)

/-- Leading zero bits among the n low bits of v. -/
def leadZeros : Nat → Nat → Nat
  | 0, _ => 0
  | n + 1, v => if v / 2 ^ n % 2 = 1 then 0 else leadZeros n v + 1

/-- Trailing zero bits among the n low bits of v. -/
def trailZeros : Nat → Nat → Nat
  | 0, _ => 0
  | n + 1, v => if v % 2 = 1 then 0 else trailZeros n (v / 2) + 1

/-- One bits among the n low bits of v. -/
def popCount : Nat → Nat → Nat
  | 0, _ => 0
  | n + 1, v => v % 2 + popCount n (v / 2)

/-- An ALU result: d is written and the stream goes on (R96, R97). -/
def aluWrite (d : BitVec 5) (v : Word) (s : State) : Res := .next ((s.setS d v).advance .scalar)

/-- A two-source ALU operation: both sources are read before d is written (R96). -/
def alu2 (f : Word → Word → Word) (d a b : BitVec 5) (s : State) : Res := aluWrite d (f (s.getS a) (s.getS b)) s

/-- An immediate operation: A and the immediate (R99). -/
def aluImm (f : Word → Word) (d a : BitVec 5) (s : State) : Res := aluWrite d (f (s.getS a)) s

/-- The value of ADD (R97). -/
def aluAdd (a b : Word) : Word := a + b
/-- ADD: A + B (R97). -/
def execAdd (d a b : BitVec 5) (s : State) : Res := alu2 aluAdd d a b s

/-- The value of SUB (R97). -/
def aluSub (a b : Word) : Word := a - b
/-- SUB: A − B (R97). -/
def execSub (d a b : BitVec 5) (s : State) : Res := alu2 aluSub d a b s

/-- The value of AND (R97). -/
def aluAnd (a b : Word) : Word := a &&& b
/-- AND (R97). -/
def execAnd (d a b : BitVec 5) (s : State) : Res := alu2 aluAnd d a b s

/-- The value of OR (R97). -/
def aluOr (a b : Word) : Word := a ||| b
/-- OR (R97). -/
def execOr (d a b : BitVec 5) (s : State) : Res := alu2 aluOr d a b s

/-- The value of XOR (R97). -/
def aluXor (a b : Word) : Word := a ^^^ b
/-- XOR (R97). -/
def execXor (d a b : BitVec 5) (s : State) : Res := alu2 aluXor d a b s

/-- The value of ANDN (R97). -/
def aluAndn (a b : Word) : Word := a &&& ~~~b
/-- ANDN: A & ~B (R97). -/
def execAndn (d a b : BitVec 5) (s : State) : Res := alu2 aluAndn d a b s

/-- The value of SLL (R97). -/
def aluSll (a b : Word) : Word := a <<< (b.toNat % 64)
/-- SLL: shift by B[5:0] (R97). -/
def execSll (d a b : BitVec 5) (s : State) : Res := alu2 aluSll d a b s

/-- The value of SRL (R97). -/
def aluSrl (a b : Word) : Word := a >>> (b.toNat % 64)
/-- SRL (R97). -/
def execSrl (d a b : BitVec 5) (s : State) : Res := alu2 aluSrl d a b s

/-- The value of SRA (R97). -/
def aluSra (a b : Word) : Word := a.sshiftRight (b.toNat % 64)
/-- SRA (R97). -/
def execSra (d a b : BitVec 5) (s : State) : Res := alu2 aluSra d a b s

/-- The value of SLT (R97). -/
def aluSlt (a b : Word) : Word := ofBool (a.slt b)
/-- SLT, signed (R97). -/
def execSlt (d a b : BitVec 5) (s : State) : Res := alu2 aluSlt d a b s

/-- The value of SLTU (R97). -/
def aluSltu (a b : Word) : Word := ofBool (a.ult b)
/-- SLTU, unsigned (R97). -/
def execSltu (d a b : BitVec 5) (s : State) : Res := alu2 aluSltu d a b s

/-- The value of SEQ (R97). -/
def aluSeq (a b : Word) : Word := ofBool (decide (a = b))
/-- SEQ (R97). -/
def execSeq (d a b : BitVec 5) (s : State) : Res := alu2 aluSeq d a b s

/-- The value of MIN (R97). -/
def aluMin (a b : Word) : Word := if a.slt b then a else b
/-- MIN, signed (R97). -/
def execMin (d a b : BitVec 5) (s : State) : Res := alu2 aluMin d a b s

/-- The value of MAX (R97). -/
def aluMax (a b : Word) : Word := if a.slt b then b else a
/-- MAX, signed (R97). -/
def execMax (d a b : BitVec 5) (s : State) : Res := alu2 aluMax d a b s

/-- The value of MINU (R97). -/
def aluMinu (a b : Word) : Word := if a.ult b then a else b
/-- MINU (R97). -/
def execMinu (d a b : BitVec 5) (s : State) : Res := alu2 aluMinu d a b s

/-- The value of MAXU (R97). -/
def aluMaxu (a b : Word) : Word := if a.ult b then b else a
/-- MAXU (R97). -/
def execMaxu (d a b : BitVec 5) (s : State) : Res := alu2 aluMaxu d a b s

/-- The value of MUL (R97). -/
def aluMul (a b : Word) : Word := a * b
/-- MUL: bits [63:0] of the product (R97). -/
def execMul (d a b : BitVec 5) (s : State) : Res := alu2 aluMul d a b s

/-- The value of MULH (R97). -/
def aluMulh (a b : Word) : Word := BitVec.ofInt 64 (a.toInt * b.toInt / 2 ^ 64)
/-- MULH: bits [127:64], signed by signed (R97). -/
def execMulh (d a b : BitVec 5) (s : State) : Res := alu2 aluMulh d a b s

/-- The value of MULHU (R97). -/
def aluMulhu (a b : Word) : Word := BitVec.ofNat 64 (a.toNat * b.toNat / 2 ^ 64)
/-- MULHU: bits [127:64], unsigned by unsigned (R97). -/
def execMulhu (d a b : BitVec 5) (s : State) : Res := alu2 aluMulhu d a b s

/-- The value of DIV (R97). -/
def aluDiv (a b : Word) : Word := divSigned a b
/-- DIV (R97). -/
def execDiv (d a b : BitVec 5) (s : State) : Res := alu2 aluDiv d a b s

/-- The value of DIVU (R97). -/
def aluDivu (a b : Word) : Word := if b = 0 then BitVec.allOnes 64 else BitVec.ofNat 64 (a.toNat / b.toNat)
/-- DIVU; by zero all-ones (R98) (R97). -/
def execDivu (d a b : BitVec 5) (s : State) : Res := alu2 aluDivu d a b s

/-- The value of REM (R97). -/
def aluRem (a b : Word) : Word := remSigned a b
/-- REM (R97). -/
def execRem (d a b : BitVec 5) (s : State) : Res := alu2 aluRem d a b s

/-- The value of REMU (R97). -/
def aluRemu (a b : Word) : Word := if b = 0 then a else BitVec.ofNat 64 (a.toNat % b.toNat)
/-- REMU; by zero A (R98) (R97). -/
def execRemu (d a b : BitVec 5) (s : State) : Res := alu2 aluRemu d a b s

/-- CLZ (R97). -/
def execClz (d a : BitVec 5) (s : State) : Res := aluWrite d (BitVec.ofNat 64 (leadZeros 64 (s.getS a).toNat)) s
/-- CTZ (R97). -/
def execCtz (d a : BitVec 5) (s : State) : Res := aluWrite d (BitVec.ofNat 64 (trailZeros 64 (s.getS a).toNat)) s
/-- POPC (R97). -/
def execPopc (d a : BitVec 5) (s : State) : Res := aluWrite d (BitVec.ofNat 64 (popCount 64 (s.getS a).toNat)) s

/-- ADDI: A + the sign-extended immediate (R99). -/
def execAddi (d a : BitVec 5) (imm : BitVec 16) (s : State) : Res := aluImm (fun x => x + imm.signExtend 64) d a s
/-- ANDI: the immediate is zero-extended (R99). -/
def execAndi (d a : BitVec 5) (imm : BitVec 16) (s : State) : Res := aluImm (fun x => x &&& imm.setWidth 64) d a s
/-- ORI (R99). -/
def execOri (d a : BitVec 5) (imm : BitVec 16) (s : State) : Res := aluImm (fun x => x ||| imm.setWidth 64) d a s
/-- XORI (R99). -/
def execXori (d a : BitVec 5) (imm : BitVec 16) (s : State) : Res := aluImm (fun x => x ^^^ imm.setWidth 64) d a s
/-- SLTI: signed, with the sign-extended immediate (R99). -/
def execSlti (d a : BitVec 5) (imm : BitVec 16) (s : State) : Res := aluImm (fun x => ofBool (x.slt (imm.signExtend 64))) d a s
/-- SHORI: (A << 16) | I (R99). -/
def execShori (d a : BitVec 5) (imm : BitVec 16) (s : State) : Res := aluImm (fun x => x <<< 16 ||| imm.setWidth 64) d a s
/-- SLLI (R99). -/
def execSlli (d a : BitVec 5) (n : BitVec 6) (s : State) : Res := aluImm (fun x => x <<< n.toNat) d a s
/-- SRLI (R99). -/
def execSrli (d a : BitVec 5) (n : BitVec 6) (s : State) : Res := aluImm (fun x => x >>> n.toNat) d a s
/-- SRAI (R99). -/
def execSrai (d a : BitVec 5) (n : BitVec 6) (s : State) : Res := aluImm (fun x => x.sshiftRight n.toNat) d a s

end Sys2Proof.Machine
end

