-- ==== Sys2Proof/Machine/Branch.lean ====
section
/-! DEFINITION. Branches, jumps (R100), hardware loops (R132) and NOP. -/

namespace Sys2Proof.Machine

/-- The address of the scalar stream's instruction. -/
def State.pc (s : State) : Word := pcWord s.cur.scalar.pc

/-- A transfer of the scalar stream to a target: F_XLATE outside 52 bits (R100). -/
def transfer (target : Int) (s : State) : Chk State :=
  if target < 0 ∨ 2 ^ 52 ≤ target then .error (flt 0x03 0 (BitVec.ofInt 64 target))
  else .ok (s.updStr .scalar fun x => x.jumpTo (BitVec.ofInt 52 target))

/-- A conditional branch: pc + sext(off) · 4 when taken (R100). -/
def branchIf (c : Bool) (off : BitVec 16) (s : State) : Res :=
  if c then outcome .scalar s (transfer (s.pc.toNat + off.toInt * 4) s) else .next (s.advance .scalar)

/-- BEQ (R100). -/
def execBeq (a b : BitVec 5) (off : BitVec 16) (s : State) : Res := branchIf (decide (s.getS a = s.getS b)) off s
/-- BNE (R100). -/
def execBne (a b : BitVec 5) (off : BitVec 16) (s : State) : Res := branchIf (decide (s.getS a ≠ s.getS b)) off s
/-- BLT, signed (R100). -/
def execBlt (a b : BitVec 5) (off : BitVec 16) (s : State) : Res := branchIf ((s.getS a).slt (s.getS b)) off s
/-- BGE, signed (R100). -/
def execBge (a b : BitVec 5) (off : BitVec 16) (s : State) : Res := branchIf (!(s.getS a).slt (s.getS b)) off s
/-- BLTU, unsigned (R100). -/
def execBltu (a b : BitVec 5) (off : BitVec 16) (s : State) : Res := branchIf ((s.getS a).ult (s.getS b)) off s
/-- BGEU, unsigned (R100). -/
def execBgeu (a b : BitVec 5) (off : BitVec 16) (s : State) : Res := branchIf (!(s.getS a).ult (s.getS b)) off s

/-- JAL: the target, then s(d) = pc + 4 (R100). -/
def execJal (d : BitVec 5) (off : BitVec 21) (s : State) : Res :=
  outcome .scalar s ((transfer (s.pc.toNat + off.toInt * 4) s).map fun s' => s'.setS d (s.pc + 4))

/-- JALR: the exact sum s(a) + sext(imm) (R8); F_ALIGN for a target with bits [1:0] set, then as JAL (R100). -/
def execJalr (d a : BitVec 5) (imm : BitVec 16) (s : State) : Res :=
  let target : Int := (s.getS a).toNat + imm.toInt
  outcome .scalar s
    (if target % 4 ≠ 0 then .error (flt 0x02 0 (BitVec.ofInt 64 target))
     else (transfer target s).map fun s' => s'.setS d (s.pc + 4))

/-! ### Hardware loops -/

/-- Starting a loop of a count at a level of a stream, with a body of len words (R132). -/
def startLoop (e : Stream) (lv : BitVec 3) (count : Nat) (len : BitVec 12) (s : State) : Chk State :=
  let x := s.cur.str e
  let first := x.pc + 4
  let last := x.pc + 4 * len.setWidth 52
  match hl : decide (lv.toNat < 6) with
  | false => .error (fIllegal 0)
  | true =>
    let i : Fin 6 := ⟨lv.toNat, of_decide_eq_true hl⟩
    if x.loops[i].active then .error (fIllegal 0)
    else if x.loops.any fun l => l.active && !l.frozen && !(decide (l.first ≤ x.pc) && decide (last ≤ l.last)) then
      .error (fIllegal 0)
    else if count = 0 then .ok (s.updStr e fun x => { x with pc := x.pc + 4 + 4 * len.setWidth 52 })
    else .ok (s.updStr e fun x => { x with
      loops := x.loops.set i { active := true, frozen := false, first := first, last := last, count := count, lc := 0 },
      buf := match x.buf with
        | some b => some b
        | none => if len.toNat ≤ Config.loopBufferWords then some { level := i, words := [] } else none,
      pc := first })

/-- A loop with an immediate count (R132). -/
def loopImm (e : Stream) (lv : BitVec 3) (cnt : BitVec 10) (len : BitVec 12) (s : State) : Res :=
  outcome e s (startLoop e lv cnt.toNat len s)

/-- A loop with a register count: bits [63:32] set raise F_ILLEGAL with detail 4 (R81, R235). -/
def loopReg (e : Stream) (lv : BitVec 3) (rs : BitVec 5) (len : BitVec 12) (s : State) : Res :=
  outcome e s (if (s.getS rs).toNat / 2 ^ 32 ≠ 0 then .error (fIllegal 4) else startLoop e lv (s.getS rs).toNat len s)

/-- LOOP, immediate count (R132). -/
def execLoopImm (lv : BitVec 3) (cnt : BitVec 10) (len : BitVec 12) (s : State) : Res := loopImm .scalar lv cnt len s
/-- LOOP, register count (R132). -/
def execLoopReg (lv : BitVec 3) (rs : BitVec 5) (len : BitVec 12) (s : State) : Res := loopReg .scalar lv rs len s
/-- VLOOP, immediate count (R176). -/
def execVloopImm (lv : BitVec 3) (cnt : BitVec 10) (len : BitVec 12) (s : State) : Res := loopImm .vector lv cnt len s
/-- VLOOP, register count (R176). -/
def execVloopReg (lv : BitVec 3) (rs : BitVec 5) (len : BitVec 12) (s : State) : Res := loopReg .vector lv rs len s
/-- MLOOP, immediate count (R195). -/
def execMloopImm (lv : BitVec 3) (cnt : BitVec 10) (len : BitVec 12) (s : State) : Res := loopImm .matrix lv cnt len s
/-- MLOOP, register count (R195). -/
def execMloopReg (lv : BitVec 3) (rs : BitVec 5) (len : BitVec 12) (s : State) : Res := loopReg .matrix lv rs len s
/-- CLOOP, immediate count (R216). -/
def execCloopImm (lv : BitVec 3) (cnt : BitVec 10) (len : BitVec 12) (s : State) : Res := loopImm .copy lv cnt len s
/-- CLOOP, register count (R216). -/
def execCloopReg (lv : BitVec 3) (rs : BitVec 5) (len : BitVec 12) (s : State) : Res := loopReg .copy lv rs len s

/-- NOP has no effect but to go on (R138). -/
def execNop (s : State) : Res := .next (s.advance .scalar)

end Sys2Proof.Machine
end

