-- ==== Sys2Proof/Machine/LoadStore.lean ====
section
/-! DEFINITION. The scalar stream's loads, stores, atomics, wheel-ordered operations and fences (R101–R115). -/

namespace Sys2Proof.Machine

/-! ### LD, LDU, ST -/

/-- The address of an SM access: s(a) + sext(imm) · size (R106). -/
def State.smAddr (s : State) (a : BitVec 5) (imm : BitVec 12) (size : Nat) : Word :=
  s.getS a + imm.signExtend 64 * BitVec.ofNat 64 size

/-- A load whose check has passed: it waits interlocked, its request first crossing the circuit if it needs one, or writes d
(R106, R345). -/
def loadInto (d : BitVec 5) (sgn plain : Bool) (va : Word) (n : Nat) (acc : Access) (s : State) : Chk State :=
  if s.mayLoad acc n then
    match s.loadValue acc va n plain with
    | .error f => .error f
    | .ok (v, s') => .ok ((s'.unhold.setS d (extendBytes sgn n (ofBytes v))).advance .scalar)
  else .ok (s.holdOn acc)

/-- A plain load (R106). -/
def loadPlain (sgn : Bool) (d a : BitVec 5) (sz : MemSize) (byHome : Bool) (imm : BitVec 12) (s : State) : Res :=
  let n := memBytes sz
  let va := s.smAddr a imm n
  outcome .scalar s (match s.check1 va n .load with
    | .error f => .error f
    | .ok acc => loadInto d sgn (!byHome) va n acc s)

/-- LD: sign-extending; .by reads at the home (R105, R106). -/
def execLd (d a : BitVec 5) (sz : MemSize) (byHome : Bool) (imm : BitVec 12) (s : State) : Res :=
  loadPlain true d a sz byHome imm s
/-- LDU: zero-extending (R106). -/
def execLdu (d a : BitVec 5) (sz : MemSize) (byHome : Bool) (imm : BitVec 12) (s : State) : Res :=
  loadPlain false d a sz byHome imm s

/-- A store whose check has passed completes: it joins the store buffer and drops the L1 lines that hold its bytes
(R96, R104, R105). -/
def storeFrom (va : Word) (bytes : List Byte) (rel : Bool) (acc : Access) (s : State) : State :=
  match acc.held with
  | some _ => s.holdOn acc
  | none =>
    let s := s.pushStore va (cellsAt acc.key bytes) acc.kind rel (if acc.put then bytes.length else 0) acc.ch
    ((s.l1Drop s.cur.key.core s.cur.bind.job (linesOf va.toNat bytes.length)).unhold).advance .scalar

/-- ST (R106). -/
def execSt (d a : BitVec 5) (sz : MemSize) (imm : BitVec 12) (s : State) : Res :=
  let n := memBytes sz
  let va := s.smAddr a imm n
  outcome .scalar s ((s.check1 va n .store).map fun acc => storeFrom va (bytesOf n (s.getS d).toNat) false acc s)

/-! ### LDA, STL -/

/-- LDA: read at the home, sign-extended; an acquire at its scope, but on an UNORDERED page (R107, R108, R262). -/
def execLda (d a : BitVec 5) (sc : Scope) (sz : MemSize) (s : State) : Res :=
  let n := memBytes sz
  let va := s.getS a
  outcome .scalar s (match s.check1 va n .load with
    | .error f => .error f
    | .ok acc =>
      (loadInto d true false va n acc s).map fun s' =>
        if s.mayLoad acc n && decide (acc.kind ≠ .unordered) then s'.acquire sc else s')

/-- STL: a store performed after every earlier access that it orders; towards other modules it first waits for LCPY and
remote CATOM writes (R107, R108, R262). -/
def execStl (d a : BitVec 5) (sc : Scope) (sz : MemSize) (s : State) : Res :=
  let n := memBytes sz
  let va := s.getS a
  outcome .scalar s ((s.check1 va n .store).map fun acc =>
    if s.cur.farWrites sc && decide (acc.kind ≠ .unordered) then s.interlock
    else storeFrom va (bytesOf n (s.getS d).toNat) (decide (sc ≠ .stream ∧ acc.kind ≠ .unordered)) acc s)

/-! ### AMO -/

/-- The new value of an atomic operation on n bytes (R109). -/
def atomNew (op : AtomOp) (n old b c : Nat) : Nat :=
  let sg := signedOf (8 * n)
  match op with
  | .add => (old + b) % 2 ^ (8 * n)
  | .and => old &&& b
  | .or => old ||| b
  | .xor => old ^^^ b
  | .min => if sg old < sg b then old else b
  | .max => if sg old < sg b then b else old
  | .minu => if old < b then old else b
  | .maxu => if old < b then b else old
  | .swap => b
  | .cas => if old = c then b else old

/-- The operation stores: every one but a CAS that fails (R109). -/
def atomStores (op : AtomOp) (old c : Nat) : Bool :=
  match op with
  | .cas => decide (old = c)
  | _ => true

/-- An atomic's read, store and count at the home in one update: the old value and the state (R103, R109). -/
def State.atomAt (s : State) (op : AtomOp) (va : Word) (acc : Access) (n b c : Nat) : Nat × State :=
  let old := memNat s.mem acc.key n
  let cells := if atomStores op old c then cellsAt acc.key (bytesOf n (atomNew op n old b c)) else []
  let s' := s.perform s.cur.bind.job s.cur.key.core va cells (if acc.put then n else 0)
  (old, (s'.wakeAll (cellsAt acc.key (List.replicate n 0))).l1Drop s.cur.key.core s.cur.bind.job (linesOf va.toNat n))

/-- AMO (R109): indivisible at the home. With .acqrel it first waits for the accesses that it orders, and then acquires,
whatever the kind of its own page (R107). -/
def amo (op : AtomOp) (d a b : BitVec 5) (sc : Scope) (sz : AmoSize) (acqrel : Bool) (s : State) : Res :=
  let n := amoBytes sz
  let va := s.getS a
  let bv := (s.getS b).toNat % 2 ^ (8 * n)
  let cv := (s.getS d).toNat % 2 ^ (8 * n)
  outcome .scalar s (match s.check1 va n .rmw with
    | .error f => .error f
    | .ok acc =>
      if !s.mayLoad acc n then .ok (s.holdOn acc)
      else if acqrel && !s.cur.released sc false then .ok s.interlock
      else match eccIn s.bad acc.key n with
        | some (_, l) => .error (flt 0x11 l va)
        | none =>
          let (old, s') := ((s.correct acc.key n).markStrong acc).atomAt op va acc n bv cv
          let s' := if acqrel then s'.acquire sc else s'
          .ok ((s'.unhold.setS d (extendBytes true n old)).advance .scalar))

/-- AMO ADD (R109). -/
def execAmoAdd (d a b : BitVec 5) (sc : Scope) (sz : AmoSize) (ar : Bool) (s : State) : Res := amo .add d a b sc sz ar s
/-- AMO AND (R109). -/
def execAmoAnd (d a b : BitVec 5) (sc : Scope) (sz : AmoSize) (ar : Bool) (s : State) : Res := amo .and d a b sc sz ar s
/-- AMO OR (R109). -/
def execAmoOr (d a b : BitVec 5) (sc : Scope) (sz : AmoSize) (ar : Bool) (s : State) : Res := amo .or d a b sc sz ar s
/-- AMO XOR (R109). -/
def execAmoXor (d a b : BitVec 5) (sc : Scope) (sz : AmoSize) (ar : Bool) (s : State) : Res := amo .xor d a b sc sz ar s
/-- AMO MIN (R109). -/
def execAmoMin (d a b : BitVec 5) (sc : Scope) (sz : AmoSize) (ar : Bool) (s : State) : Res := amo .min d a b sc sz ar s
/-- AMO MAX (R109). -/
def execAmoMax (d a b : BitVec 5) (sc : Scope) (sz : AmoSize) (ar : Bool) (s : State) : Res := amo .max d a b sc sz ar s
/-- AMO MINU (R109). -/
def execAmoMinu (d a b : BitVec 5) (sc : Scope) (sz : AmoSize) (ar : Bool) (s : State) : Res := amo .minu d a b sc sz ar s
/-- AMO MAXU (R109). -/
def execAmoMaxu (d a b : BitVec 5) (sc : Scope) (sz : AmoSize) (ar : Bool) (s : State) : Res := amo .maxu d a b sc sz ar s
/-- AMO SWAP (R109). -/
def execAmoSwap (d a b : BitVec 5) (sc : Scope) (sz : AmoSize) (ar : Bool) (s : State) : Res := amo .swap d a b sc sz ar s
/-- AMO CAS: d supplies the compare value and receives the old one (R109). -/
def execAmoCas (d a b : BitVec 5) (sc : Scope) (sz : AmoSize) (ar : Bool) (s : State) : Res := amo .cas d a b sc sz ar s

/-! ### SCOP (R110–R112, R263, R264) -/

/-- The wheel position p = g + 512 j (R110). -/
def scopPos (g : CoreId) (j : BitVec 3) : Nat := g.toNat + 512 * j.toNat

/-- A window is open over an address of the acting thread's job: an access to it counts (R103, R110). -/
def State.windowed (s : State) (va : Word) : Bool :=
  (findRegion s.tokens s.cur.bind.job va.toNat).elim false fun e => decide (e.st = .window)

/-- A SCOP is issued: it passes its checks, acts as FENCE.FULL.pkg, and then waits for its wheel position with the
scalar stream blocked (R110). DESIGN CHOICE: the cycle of its issue, which fixes c and R111's order, is the one in which that
fence is done (log 96). -/
def scopIssue (op : ScopOp) (kind : AccKind) (d a b : BitVec 5) (j : BitVec 3) (s : State) : Res :=
  let va := s.getS a
  match s.cur.scop with
  | some _ => .next s
  | none => outcome .scalar s ((s.check va 8 8 kind true).map fun acc =>
      if !s.cur.released .pkg true then s.interlock
      else (s.acquire .pkg).unhold.upd fun t => { t with
        heldOn := acc.held.bind fun _ => acc.request,
        scop := some { op := op, d := d, va := va, bytes := (List.range 8).map fun i => acc.key + i, kind := acc.kind,
                       arg := s.getS b, cmp := s.getS d, issued := s.cycle, pos := scopPos t.key.core j,
                       phase := .waiting (scopPos t.key.core j), count := if s.windowed va then 8 else 0,
                       ch := acc.ch, finsn := s.insn } })

/-- SCOP LD.SC (R110). -/
def execLdSc (d a : BitVec 5) (j : BitVec 3) (s : State) : Res := scopIssue .ld .load d a 0 j s
/-- SCOP ST.SC (R110). -/
def execStSc (a b : BitVec 5) (j : BitVec 3) (s : State) : Res := scopIssue .st .store 0 a b j s
/-- SCOP AMOADD.SC (R110). -/
def execAmoaddSc (d a b : BitVec 5) (j : BitVec 3) (s : State) : Res := scopIssue .add .rmw d a b j s
/-- SCOP SWAP.SC (R110). -/
def execSwapSc (d a b : BitVec 5) (j : BitVec 3) (s : State) : Res := scopIssue .swap .rmw d a b j s
/-- SCOP CAS.SC: s(d) at issue is the compare value (R110). -/
def execCasSc (d a b : BitVec 5) (j : BitVec 3) (s : State) : Res := scopIssue .cas .rmw d a b j s

/-- Another thread of the core has the position first: it waits with a SCOP that issued earlier, or in the same cycle from a
lower slot, or it has sent its SCOP in this turn (R111). -/
def scopAhead (now : Nat) (t : Slot) (x : Scop) (k : SlotId) : Bool :=
  match t.scop with
  | some y => decide (t.key.core = k.core ∧ t.key ≠ k ∧ y.pos = x.pos) && match y.phase with
    | .waiting _ => decide (y.issued < x.issued) || (decide (y.issued = x.issued) && decide (t.key.slot < k.slot))
    | .sent c => decide (c = now)
    | .arrived c _ => decide (c = now)
    | .applied .. => false
  | none => false

/-- SCOP_SEND: at the first cycle after issue whose wheel position is the SCOP's, the core sends it, one per position
and turn (R110, R111). -/
def execScopSend (s : State) : Res :=
  let k := s.ev.slot
  .next (s.onSlot k fun s =>
    match s.cur.scop with
    | some x => (match x.phase with
      | .waiting p =>
        if x.issued < s.cycle ∧ s.cycle % Config.wheelTurn = p ∧ !(s.others.any fun t => scopAhead s.cycle t x k) then
          s.upd fun t => { t with scop := some { x with phase := .sent s.cycle } }
        else s
      | _ => s)
    | none => s)

/-- The SCOP of the acting thread ends in a fault, precise at its word (R77, R112, R349). -/
def State.scopFault (s : State) (x : Scop) (f : SFault) : State :=
  (s.upd fun t => { t with scop := none, heldOn := none }).raiseAt .scalar
    { flt := f, fpc := pcWord s.cur.scalar.pc, finsn := x.finsn }

/-- F_HORIZON for a SCOP that reached its home late: nothing is applied (R112). -/
def State.horizonFault (s : State) (x : Scop) (late : Nat) : State := s.scopFault x (flt 0x14 (min late 0xFFFF) x.va)

/-- The new value a SCOP stores, if it stores (R110). -/
def scopNew (x : Scop) (old : Word) : Option Word :=
  match x.op with
  | .ld => none
  | .st => some x.arg
  | .add => some (old + x.arg)
  | .swap => some x.arg
  | .cas => if old = x.cmp then some x.arg else none

/-- What a SCOP does at its home: the store, the count, the monitors (R103, R110, R127). -/
def State.scopAtHome (s : State) (x : Scop) (key : Nat) (old : Word) : State :=
  let s := s.perform s.cur.bind.job s.cur.key.core x.va ((scopNew x old).elim [] fun v => cellsAt key (bytesOf 8 v.toNat)) x.count
  if x.op = .ld then s else s.wakeAll (cellsAt key (List.replicate 8 0))

/-- The result and the fence after it. -/
def State.endScop (s : State) (x : Scop) (old : Word) : State :=
  let s := if x.op = .st then s else s.setS x.d old
  ((s.acquire .pkg).upd fun t => { t with scop := none, heldOn := none }).advance .scalar

/-- The way of a SCOP between its core and its home (R342). -/
def State.scopPath (s : State) (x : Scop) : Path :=
  x.ch.elim (Path.open_ none) fun ch => s.pathOn (dieOf s.cur.key.core) (homeDie (x.bytes.headD 0)) ch

/-- The way of a SCOP is open. -/
def State.scopOpen (s : State) (x : Scop) : Bool := match s.scopPath x with | .open_ _ => true | _ => false

/-- The reply of an applied SCOP: it ends the SCOP, or waits while its circuit is re-routed (R110, R349). -/
def State.answerScop (s : State) (x : Scop) (old : Word) (ecc : Option Nat) : State :=
  if s.scopOpen x then
    match ecc with
    | some l => s.scopFault x (flt 0x11 l x.va)
    | none => s.endScop x old
  else s.upd fun t => { t with scop := some { x with phase := .applied old ecc } }

/-- A SCOP of the acting thread is applied at its home and the reply ends it (R110); F_ECC for a word with an uncorrectable
error that it reads (R104). -/
def State.applyScop (s : State) (x : Scop) : State :=
  let key := x.bytes.headD 0
  match eccIn s.bad key 8 with
  | some (_, l) => if x.op = .st then (s.scopAtHome x key 0).answerScop x 0 none else s.answerScop x 0 (some l)
  | none =>
    let old := BitVec.ofNat 64 (memNat s.mem key 8)
    (s.scopAtHome x key old).answerScop x old none

/-- A SCOP whose reply has no circuit is applied and answers nobody (R349). -/
def State.applyOrphan (s : State) (x : Scop) : State :=
  let key := x.bytes.headD 0
  let s := s.upd fun t => { t with orphans := t.orphans.filter fun y => y ≠ x }
  if (eccIn s.bad key 8).isSome ∧ x.op ≠ .st then s else s.scopAtHome x key (BitVec.ofNat 64 (memNat s.mem key 8))

/-- SCOP_ARRIVAL: a sent SCOP reaches its home's ordering buffer: before its application cycle it waits there, at that cycle
it is applied, past it F_HORIZON (R112, R264). One held on a faulted circuit does not arrive until the circuit is live again;
one whose circuit is gone raises F_NOCIRC with detail 3 (R342, R349). -/
def execScopArrival (s : State) : Res :=
  .next (s.onSlot s.ev.slot fun s =>
    match s.cur.scop with
    | some x => (match x.phase with
      | .sent c =>
        (match s.scopPath x with
        | .held _ => s
        | .none_ d => s.scopFault x (flt 0x0D d x.va)
        | .open_ _ =>
          let x' := { x with phase := .arrived c s.cycle }
          if c + Config.horizon < s.cycle then s.horizonFault x (s.cycle - (c + Config.horizon))
          else if s.cycle = c + Config.horizon then s.applyScop x'
          else s.upd fun t => { t with scop := some x', heldOn := none })
      | _ => s)
    | none => s)

/-- The SCOP's application cycle is the present one. -/
def Scop.dueAt (x : Scop) (now : Nat) : Bool := match x.phase with | .arrived c _ => decide (now = c + Config.horizon) | _ => false

/-- SCOP_APPLY: at its send cycle plus 8,192 the home applies the SCOP. One is sent per cycle, so this is key order
(R110, R263). The reply of one applied before is tried again (R349). -/
def execScopApply (s : State) : Res :=
  .next (s.onSlot s.ev.slot fun s =>
    match s.cur.orphans.find? fun x => x.dueAt s.cycle with
    | some x => s.applyOrphan x
    | none => match s.cur.scop with
      | some x =>
        if x.dueAt s.cycle then s.applyScop x
        else (match x.phase with
          | .applied old ecc => s.answerScop x old ecc
          | _ => s)
      | none => s)

/-- A circuit of the acting thread's launch is torn down: a SCOP that waits for its reply on it raises F_NOCIRC with detail 3
and its handle; one that has reached its home is applied all the same (R349). -/
def State.dropScop (s : State) (ch : Nat) : State :=
  match s.cur.scop with
  | some x =>
    if x.ch = some ch then
      let s := match x.phase with
        | .arrived .. => s.upd fun t => { t with orphans := t.orphans ++ [x] }
        | _ => s
      s.scopFault x (flt 0x0D (3 + ch * 256) x.va)
    else s
  | none => s

/-! ### FENCE (R113–R115) -/

/-- A fence that waits for nothing more goes on. -/
def fenceDone (ready : Bool) (acq : Bool) (sc : Scope) (s : State) : Res :=
  if ready then .next ((if acq then s.acquire sc else s).unhold.advance .scalar) else .next s.interlock

/-- FENCE.FULL (R107, R113, R262). -/
def execFenceFull (sc : Scope) (s : State) : Res := fenceDone (s.cur.released sc true) true sc s
/-- FENCE.ACQ: the stream's earlier loads and rmw have been performed (R96, R113). -/
def execFenceAcq (sc : Scope) (s : State) : Res := fenceDone true true sc s
/-- FENCE.REL (R107, R113). -/
def execFenceRel (sc : Scope) (s : State) : Res := fenceDone (s.cur.released sc false) false sc s

/-- Engine work of the thread numbered below n that has not landed or completed (R114). -/
def Slot.workBelow (t : Slot) (n : Nat) : Bool :=
  (t.vfly.any fun x => decide (x.id < n)) || (t.mfly.any fun x => decide (x.id < n)) || t.copies.any fun x => decide (x.id < n)

/-- FENCE.ENGINES: the engine work issued before the fence issued lands and completes, then FENCE.FULL (R114). DESIGN CHOICE:
MMAs of a stopped matrix stream go on while it waits for them (log 102). -/
def execFenceEngines (sc : Scope) (s : State) : Res :=
  if s.cur.workBelow (s.cur.fenceAt.getD s.cur.nextOp) then .next s.runMmas.interlock
  else fenceDone (s.cur.released sc true) true sc s

/-- STORE_PERFORMED: a completed store of a thread is performed at its home (R104). -/
def execStorePerformed (s : State) : Res := .next (s.onSlot s.ev.slot fun s' => s'.performNth s.ev.num)

end Sys2Proof.Machine
end

