-- ==== Sys2Proof/Machine/Own.lean ====
section
/-! DEFINITION. Owner tokens: region words (R119), OWN (R120–R123, R271, R272) and WIN (R124, R125). -/

namespace Sys2Proof.Machine

/-! ### Region words and entries -/

/-- The base of a region word, as the FADDR of its faults (R119). -/
def regionBase (w : Word) : Word := BitVec.ofNat 64 (w.toNat / 65536 * 65536)

/-- Checks 1–3 of a region word: its base and the log2 of its size (R119). -/
def regionOf (w : Word) : Chk (Nat × Nat) :=
  let n := wbits w 0 6
  let b := (regionBase w).toNat
  if n < 16 ∨ 40 < n ∨ wbits w 6 10 ≠ 0 then .error (flt 0x01 4 (regionBase w))
  else if b % 2 ^ n ≠ 0 then .error (flt 0x02 0 (regionBase w))
  else if !inPages b && !inWindows b then .error (flt 0x03 0 (regionBase w))
  else .ok (b, n)

/-- A fault of a token operation on a region: FADDR holds its base. -/
def regionFault {α : Type} (cause detail base : Nat) : Chk α := .error (flt (BitVec.ofNat 8 cause) detail (BitVec.ofNat 64 base))

/-- The home die of an entry is alive (R281). -/
def State.homeAlive (s : State) (e : Entry) : Bool := !s.deadDies.contains e.die.toNat

/-- Check 4: the entry of exactly this base and size (R119); F_LOST where its home die has failed (R281). -/
def State.entryFor (s : State) (base log2 : Nat) : Chk Entry :=
  match findEntry s.tokens s.cur.bind.job base log2 with
  | none => regionFault 0x05 0 base
  | some e => if s.homeAlive e then .ok e else regionFault 0x07 0 base

/-- The code of a region's state (R120). -/
def TokState.code : TokState → Nat
  | .excl => 0 | .shared => 1 | .lent => 2 | .window => 3 | .lost => 4

/-- The QRY word of an entry for an agent (R120). -/
def Entry.qry (e : Entry) (me : AgentId) : Word :=
  BitVec.ofNat 64 (e.st.code + (if e.owner = me then 8 else 0) + (if e.sharesOf me ≠ 0 then 16 else 0)
    + (if e.pair then 32 else 0) + e.shareCount % 256 * 256 + e.log2 * 65536 + e.owner.toNat * 2 ^ 32)

/-- The state of a region without shares or window: EXCL when the owner is the home agent, else LENT (R271). -/
def Entry.settled (e : Entry) : TokState := if e.owner = e.homeAgent then .excl else .lent

/-- One share of an agent more (R122, R268). -/
def addShare : List (AgentId × Nat) → AgentId → List (AgentId × Nat)
  | [], a => [(a, 1)]
  | (x, n) :: t, a => if x = a then (x, n + 1) :: t else (x, n) :: addShare t a

/-- One share of an agent fewer; a record without shares goes. -/
def dropShare : List (AgentId × Nat) → AgentId → List (AgentId × Nat)
  | [], _ => []
  | (x, n) :: t, a => if x = a then (if n ≤ 1 then t else (x, n - 1) :: t) else (x, n) :: dropShare t a

/-- LEND of an entry in EXCL or LENT by its owner to an agent (R122). -/
def Entry.lendTo (e : Entry) (t : AgentId) : Entry :=
  let home := if e.st = .excl then e.owner else e.homeAgent
  { e with owner := t, homeAgent := home, st := if t = home then .excl else .lent }

/-- RET (R122). -/
def Entry.ret (e : Entry) : Entry := if e.st = .lent then { e with owner := e.homeAgent, st := .excl } else e

/-- DROP of one share (R122). -/
def Entry.dropOne (e : Entry) (a : AgentId) : Entry :=
  let e := { e with shares := dropShare e.shares a }
  if e.shares.isEmpty then { e with st := e.settled } else e

/-- A window closed: EXCL or LENT, as before WOPEN (R125). -/
def Entry.close (e : Entry) : Entry := { e with st := e.settled, writers := 0, closing := false }

/-- The dies, the home aside, that home a frame of a page region, and so hold a forward entry (R267). -/
def State.frameDies (s : State) (job base log2 : Nat) (home : DieId) : List DieId :=
  if inPages base then
    (List.range (2 ^ (log2 - 16))).foldl (fun ds i =>
      match s.leafFor (BitVec.ofNat 9 (16 * home.toNat)) job (base + i * 65536) with
      | .ok (p, l) =>
        let d := BitVec.ofNat 5 (homeDie (leafPa p l (base + i * 65536) home.toNat))
        if p.loc || decide (d = home) || ds.contains d then ds else ds ++ [d]
      | .error _ => ds) []
  else []

/-- A page of a job has another frame: the dies that hold forwards to the regions that it meets are found anew (R267). -/
def State.reforward (s : State) (job va log2 : Nat) : State :=
  { s with tokens := s.tokens.map fun e =>
      if e.job = job ∧ e.base < va + 2 ^ log2 ∧ va < e.base + 2 ^ e.log2 then { e with forwards := s.frameDies e.job e.base e.log2 e.die }
      else e }

/-- Entries in a die's token table, forward entries included (R270). -/
def State.tableFill (s : State) (d : DieId) : Nat :=
  s.tokens.foldl (fun n e => n + (if e.die = d then 1 else 0) + (if e.forwards.contains d then 1 else 0)) 0

/-- Share records in a die's share store (R270). -/
def State.storeFill (s : State) (d : DieId) : Nat :=
  s.tokens.foldl (fun n e => if e.die = d then n + e.shares.length else n) 0

def dropEntry (es : List Entry) (job base log2 : Nat) : List Entry :=
  es.filter fun e => !(decide (e.job = job) && decide (e.base = base) && decide (e.log2 = log2))

/-! ### Waiting for a region's work -/

def spanTouches (ps : List (Nat × Nat)) (base size : Nat) : Bool :=
  ps.any fun p => decide (p.1 < base + size) && decide (base < p.1 + p.2)

def storesIn (ss : List PendStore) (base size : Nat) : Bool := ss.any fun p => p.inRange base size

/-- Work of the thread in flight on a region that the present instruction waits for: stores not yet performed, results of
engine work issued before it that will store there, copies issued before it that write or read there (R116, R214). -/
def Slot.busyIn (t : Slot) (base size : Nat) : Bool :=
  storesIn t.stores base size || (t.vfly.any fun v => t.before v.id && storesIn v.stores base size)
    || (t.mfly.any fun m => t.before m.id && storesIn m.stores base size)
    || t.copies.any fun o => t.before o.id && (spanTouches o.wrSpans base size || spanTouches o.rdSpans base size)

/-- A record in a thread's ring, or one that waits for its room, reports a collective with a buffer in a region (R332). -/
def Slot.holdsRecord (t : Slot) (job base size : Nat) : Bool :=
  decide (t.bind.job = job) &&
    ((t.ringBufs.any fun bs => spanTouches bs base size) || t.waitRecs.any fun w => spanTouches w.bufs base size)

/-- The record of a collective with a buffer in a region of the acting thread's job has been posted and not popped (R332). -/
def State.unpopped (s : State) (base size : Nat) : Bool :=
  let job := s.cur.bind.job
  (s.slots.any fun t => t.holdsRecord job base size) || (s.images.any fun i => i.ctx.holdsRecord job base size)
    || s.launches.any fun l => decide (l.job = job) && l.heldRecs.any fun w => spanTouches w.bufs base size

/-- The buffers of a collective are not moved to a new layout before its record has been popped (R332). DEDUCED: such a SPLIT,
JOIN or LEND fails as it does while the collective runs (log 119). -/
def State.popCheck (s : State) (base log2 : Nat) : Chk Unit :=
  if s.unpopped base (2 ^ log2) then regionFault 0x05 0 base else .ok ()

/-- Puts into a region that have passed their check and are not performed (R125). -/
def Slot.putsIn (t : Slot) (job base size : Nat) : Bool :=
  decide (t.bind.job = job) &&
    ((t.stores.any fun p => decide (p.count ≠ 0) && p.inRange base size)
      || (t.vfly.any fun v => v.stores.any fun p => decide (p.count ≠ 0) && p.inRange base size)
      || (t.mfly.any fun m => m.stores.any fun p => decide (p.count ≠ 0) && p.inRange base size)
      || (t.copies.any fun o => spanTouches o.wrSpans base size)
      || t.scop.elim false fun x => decide (x.count ≠ 0) && decide (base ≤ x.va.toNat ∧ x.va.toNat < base + size))

/-- Stores, results, copies and SCOPs of a thread that have passed their check and will write into a region (R249). -/
def Slot.writesIn (t : Slot) (job base size : Nat) : Bool :=
  decide (t.bind.job = job) &&
    (storesIn t.stores base size || (t.vfly.any fun v => storesIn v.stores base size) || (t.mfly.any fun m => storesIn m.stores base size)
      || (t.copies.any fun o => spanTouches o.wrSpans base size)
      || (t.scop.toList ++ t.orphans).any fun x => decide (x.op ≠ .ld) && decide (base ≤ x.va.toNat ∧ x.va.toNat < base + size))

/-- A transfer's fence for the giver and the L1 lines on both sides (R123): everything earlier is performed. -/
def State.fencedFor (s : State) (receiver : AgentId) : Bool :=
  s.cur.released (match agentKind receiver with | 3 => .job | 4 => .host | _ => .pkg) true

/-- A token transfer touches the monitored lines of its region (R127). -/
def Slot.wakeIn (t : Slot) (job base size : Nat) : Slot :=
  match t.waiting with
  | .monitor _ va .. => if t.bind.job = job ∧ base ≤ va ∧ va < base + size then { t with waiting := .woken } else t
  | _ => t

def State.wakeRegion (s : State) (job base size : Nat) : State :=
  { s with cur := s.cur.wakeIn job base size, others := s.others.map fun t => t.wakeIn job base size }

/-- A transfer's effects outside the entry: L1 lines of the region at the giver, all lines at the receiver, whose first access
that passes acquires at .pkg, monitors, and the giver's fence (R123, R127, R259). -/
def State.transferred (s : State) (e : Entry) (receiver : AgentId) : State :=
  let size := 2 ^ e.log2
  let s := s.l1DropRegion s.cur.key.core e.job e.base size
  let s := if agentKind receiver = 1 then s.l1Clear (agentSlot receiver).core else s
  (s.wakeRegion e.job e.base size).acquire .pkg

/-! ### OWN (R122) -/

/-- The result of an OWN instruction: d receives the region's QRY word (R120). -/
def State.ownDone (s : State) (d : BitVec 5) (e : Entry) : State := (s.unhold.setS d (e.qry s.cur.key.agent)).advance .scalar

/-- The owner column of R122: LOST, then not the owner, then SHARED, then WINDOW. -/
def ownerCheck (me : AgentId) (e : Entry) (sharedOk : Bool) : Chk Unit :=
  if e.st = .lost then regionFault 0x07 0 e.base
  else if e.owner ≠ me then regionFault 0x05 0 e.base
  else if e.st = .shared ∧ !sharedOk then regionFault 0x06 e.shareCount e.base
  else if e.st = .window then regionFault 0x13 0 e.base
  else .ok ()

/-- An agent identifier that names no agent (R30). DESIGN CHOICE: bits that R30 marks zero are not looked at in kinds 2 to 5
(log 99). -/
def badAgent (a : AgentId) : Bool := decide (agentKind a = 0) || decide (5 < agentKind a)

/-- The receiver's conditions: a thread of the caller's job, and for a lent window region a thread of the same core or
a Millstone unit (R122). -/
def State.receiverCheck (s : State) (e : Entry) (t : AgentId) (lend : Bool) : Chk Unit :=
  let o := s.slotAt (agentSlot t)
  if agentKind t = 1 ∧ (agentSlot t).agent ≠ t then regionFault 0x04 2 e.base
  else if agentKind t = 1 ∧ (!o.holds ∨ o.bind.job ≠ s.cur.bind.job) then regionFault 0x04 2 e.base
  else if lend ∧ inWindows e.base ∧ agentKind t ≠ 2 ∧ ¬(agentKind t = 1 ∧ (agentSlot t).core = windowCore e.base) then
    regionFault 0x04 1 e.base
  else .ok ()

/-- LEND (R122, R123, R332); a region lent to the host brings a TOKEN notice (R372). DESIGN CHOICE: an identifier of no agent is
refused before the owner column is tested, and the receiver after it (log 98). -/
def ownLend (d a b : BitVec 5) (s : State) : Chk State := do
  let (base, log2) ← regionOf (s.getS a)
  let e ← s.entryFor base log2
  let t : AgentId := (s.getS b).setWidth 32
  if badAgent t then regionFault 0x01 4 base
  else
    ownerCheck s.cur.key.agent e false
    if t = s.cur.key.agent then .ok (s.ownDone d e)
    else
      s.receiverCheck e t true
      s.popCheck base log2
      if s.cur.busyIn base (2 ^ log2) || !s.fencedFor t then .ok s.interlock
      else
        let e' := e.lendTo t
        let s' := { s with tokens := putEntry s.tokens e' }.transferred e' t
        .ok ((if agentKind t = 4 then s'.notice 2 s.cur.bind.job (bytesOf 8 (s.getS a).toNat) else s').ownDone d e')

/-- OWN.LEND (R122). -/
def execOwnLend (d a b : BitVec 5) (s : State) : Res := outcome .scalar s (ownLend d a b s)

/-- RET (R122, R123). -/
def ownRet (d a : BitVec 5) (s : State) : Chk State := do
  let (base, log2) ← regionOf (s.getS a)
  let e ← s.entryFor base log2
  ownerCheck s.cur.key.agent e false
  if s.cur.busyIn base (2 ^ log2) || !s.fencedFor e.homeAgent then .ok s.interlock
  else
    let e' := e.ret
    .ok (({ s with tokens := putEntry s.tokens e' }.transferred e' e'.owner).ownDone d e')

/-- OWN.RET (R122). -/
def execOwnRet (d a : BitVec 5) (s : State) : Res := outcome .scalar s (ownRet d a s)

/-- One half of a split entry (R122, R267). -/
def State.half (s : State) (e : Entry) (upper : Bool) : Entry :=
  let base := if upper then e.base + 2 ^ (e.log2 - 1) else e.base
  { e with base := base, log2 := e.log2 - 1, pubs := 0, paired := false,
           forwards := s.frameDies e.job base (e.log2 - 1) e.die }

/-- SPLIT (R122, R270, R332). -/
def ownSplit (d a : BitVec 5) (s : State) : Chk State := do
  let (base, log2) ← regionOf (s.getS a)
  let e ← s.entryFor base log2
  ownerCheck s.cur.key.agent e false
  s.popCheck base log2
  if log2 < 17 ∨ e.pair then regionFault 0x01 4 base
  else if Config.tokenCap ≤ s.tableFill e.die then regionFault 0x12 0x101 base
  else if s.cur.busyIn base (2 ^ log2) then .ok s.interlock
  else
    let lo := s.half e false
    .ok ({ s with tokens := dropEntry s.tokens e.job base log2 ++ [lo, s.half e true] }.ownDone d lo)

/-- OWN.SPLIT (R122). -/
def execOwnSplit (d a : BitVec 5) (s : State) : Res := outcome .scalar s (ownSplit d a s)

/-- The first of two entries that a test takes decides a JOIN's fault (R122). -/
def joinCheck (me : AgentId) (lo hi : Entry) (base : Nat) : Chk Unit :=
  if lo.st = .lost ∨ hi.st = .lost then regionFault 0x07 0 base
  else if lo.owner ≠ me ∨ hi.owner ≠ me then regionFault 0x05 0 base
  else if lo.st = .shared then regionFault 0x06 lo.shareCount base
  else if hi.st = .shared then regionFault 0x06 hi.shareCount base
  else if lo.st = .window ∨ hi.st = .window then regionFault 0x13 0 base
  else if lo.st ≠ hi.st ∨ lo.homeAgent ≠ hi.homeAgent ∨ lo.pair ∨ hi.pair then regionFault 0x01 4 base
  else .ok ()

/-- JOIN: one home holds the entries of both halves (R119, R122, R267, R332). -/
def ownJoin (d a : BitVec 5) (s : State) : Chk State := do
  let (base, log2) ← regionOf (s.getS a)
  match findEntry s.tokens s.cur.bind.job base log2 with
  | some e => if s.homeAlive e then .ok (s.ownDone d e) else regionFault 0x07 0 base
  | none =>
    let lo ← s.entryFor base (log2 - 1)
    let hi ← match findEntry s.tokens s.cur.bind.job (base + 2 ^ (log2 - 1)) (log2 - 1) with
      | some e => if e.die ≠ lo.die then regionFault 0x05 0 base else if s.homeAlive e then .ok e else regionFault 0x07 0 base
      | none => regionFault 0x05 0 base
    joinCheck s.cur.key.agent lo hi base
    s.popCheck base log2
    if s.cur.busyIn base (2 ^ log2) then .ok s.interlock
    else
      let e := { lo with log2 := log2, pubs := 0, paired := false, forwards := s.frameDies lo.job base log2 lo.die }
      let rest := dropEntry (dropEntry s.tokens lo.job lo.base lo.log2) hi.job hi.base hi.log2
      .ok ({ s with tokens := rest ++ [e] }.ownDone d e)

/-- OWN.JOIN (R122). -/
def execOwnJoin (d a : BitVec 5) (s : State) : Res := outcome .scalar s (ownJoin d a s)

/-- SHARE (R122, R270); the receiver is tested last (log 98). -/
def ownShare (d a b : BitVec 5) (s : State) : Chk State := do
  let (base, log2) ← regionOf (s.getS a)
  let e ← s.entryFor base log2
  let t : AgentId := (s.getS b).setWidth 32
  if badAgent t then regionFault 0x01 4 base
  else
    ownerCheck s.cur.key.agent e true
    if 255 ≤ e.shareCount then regionFault 0x12 0x100 base
    else if e.sharesOf t = 0 ∧ Config.shareCap ≤ s.storeFill e.die then regionFault 0x12 0x102 base
    else
      s.receiverCheck e t false
      if s.cur.busyIn base (2 ^ log2) || !s.fencedFor t then .ok s.interlock
      else
        let e' := { e with shares := addShare e.shares t, st := .shared }
        .ok (({ s with tokens := putEntry s.tokens e' }.transferred e' t).ownDone d e')

/-- OWN.SHARE (R122). -/
def execOwnShare (d a b : BitVec 5) (s : State) : Res := outcome .scalar s (ownShare d a b s)

/-- DROP (R122, R123). -/
def ownDrop (d a : BitVec 5) (s : State) : Chk State := do
  let (base, log2) ← regionOf (s.getS a)
  let e ← s.entryFor base log2
  let me := s.cur.key.agent
  if e.st = .lost then regionFault 0x07 0 base
  else if e.sharesOf me = 0 then regionFault 0x05 0 base
  else if s.cur.busyIn base (2 ^ log2) || !s.fencedFor e.owner then .ok s.interlock
  else
    let e' := e.dropOne me
    .ok (({ s with tokens := putEntry s.tokens e' }.transferred e' e'.owner).ownDone d e')

/-- OWN.DROP (R122). -/
def execOwnDrop (d a : BitVec 5) (s : State) : Res := outcome .scalar s (ownDrop d a s)

/-- The home die that a region's base has, entry or not: of its window's core, or of its base page (R267). -/
def State.dieOfBase (s : State) (base : Nat) : Option Nat :=
  if inWindows base then some (dieOf (windowCore base))
  else match s.leafFor s.cur.key.core s.cur.bind.job base with
    | .ok (p, l) => some (homeDie (leafPa p l base (dieOf s.cur.key.core)))
    | .error _ => none

/-- The QRY word of a region: state 7 without an entry, LOST on a failed die (R119, R120, R281). DESIGN CHOICE: with state 7
the word holds the log2 of its region word and zeros besides (log 100). -/
def State.qryWord (s : State) (base log2 : Nat) : Word :=
  match findEntry s.tokens s.cur.bind.job base log2 with
  | some e => if s.homeAlive e then e.qry s.cur.key.agent else BitVec.ofNat 64 (4 + log2 * 65536)
  | none =>
    if (s.dieOfBase base).elim false fun d => s.deadDies.contains d then BitVec.ofNat 64 (4 + log2 * 65536)
    else BitVec.ofNat 64 (7 + log2 * 65536)

/-- QRY (R120, R122, R281). -/
def ownQry (d a : BitVec 5) (s : State) : Chk State := do
  let (base, log2) ← regionOf (s.getS a)
  .ok ((s.setS d (s.qryWord base log2)).advance .scalar)

/-- OWN.QRY (R120). -/
def execOwnQry (d a : BitVec 5) (s : State) : Res := outcome .scalar s (ownQry d a s)

/-- WAIT: it blocks until the caller owns the region or holds a share, then acquires at .pkg (R122, R123, R259). -/
def ownWait (d a : BitVec 5) (s : State) : Chk State := do
  let (base, log2) ← regionOf (s.getS a)
  let e ← s.entryFor base log2
  let me := s.cur.key.agent
  if e.st = .lost then regionFault 0x07 0 base
  else if e.owner = me ∨ e.sharesOf me ≠ 0 then
    .ok ((s.acquire .pkg).ownDone d e)
  else .ok s

/-- OWN.WAIT (R122). -/
def execOwnWait (d a : BitVec 5) (s : State) : Res := outcome .scalar s (ownWait d a s)

/-- CLAIM: supervisor only; a LOST region becomes the caller's (R11, R122, R283). DEDUCED: the privilege is tested before the region
word, in the order of R78 (log 123). -/
def ownClaim (d a : BitVec 5) (s : State) : Chk State := do
  if !s.cur.bind.supervisor then .error (fIllegal 1)
  else
    let (base, log2) ← regionOf (s.getS a)
    let e ← s.entryFor base log2
    let me := s.cur.key.agent
    if e.st = .lost then
      let e' := { e with owner := me, homeAgent := me, st := .excl, shares := [], writers := 0, closing := false }
      let s := { s with tokens := putEntry s.tokens e' }.audit 3 me (bytesOf 8 (s.getS a).toNat)
      .ok (((s.l1DropRegion s.cur.key.core e.job base (2 ^ log2)).wakeRegion e.job base (2 ^ log2)).ownDone d e')
    else .ok (s.ownDone d e)

/-- OWN.CLAIM (R122). -/
def execOwnClaim (d a : BitVec 5) (s : State) : Res := outcome .scalar s (ownClaim d a s)

/-! ### WIN (R125) -/

/-- A writer set that R124 refuses. -/
def badWriters (w : Word) : Bool :=
  let k := wbits w 0 4
  decide (wbits w 4 28 ≠ 0) || decide (7 ≤ k) || (decide (k ≠ 0) && decide (w.toNat / 2 ^ 32 ≠ 0))
    || (decide (k = 0) && badAgent (BitVec.ofNat 32 (w.toNat / 2 ^ 32)))

/-- The conditions of WCLOSE, WWAIT, WCNT and WRST: the owner of a WINDOW region (R125). DESIGN CHOICE: LOST is tested before
the owner (log 101). -/
def State.windowFor (s : State) (a : BitVec 5) : Chk Entry := do
  let (base, log2) ← regionOf (s.getS a)
  let e ← s.entryFor base log2
  if e.st = .lost then regionFault 0x07 0 base
  else if e.owner ≠ s.cur.key.agent then regionFault 0x05 0 base
  else if e.st ≠ .window then regionFault 0x13 0 base
  else .ok e

/-- WOPEN (R124, R125). -/
def winOpen (d a b : BitVec 5) (s : State) : Chk State := do
  let (base, log2) ← regionOf (s.getS a)
  if badWriters (s.getS b) then regionFault 0x01 4 base
  else
    let e ← s.entryFor base log2
    ownerCheck s.cur.key.agent e false
    if s.cur.busyIn base (2 ^ log2) then .ok s.interlock
    else
      let e' := { e with st := .window, writers := s.getS b, counter := 0, closing := false }
      .ok (({ s with tokens := putEntry s.tokens e' }.unhold.setS d 0).advance .scalar)

/-- WOPEN (R125). -/
def execWopen (d a b : BitVec 5) (s : State) : Res := outcome .scalar s (winOpen d a b s)

/-- WCLOSE: no new put is admitted, and it waits for the puts that have passed their check (R125). -/
def winClose (d a : BitVec 5) (s : State) : Chk State := do
  let e ← s.windowFor a
  if s.slots.any fun t => t.putsIn e.job e.base (2 ^ e.log2) then
    .ok { s.interlock with tokens := putEntry s.tokens { e with closing := true } }
  else .ok (({ s with tokens := putEntry s.tokens e.close }.unhold.setS d e.counter).advance .scalar)

/-- WCLOSE (R125). -/
def execWclose (d a : BitVec 5) (s : State) : Res := outcome .scalar s (winClose d a s)

/-- WWAIT: it blocks until the counter reaches s(b), then acquires (R125). -/
def winWait (d a b : BitVec 5) (s : State) : Chk State := do
  let e ← s.windowFor a
  if e.counter.ult (s.getS b) then .ok s
  else .ok (((s.acquire (if wbits e.writers 0 4 = 6 then .job else .pkg)).setS d e.counter).advance .scalar)

/-- WWAIT (R125). -/
def execWwait (d a b : BitVec 5) (s : State) : Res := outcome .scalar s (winWait d a b s)

/-- WCNT (R125). -/
def execWcnt (d a : BitVec 5) (s : State) : Res :=
  outcome .scalar s ((s.windowFor a).map fun e => (s.setS d e.counter).advance .scalar)

/-- WRST (R125). -/
def execWrst (d a : BitVec 5) (s : State) : Res :=
  outcome .scalar s ((s.windowFor a).map fun e =>
    ({ s with tokens := putEntry s.tokens { e with counter := 0 } }.setS d e.counter).advance .scalar)

end Sys2Proof.Machine
end

