-- ==== Sys2Proof/Machine/Sync.lean ====
section
/-! DEFINITION. Stream counters, barriers, MWAIT, ICSYNC, SLEEP (R17, R126–R130) and the handle and offset-map forms
(R131). -/

namespace Sys2Proof.Machine

/-! ### POST and WAIT -/

/-- A POST of a stream: F_COUNT when the counter would pass 65,535 (R17). -/
def postK (k : BitVec 4) (n : Nat) (s : State) : Chk State :=
  if 65535 < (s.cur.getK k).toNat + n then .error (flt 0x12 k.toNat 0)
  else .ok (s.upd fun t => t.setK k (BitVec.ofNat 16 ((t.getK k).toNat + n)))

/-- A WAIT of a stream: blocked without effect, or the count is subtracted and the stream goes on (R17, R117). -/
def waitK (e : Stream) (k : BitVec 4) (n : Nat) (s : State) : Res :=
  if (s.cur.getK k).toNat < n then .next s
  else .next ((s.upd fun t => t.setK k (BitVec.ofNat 16 ((t.getK k).toNat - n))).advance e)

/-- The count of the scalar POST and WAIT (R84). -/
def State.syncCount (s : State) (a : BitVec 5) : Nat := if a = 0 then 1 else wbits (s.getS a) 0 16

/-- POST (R17, R84). -/
def execPost (a : BitVec 5) (k : BitVec 4) (s : State) : Res :=
  outcome .scalar s ((postK k (s.syncCount a) s).map fun s => s.advance .scalar)

/-- WAIT (R17, R84). -/
def execWait (a : BitVec 5) (k : BitVec 4) (s : State) : Res := waitK .scalar k (s.syncCount a) s

/-! ### Barriers (R126) -/

/-- The barrier-table entry of a launch record: scope code and count (R307). -/
def Launch.barrier (l : Launch) (n : Nat) : BarrierDecl :=
  { scope := BitVec.ofNat 8 (l.byte (0x180 + 4 * n)), count := l.num8 (0x182 + 4 * n) 2 }

/-- The instance of a scope that holds a core. -/
def scopeInst (sc : Scope) (g : CoreId) : Nat :=
  match sc with
  | .core => g.toNat
  | .cluster => clusterOf g
  | .die => dieOf g
  | .quad => dieOf g / 8
  | _ => 0

/-- A barrier instance; one not listed is in phase 0 with no arrivals. -/
def findBarrier (bs : List BarrierInst) (n inst : Nat) : BarrierInst :=
  match bs with
  | [] => { barrier := n, inst := inst, phase := 0, arrivals := 0 }
  | b :: r => if b.barrier = n ∧ b.inst = inst then b else findBarrier r n inst

def putBarrier (bs : List BarrierInst) (b : BarrierInst) : List BarrierInst :=
  match bs with
  | [] => [b]
  | x :: r => if x.barrier = b.barrier ∧ x.inst = b.inst then b :: r else x :: putBarrier r b

/-- One arrival: the phase completes when the arrivals reach the count (R126). -/
def BarrierInst.arrive (b : BarrierInst) (count : Nat) : BarrierInst :=
  if count ≤ b.arrivals + 1 then { b with arrivals := 0, phase := b.phase + 1 } else { b with arrivals := b.arrivals + 1 }

/-- A launch replaced by another of its number. -/
def putLaunch (ls : List Launch) (l : Launch) : List Launch := ls.map fun x => if x.num = l.num then l else x

/-- The barrier a SYNC form names, or F_ILLEGAL with detail 2 (R78, R84, R235). -/
def State.barrierFor (s : State) (n : BitVec 4) (sc : Scope) : Chk Launch :=
  match s.launch? with
  | none => .error (fIllegal 2)
  | some l =>
    if l.byte 0x72 ≤ n.toNat ∨ (l.barrier n.toNat).scope.toNat ≠ sc.code then .error (fIllegal 2) else .ok l

/-- The caller's last ARRIVE at a barrier is in a phase that is still open. -/
def markOpen (l : Launch) (m : ArriveMark) : Bool := decide ((findBarrier l.barriers m.barrier m.inst).phase ≤ m.phase)

def Slot.mark (t : Slot) (n : Nat) : Option ArriveMark := t.arrives.find? fun m => m.barrier = n

def Slot.dropMark (t : Slot) (n : Nat) : Slot := { t with arrives := t.arrives.filter fun m => m.barrier ≠ n }

def Slot.addMark (t : Slot) (m : ArriveMark) : Slot := { t with arrives := m :: (t.dropMark m.barrier).arrives }

/-- ARRIVE (R126): a release at the barrier's scope, then one arrival in the current phase; it does not issue while the
caller's last phase is open. -/
def execArrive (n : BitVec 4) (sc : Scope) (s : State) : Res :=
  outcome .scalar s ((s.barrierFor n sc).map fun l =>
    if (s.cur.mark n.toNat).elim false (markOpen l) then s
    else if !s.cur.released sc false then s.interlock
    else
      let inst := scopeInst sc s.cur.key.core
      let b := findBarrier l.barriers n.toNat inst
      let l' := { l with barriers := putBarrier l.barriers (b.arrive (l.barrier n.toNat).count) }
      let s := { s.unhold with launches := putLaunch s.launches l' }
      (s.upd fun t => t.addMark { barrier := n.toNat, inst := inst, phase := b.phase }).advance .scalar)

/-- BWAIT (R126): it blocks until the phase of the caller's last ARRIVE completes, then acquires. -/
def execBwait (n : BitVec 4) (sc : Scope) (s : State) : Res :=
  outcome .scalar s ((s.barrierFor n sc).map fun l =>
    match s.cur.mark n.toNat with
    | none => s.advance .scalar
    | some m =>
      if markOpen l m then s
      else ((s.upd fun t => t.dropMark n.toNat).acquire sc).advance .scalar)

/-! ### MWAIT and SLEEP (R127, R130) -/

/-- The stream's wait is over. -/
def State.wakeDone (s : State) : State := (s.upd fun t => { t with waiting := .none }).advance .scalar

/-- An MWAIT that would issue now finds its word equal, and so has to wait (R127, R220). -/
def State.mwaitBlocks (s : State) (a b : BitVec 5) : Bool :=
  match s.check1 (s.getS a) 8 .load with
  | .error _ => false
  | .ok acc => s.mayLoad acc 8 && match s.loadValue acc (s.getS a) 8 false with
    | .error _ => false
    | .ok (v, _) => decide (ofBytes v = (s.getS b).toNat)

/-- MWAIT (R127). -/
def execMwaitSync (a b : BitVec 5) (s : State) : Res :=
  match s.cur.waiting with
  | .woken => .next s.wakeDone
  | .monitor .. => .next s
  | _ =>
    let va := s.getS a
    outcome .scalar s (match s.check1 va 8 .load with
      | .error f => .error f
      | .ok acc =>
        if !s.mayLoad acc 8 then .ok (s.holdOn acc)
        else match s.loadValue acc va 8 false with
          | .error f => .error f
          | .ok (v, s') =>
            if ofBytes v ≠ (s.getS b).toNat then .ok (s'.unhold.advance .scalar)
            else .ok (s'.unhold.upd fun t =>
              { t with waiting := .monitor (acc.key / 64) va.toNat (s.cycle + Config.mwaitLimit) acc.ch s.insn }))

/-- MWAIT_TIMEOUT: 2^20 CCLK after its read the MWAIT wakes (R127). -/
def execMwaitTimeout (s : State) : Res :=
  .next (s.onSlot s.ev.slot fun s =>
    match s.cur.waiting with
    | .monitor _ _ u .. => if u ≤ s.cycle then s.upd fun t => { t with waiting := .woken } else s
    | _ => s)

/-- MONITOR_EVICTION: the monitor is evicted, or the waiter wakes spuriously (R127). -/
def execMonitorEviction (s : State) : Res :=
  .next (s.onSlot s.ev.slot fun s =>
    match s.cur.waiting with
    | .monitor .. => s.upd fun t => { t with waiting := .woken }
    | _ => s)

/-- A circuit of the acting thread's launch is torn down: an MWAIT whose read went over it and that still waits raises
F_NOCIRC with detail 3 and its handle (R349). -/
def State.dropMonitor (s : State) (ch : Nat) : State :=
  match s.cur.waiting with
  | .monitor _ va _ c w =>
    if c = some ch then
      (s.upd fun t => { t with waiting := .none }).raiseAt .scalar
        { flt := flt 0x0D (3 + ch * 256) (BitVec.ofNat 64 va), fpc := pcWord s.cur.scalar.pc, finsn := w }
    else s
  | _ => s

/-- A pre-emption request ends an MWAIT and a SLEEP (R127, R130). -/
def Slot.wakeForRequest (t : Slot) : Slot :=
  match t.waiting with
  | .monitor .. => { t with waiting := .woken }
  | .sleeping _ => { t with waiting := .woken }
  | _ => t

/-- SLEEP: blocked for s(a)[31:0] CCLK; 0 is a NOP (R130). -/
def execSleep (a : BitVec 5) (s : State) : Res :=
  match s.cur.waiting with
  | .woken => .next s.wakeDone
  | .sleeping _ => .next s
  | _ =>
    if wbits (s.getS a) 0 32 = 0 then .next (s.advance .scalar)
    else .next (s.upd fun t => { t with waiting := .sleeping (s.cycle + wbits (s.getS a) 0 32) })

/-- SLEEP_EXPIRY: the count runs out (R130). -/
def execSleepExpiry (s : State) : Res :=
  .next (s.onSlot s.ev.slot fun s =>
    match s.cur.waiting with
    | .sleeping u => if u ≤ s.cycle then s.upd fun t => { t with waiting := .woken } else s
    | _ => s)

/-- ICSYNC: FENCE.ACQ at .pkg; the words of the thread's streams are fetched afresh from then on, but those a loop
buffer holds (R129). -/
def execIcsync (s : State) : Res := .next ((s.acquire .pkg).advance .scalar)

/-! ### Handles and offset maps (R131) -/

/-- The checks of the n doublewords from an address up; the first that fails decides the fault (R78, R131). -/
def State.checkWords (s : State) (va : Word) (kind : AccKind) : Nat → Chk (List Access)
  | 0 => .ok []
  | n + 1 =>
    match s.check1 va 8 kind with
    | .error f => .error f
    | .ok a => (State.checkWords s (va + 8) kind n).map fun as => a :: as

/-- The doublewords that checked accesses read as plain loads (R131). -/
def State.loadWords (s : State) (va : Word) : List Access → Chk (List Word × State)
  | [] => .ok ([], s)
  | a :: as =>
    match s.loadValue a va 8 true with
    | .error f => .error f
    | .ok (v, s') =>
      match State.loadWords s' (va + 8) as with
      | .error f => .error f
      | .ok (vs, s'') => .ok (BitVec.ofNat 64 (ofBytes v) :: vs, s'')

/-- The access that a read of several doublewords waits for: one that may not be performed, else the first that crosses a circuit
until its request has crossed. DESIGN CHOICE: the read is one request (R345, log 143). -/
def State.readWaits (s : State) (accs : List Access) : Option Access :=
  (accs.find? fun a => !s.mayAccess a 8).or ((accs.find? fun a => a.ch.isSome).filter fun a => !s.answered a)

/-- A read of n doublewords by the scalar stream, each checked as a plain load, with what to do with them (R131). -/
def readWords (va : Word) (n align : Nat) (f : List Word → State → State) (s : State) : Chk State :=
  if va.toNat % align ≠ 0 then .error (flt 0x02 0 va)
  else match s.checkWords va .load n with
    | .error e => .error e
    | .ok accs =>
      match s.readWaits accs with
      | some a => .ok (s.holdOn a)
      | none =>
        match s.loadWords va accs with
        | .error e => .error e
        | .ok (ws, s') => .ok ((f ws s'.unhold).advance .scalar)

/-- The handle of four words. -/
def handleOf (ws : List Word) : Handle :=
  { w0 := ws[0]?.getD 0, w1 := ws[1]?.getD 0, w2 := ws[2]?.getD 0, w3 := ws[3]?.getD 0 }

/-- HLD (R131). -/
def execHld (hd : BitVec 4) (a : BitVec 5) (s : State) : Res :=
  outcome .scalar s (readWords (s.getS a) 4 32 (fun ws s => s.upd fun t => t.setH hd (handleOf ws)) s)

/-- A handle's 32 bytes. -/
def Handle.bytes (h : Handle) : List Byte :=
  bytesOf 8 h.w0.toNat ++ bytesOf 8 h.w1.toNat ++ bytesOf 8 h.w2.toNat ++ bytesOf 8 h.w3.toNat

/-- HST (R131). -/
def execHst (hd : BitVec 4) (a : BitVec 5) (s : State) : Res :=
  let va := s.getS a
  outcome .scalar s ((s.check1 va 32 .store).map fun acc => storeFrom va (s.cur.getH hd).bytes false acc s)

/-- HSETW (R131). -/
def execHsetw (hd : BitVec 4) (a : BitVec 5) (w : BitVec 2) (s : State) : Res :=
  .next ((s.upd fun t => t.setH hd ((t.getH hd).setWord w (s.getS a))).advance .scalar)

/-- HGETW (R131). -/
def execHgetw (d : BitVec 5) (ha : BitVec 4) (w : BitVec 2) (s : State) : Res :=
  .next ((s.setS d ((s.cur.getH ha).word w)).advance .scalar)

/-- HADDB (R131). -/
def execHaddb (hd : BitVec 4) (a : BitVec 5) (s : State) : Res :=
  .next ((s.upd fun t => t.setH hd { t.getH hd with w0 := (t.getH hd).w0 + s.getS a }).advance .scalar)

/-- Six signed 32-bit coefficients in three doublewords, c0 first (R131). -/
def offMapOf (ws : List Word) : OffMap :=
  Vector.ofFn fun i : Fin 6 => BitVec.ofNat 32 ((ws[i.val / 2]?.getD 0).toNat / 2 ^ (32 * (i.val % 2)))

/-- OMLD (R131): check(s(a), 24, load) at 8-byte alignment. -/
def execOmld (om : BitVec 4) (a : BitVec 5) (s : State) : Res :=
  outcome .scalar s (readWords (s.getS a) 3 8 (fun ws s => s.upd fun t => t.setOm om (offMapOf ws)) s)

end Sys2Proof.Machine
end

