-- ==== Sys2Proof/Machine/Queue.lean ====
section
/-! DEFINITION. The completion ring and the work deque as the scalar stream uses them (R133–R135), and the event that
lets a waiting record enter the ring (R134). -/

namespace Sys2Proof.Machine

/-! ### The completion ring -/

/-- n bytes at an offset of the head record (R33, R239). DESIGN CHOICE: BQ, CQPOP and CQPEEK take the record from the ring's own head,
and the device posts one, whether or not an MMA streams from the bank group that the ring lies in (R184, log 128). -/
def State.headNat (s : State) (o n : Nat) : Nat := memNat s.mem (s.cur.ringBase + s.cur.cqHead * 32 + o) n

/-- A doubleword of the head record. -/
def State.headWord (s : State) (i : Nat) : Word := BitVec.ofNat 64 (s.headNat (8 * i) 8)

def State.ringEmpty (s : State) : Bool := decide (s.cur.cqCount = 0)

/-- BQ.EMPTY (R133). -/
def execBqEmpty (off : BitVec 16) (s : State) : Res := branchIf s.ringEmpty off s
/-- BQ.NONEMPTY (R133). -/
def execBqNonempty (off : BitVec 16) (s : State) : Res := branchIf (!s.ringEmpty) off s
/-- BQ.POISON: the head record's poison mask is not zero (R133). -/
def execBqPoison (off : BitVec 16) (s : State) : Res :=
  branchIf (!s.ringEmpty && decide (s.headNat 16 8 ≠ 0)) off s
/-- BQ.FAULT: the head record's fault code is not zero (R133). -/
def execBqFault (off : BitVec 16) (s : State) : Res :=
  branchIf (!s.ringEmpty && decide (s.headNat 24 4 ≠ 0)) off s
/-- BQ.OK: the head record's status is OK (R133). -/
def execBqOk (off : BitVec 16) (s : State) : Res :=
  branchIf (!s.ringEmpty && decide (s.headNat 2 2 = 0)) off s

/-- A CQPOP or CQPEEK that returns a LAUNCH record acquires at .pkg what the launch's threads released when they retired
(R259); any other record, at .thread (R134). -/
def State.acquireHead (s : State) : State := s.acquire (if s.headNat 0 2 = 7 then .pkg else .thread)

/-- CQPOP: e0–e3 take the head record, d its first doubleword, and the head advances; 0 on an empty ring (R134). -/
def execCqpop (d : BitVec 5) (s : State) : Res :=
  if s.ringEmpty then .next ((s.setS d 0).advance .scalar)
  else
    let w0 := s.headWord 0
    let w1 := s.headWord 1
    let w2 := s.headWord 2
    let w3 := s.headWord 3
    .next (((s.acquireHead.upd fun t =>
      { (((t.setE 0 w0).setE 1 w1).setE 2 w2).setE 3 w3 with
        cqHead := (t.cqHead + 1) % Config.ringSize, cqCount := t.cqCount - 1, ringBufs := t.ringBufs.drop 1 }).setS d w0).advance .scalar)

/-- CQPEEK (R134). -/
def execCqpeek (d : BitVec 5) (s : State) : Res :=
  if s.ringEmpty then .next ((s.setS d 0).advance .scalar)
  else .next ((s.acquireHead.setS d (s.headWord 0)).advance .scalar)

/-- CQWAIT: blocks until the ring holds a record (R134). -/
def execCqwait (s : State) : Res := if s.ringEmpty then .next s else .next (s.advance .scalar)

/-- CQWAITY: as CQWAIT; while it is blocked the thread counts as yielded (R134, R322), from the cycle in which it stands at the word
without a record (R220). -/
def execCqwaity (s : State) : Res :=
  if s.ringEmpty then .next (s.upd fun t => { t with waiting := .yielded }) else .next s.wakeDone

/-- HELD_RECORD_ENTRY: the oldest waiting record of a slot's ring enters it when an entry is free (R134). -/
def execHeldRecordEntry (s : State) : Res := .next (s.onSlot s.ev.slot State.postWaiting)

/-! ### The work deque (R135); the bottom end is the head of the list -/

/-- The deque's items as a launch sees them: another launch's deque reads as empty (R135). -/
def Core.dequeFor (c : Core) (launch : Nat) : List Word := if c.dequeLaunch = launch then c.deque else []

/-- DQPUSH: a release at .die, then the item goes to the bottom: 0 pushed, 1 full or another launch's, 2 all-ones
(R135). -/
def execDqpush (d a : BitVec 5) (s : State) : Res :=
  if !s.cur.released .die false then .next s.interlock
  else
    let s := s.unhold
    let v := s.getS a
    let c := s.ownCore
    let me := s.cur.bind.launch
    if v = BitVec.allOnes 64 then .next ((s.setS d 2).advance .scalar)
    else if (!c.deque.isEmpty ∧ c.dequeLaunch ≠ me) ∨ Config.dequeSize ≤ c.deque.length then
      .next ((s.setS d 1).advance .scalar)
    else .next (((s.updCore c.g fun c => { c with dequeLaunch := me, deque := v :: c.deque }).setS d 0).advance .scalar)

/-- DQPOP: the bottom item, with an acquire at .die, or all-ones (R135). -/
def execDqpop (d : BitVec 5) (s : State) : Res :=
  let c := s.ownCore
  match c.dequeFor s.cur.bind.launch with
  | [] => .next ((s.setS d (BitVec.allOnes 64)).advance .scalar)
  | v :: rest => .next ((((s.updCore c.g fun c => { c with deque := rest }).acquire .die).setS d v).advance .scalar)

/-- DQSTEAL: the top item of a core of the caller's die, with an acquire at .die, or all-ones (R135). -/
def execDqsteal (d a : BitVec 5) (s : State) : Res :=
  let v := s.getS a
  if 15 < v.toNat then outcome .scalar s (.error (fIllegal 4))
  else
    let g : CoreId := BitVec.ofNat 9 (16 * dieOf s.cur.key.core + v.toNat)
    let q := (s.core g).dequeFor s.cur.bind.launch
    match q.getLast? with
    | none => .next ((s.setS d (BitVec.allOnes 64)).advance .scalar)
    | some x => .next ((((s.updCore g fun c => { c with deque := c.deque.dropLast }).acquire .die).setS d x).advance .scalar)

/-- DQLEN (R135). -/
def execDqlen (d : BitVec 5) (s : State) : Res :=
  .next ((s.setS d (BitVec.ofNat 64 (s.ownCore.dequeFor s.cur.bind.launch).length)).advance .scalar)

end Sys2Proof.Machine
end

