-- ==== Sys2Proof/Machine/System.lean ====
section
/-! DEFINITION. Control and status registers (R24–R31, R137), traps and returns (R138), format slots and exchange
registers (R139), and the events of handler entry (R236–R238). -/

namespace Sys2Proof.Machine

/-! ### The CSRs -/

/-- The access class of a CSR (R24). -/
inductive CsrAccess | ro | rw | srw | absent
deriving DecidableEq, Repr

/-- The CSR map's access column (R25). -/
def csrAccess (n : Nat) : CsrAccess :=
  if n ∈ [0x000, 0x001, 0x008, 0x009, 0x010, 0x011, 0x012, 0x013, 0x014, 0x015] then .rw
  else if n = 0x800 then .srw
  else if n ∈ [0x016, 0x020, 0x021, 0x100, 0x120, 0x121, 0x122, 0x123, 0x124, 0x130, 0x131, 0x132, 0x140, 0x141]
    ∨ (0x030 ≤ n ∧ n ≤ 0x035) ∨ (0x110 ≤ n ∧ n ≤ 0x115) then .ro
  else .absent

/-- The value of a CSR (R25). -/
def State.csrRead (s : State) (n : Nat) : Word :=
  let t := s.cur
  let w (x : Nat) : Word := BitVec.ofNat 64 x
  match n with
  | 0x000 => t.vcsr.word
  | 0x001 => t.ftoff.setWidth 64
  | 0x008 => t.fscratch0
  | 0x009 => t.fscratch1
  | 0x010 => t.tvec
  | 0x011 => t.fcause.setWidth 64
  | 0x012 => t.fstream.setWidth 64
  | 0x013 => t.fpc
  | 0x014 => t.finsn.setWidth 64
  | 0x015 => t.faddr
  | 0x016 => t.tstatus
  | 0x020 => w (t.cqCount + t.cqHead * 256 + t.cqTail * 65536)
  | 0x021 => w t.ringBase
  | 0x100 => w t.bind.vcap
  | 0x120 => w (dieOf t.key.core + t.bind.partition.toNat % 256 * 256)
  | 0x121 => w (t.key.core.toNat % 16 + t.key.core.toNat * 65536)
  | 0x122 => w (t.key.slot.toNat + t.key.agent.toNat * 2 ^ 32)
  | 0x123 => t.bind.moduleId.setWidth 64
  | 0x124 => w (t.bind.launch % 2 ^ 32)
  | 0x130 => w t.bind.spbaseA
  | 0x131 => w t.bind.spbaseB
  | 0x132 => w t.bind.spsize
  | 0x140 => w s.cycle
  | 0x141 => w (s.cycle % 2 ^ 64 / 4096)
  | 0x800 => s.ownCore.govAge.setWidth 64
  | _ =>
    if 0x030 ≤ n ∧ n ≤ 0x035 then (t.scalar.lc (n - 0x030)).setWidth 64
    else if h : 0x110 ≤ n ∧ n ≤ 0x115 then t.bind.idx[n - 0x110]
    else 0

/-- A write of a CSR changes the fields the CSR defines (R7, R137); GOV_AGE is stored as at least 16 (R31). TVEC and FPC keep every
bit but TVEC[1:0]; a program counter takes bits [51:2] of them (R9, R25; DEDUCED, log 16). -/
def State.csrWrite (s : State) (n : Nat) (v : Word) : State :=
  match n with
  | 0x000 => s.upd fun t => { t with vcsr := vcsrOf v }
  | 0x001 => s.upd fun t => { t with ftoff := v.setWidth 4 }
  | 0x008 => s.upd fun t => { t with fscratch0 := v }
  | 0x009 => s.upd fun t => { t with fscratch1 := v }
  | 0x010 => s.upd fun t => { t with tvec := v &&& ~~~ 3#64 }
  | 0x011 => s.upd fun t => { t with fcause := v.setWidth 24 }
  | 0x012 => s.upd fun t => { t with fstream := v.setWidth 2 }
  | 0x013 => s.upd fun t => { t with fpc := v }
  | 0x014 => s.upd fun t => { t with finsn := v.setWidth 32 }
  | 0x015 => s.upd fun t => { t with faddr := v }
  | 0x800 => s.updCore s.cur.key.core fun c => { c with govAge := if v.setWidth 16 < 16#16 then 16 else v.setWidth 16 }
  | _ => s

/-- The checks of a CSR access (R24, R235): an absent number and a write of an RO CSR have detail 0, a user's write of
an SRW CSR detail 1. -/
def State.csrCheck (s : State) (n : Nat) (write : Bool) : Chk Unit :=
  match csrAccess n with
  | .absent => .error (fIllegal 0)
  | .ro => if write then .error (fIllegal 0) else .ok ()
  | .srw => if write && !s.cur.bind.supervisor then .error (fIllegal 1) else .ok ()
  | .rw => .ok ()

/-- A CSR form: the old value goes to d after the write (R137). -/
def csrOp (d : BitVec 5) (csr : BitVec 12) (new : Option (Word → Word)) (s : State) : Res :=
  outcome .scalar s ((s.csrCheck csr.toNat new.isSome).map fun _ =>
    let old := s.csrRead csr.toNat
    let s := match new with
      | none => s
      | some f => s.csrWrite csr.toNat (f old)
    (s.setS d old).advance .scalar)

/-- CSRR (R137). -/
def execCsrr (d : BitVec 5) (csr : BitVec 12) (s : State) : Res := csrOp d csr none s
/-- CSRW (R137). -/
def execCsrw (d a : BitVec 5) (csr : BitVec 12) (s : State) : Res := csrOp d csr (some fun _ => s.getS a) s
/-- CSRS (R137). -/
def execCsrs (d a : BitVec 5) (csr : BitVec 12) (s : State) : Res := csrOp d csr (some fun old => old ||| s.getS a) s
/-- CSRC (R137). -/
def execCsrc (d a : BitVec 5) (csr : BitVec 12) (s : State) : Res := csrOp d csr (some fun old => old &&& ~~~ s.getS a) s

/-! ### SYS (R138) -/

/-- TRAP: cause 0x80 (R138). -/
def execTrap (s : State) : Res := .next (s.raise .scalar (flt 0x80 0 0))
/-- BRK: cause 0x81 (R138). -/
def execBrk (s : State) : Res := .next (s.raise .scalar (flt 0x81 0 0))

/-- ERET: F_ILLEGAL with ih = 0; else the return, after which held faults enter the handler again (R138, R29). -/
def execEret (s : State) : Res :=
  if s.cur.ih then .next (s.upd Slot.returnFrom).afterReturn else .next (s.raise .scalar (fIllegal 0))

/-- A stream ends. -/
def StreamState.finish (x : StreamState) : StreamState :=
  { x with ended := true, stopped := false, halted := false, pending := none, loops := Vector.replicate 6 LoopLevel.off, buf := none }

/-- EXIT once every vector and matrix result has landed: the scalar stream ends, and with ih = 1 every stream stopped
by a fault ends too and the handling is over (R138). -/
def Slot.exit (t : Slot) : Slot :=
  let t := { t with scalar := t.scalar.finish }
  if t.ih then
    let t := allStreams.foldl (fun t e => let x := t.str e
      if x.stopped || x.halted then t.setStr e x.finish else t) t
    { t with ih := false, handled := none, asyncPend := [] }
  else t

/-- EXIT waits for every vector and matrix result; DESIGN CHOICE: MMAs of a stopped matrix stream go on while it waits
(R138, log 102). -/
def execExit (s : State) : Res :=
  if s.cur.vfly.isEmpty && s.cur.mfly.isEmpty then .next (s.unhold.upd Slot.exit).flushRouted else .next s.runMmas.interlock

/-! ### Handler entry as an event -/

/-- HANDLER_ENTRY: a held stopping fault of a slot enters the handler when it may; under STOPALL it first stops the other streams
(R236). -/
def execHandlerEntry (s : State) : Res := .next (s.onSlot s.ev.slot State.takeFault)

/-- ASYNC_HANDLER_ENTRY: the oldest waiting asynchronous entry of a slot (R237). -/
def execAsyncHandlerEntry (s : State) : Res := .next (s.onSlot s.ev.slot State.enterAsync)

/-- FAULT_TO_CORELO: a held stopping fault that goes to Corelo and not to the handler (R238). -/
def execFaultToCorelo (s : State) : Res := .next (s.onSlot s.ev.slot State.coreloPending)

/-- NOT_AN_INSTRUCTION: a stream has issued a word that is no instruction (R77). -/
def execNotAnInstruction (s : State) : Res := .next (s.raise s.ev.stream (fIllegal 0))

/-- INSTRUCTION_FETCH_FAULT: a fault of the fetch, at the fetched address (R76). The manual gives FINSN no value where
no word was fetched: it is free. -/
def execInstructionFetchFault (s : State) : Res :=
  let w := Config.freeWord s.freeCtr
  .next ({ s with freeCtr := s.freeCtr + 1 }.raiseAt s.ev.stream
    { flt := s.ev.flt, fpc := pcWord (s.cur.str s.ev.stream).pc, finsn := w.setWidth 32 })

/-- A thread that a machine check stopped goes on: the faulting stream at its faulting word, and every stream that no
handled or pending fault holds (R238). -/
def Slot.resumeCheck (t : Slot) (c : CoreloHold) : Slot :=
  let t := { t with corelo := none }
  let t := allStreams.foldl (fun t e =>
    if t.handled = some e then t.setStr e { t.str e with halted := false } else t.setStr e (t.str e).resume) t
  t.setStr c.stream { t.str c.stream with pc := toPc c.fpc }

/-- MACHINE_CHECK_RESUME: Corelo resumes a thread that a machine check stopped, as by ERET at FPC with every stream
and MMA resuming; then the faults held meanwhile are taken (R92, R236, R238). -/
def execMachineCheckResume (s : State) : Res :=
  .next (s.onSlot s.ev.slot fun s =>
    match s.cur.corelo with
    | some c => if c.mayResume then (s.upd fun t => t.resumeCheck c).resumeMmas.takeFault else s
    | none => s)

/-! ### Format slots and exchange registers (R139) -/

/-- FTSET (R139). -/
def execFtset (ft : BitVec 4) (a : BitVec 5) (s : State) : Res :=
  .next ((s.upd fun t => t.setFt ft ((s.getS a).setWidth 32)).advance .scalar)
/-- FTGET (R139). -/
def execFtget (d : BitVec 5) (ft : BitVec 4) (s : State) : Res :=
  .next ((s.setS d ((s.cur.getFt ft).setWidth 64)).advance .scalar)
/-- MOVE to an exchange register (R16, R139). -/
def execMoveToE (e : BitVec 3) (a : BitVec 5) (s : State) : Res :=
  .next ((s.upd fun t => t.setE e (s.getS a)).advance .scalar)
/-- MOVE from an exchange register (R16, R139); a register whose vector write has not landed reads as undefined
(R91). -/
def execMoveFromE (d : BitVec 5) (e : BitVec 3) (s : State) : Res :=
  if s.cur.vfly.any fun l => decide (l.ereg.map Prod.fst = some e) then
    .next ({ s with freeCtr := s.freeCtr + 1 }.setS d (Config.freeWord s.freeCtr) |>.advance .scalar)
  else .next ((s.setS d (s.cur.getE e)).advance .scalar)

end Sys2Proof.Machine
end

