-- ==== Sys2Proof/Machine/Launch.lean ====
section
/-! DEFINITION. Launch records (R307–R310), circuit programs as they are read (R337, R338), acceptance and the
pending-launch pool (R311–R313, R275), and the instructions LAUNCH, FSTEP and CIRQ (R136, R140). -/

namespace Sys2Proof.Machine

/-- The little-endian number of n bytes at an offset of a record. -/
def recNat (r : List Byte) (o n : Nat) : Nat := ofBytes ((r.drop o).take n)

def recZero (r : List Byte) (o n : Nat) : Bool := ((r.drop o).take n).all fun b => decide (b = 0)

/-! ### The loop table (R308–R310) -/

/-- Level n of the loop table: bound and kind (0 absent, 1 D, 2 C, 3 T). -/
def loopLevel (r : List Byte) (n : Nat) : Nat × Nat := (recNat r (0x40 + 8 * n) 4, recNat r (0x44 + 8 * n) 4)

def loopLevels (r : List Byte) : List (Nat × Nat) := (List.range 6).map (loopLevel r)

/-- A level creates instances: kind D or C. -/
def spatial (k : Nat) : Bool := decide (k = 1) || decide (k = 2)

/-- The instance count (R308). -/
def instanceCount (ls : List (Nat × Nat)) : Nat := ls.foldl (fun n l => if spatial l.2 then n * l.1 else n) 1

/-- No present level follows an absent one. -/
def levelsDense : List (Nat × Nat) → Bool
  | [] => true
  | l :: t => if l.2 = 0 then t.all (fun x => decide (x.2 = 0)) else levelsDense t

/-- The loop table is well formed (R308). -/
def loopTableOk (ls : List (Nat × Nat)) : Bool :=
  (ls.all fun l => decide (l.2 ≤ 3) && (if l.2 = 0 then decide (l.1 = 0) else decide (1 ≤ l.1)))
    && levelsDense ls && (ls.headD (0, 0)).2 ≠ 0 && decide (instanceCount ls ≤ 2 ^ 24)

/-- The indices of an instance over the levels, the lowest-numbered level most significant; 0 at a T or absent level
(R309). The second part is what is left of the number above the levels given. -/
def indicesOf : List (Nat × Nat) → Nat → List Nat × Nat
  | [], q => ([], q)
  | (b, k) :: rest, q =>
    let (is, q') := indicesOf rest q
    if spatial k then (q' % b :: is, q' / b) else (0 :: is, q')

/-- dlin: the number of the D indices alone (R309). -/
def dlinOf (ls : List (Nat × Nat)) (is : List Nat) : Nat :=
  (ls.zip is).foldl (fun n x => if x.1.2 = 1 then n * x.1.1 + x.2 else n) 0

/-- The die of an instance in a partition (R309). -/
def instanceDie (ls : List (Nat × Nat)) (dies : List Nat) (lin : Nat) : Nat :=
  dies[dlinOf ls (indicesOf ls lin).1 % dies.length]?.getD 0

/-! ### Circuit programs -/

/-- An endpoint word (R337). -/
def endpointOf (w : Nat) : Endpoint := { num := w % 256, port := w / 256 % 256 }

/-- An endpoint that a circuit program of a partition may name (R338, R350). -/
def State.endpointOk (s : State) (j : Job) (e : Endpoint) : Bool :=
  if e.num < 32 then decide (e.port < 8) && j.dies.contains e.num
  else decide (e.num < 36) && decide (e.port < 12) && s.millPorts.contains (e, j.partition)

/-- One entry of a circuit program, checked (R337, R338). -/
def State.progEntry (s : State) (j : Job) (w : List Nat) : Option ProgEntry :=
  let b (o n : Nat) : Nat := (w[o / 8]?.getD 0) / 256 ^ (o % 8) % 256 ^ n
  let step := b 0 4
  let op := b 4 1
  let ch := b 5 1
  let flags := b 6 1
  let cnt := b 7 1
  let src := b 8 2
  let dst := (List.range 4).map fun i => b (10 + 2 * i) 2
  let operand := b 0x14 4
  let rest0 := decide (b 0x12 2 = 0) && decide (b 0x18 8 = 0)
  let noEst := decide (flags = 0) && decide (cnt = 0) && decide (src = 0) && dst.all fun d => decide (d = 0)
  if !rest0 then none
  else match op with
  | 0 => if noEst && decide (ch = 0) && decide (operand = 0) then some { step := step, op := .fin } else none
  | 1 =>
    let ds := (dst.take cnt).map endpointOf
    let se := endpointOf src
    let multi := decide (flags / 2 % 2 = 1)
    let nums := se.num :: ds.map fun d => d.num
    let distinct := decide (nums.eraseDups.length = nums.length)
    let shape := if multi then decide (2 ≤ cnt) && decide (32 ≤ se.num) && ds.all fun d => decide (d.num < 32)
      else decide (cnt = 1)
    if ch < 64 ∧ flags < 4 ∧ 1 ≤ cnt ∧ cnt ≤ 4 ∧ operand = 0 ∧ ((dst.drop cnt).all fun d => decide (d = 0)) ∧ distinct
      ∧ shape ∧ s.endpointOk j se ∧ (ds.all fun d => s.endpointOk j d) then
      some { step := step, op := .establish ch (decide (flags % 2 = 1)) multi se ds }
    else none
  | 2 => if noEst && decide (ch < 64) && decide (operand = 0) then some { step := step, op := .teardown ch } else none
  | 3 => if noEst && decide (ch = 0) then some { step := step, op := .holdUntil operand } else none
  | 4 => if noEst && decide (ch = 0) && decide (operand ≤ step) then some { step := step, op := .jump operand } else none
  | _ => none

/-- The entries of a circuit program up to its END, or none when the sequencer refuses it (R338). `rd` reads a
doubleword or fails. -/
def State.readProg (s : State) (j : Job) (rd : Nat → Option Nat) (addr : Nat) : Nat → Nat → Nat → Option (List ProgEntry)
  | 0, _, _ => none
  | fuel + 1, prev, same =>
    match rd addr, rd (addr + 8), rd (addr + 16), rd (addr + 24) with
    | some a, some b, some c, some d =>
      match s.progEntry j [a, b, c, d] with
      | none => none
      | some e =>
        let same' := if e.step = prev then same + 1 else 1
        if e.step < prev ∨ 64 < same' then none
        else match e.op with
          | .fin => some [e]
          | _ => (State.readProg s j rd (addr + 32) fuel e.step same').map fun t => e :: t
    | _, _, _, _ => none

/-- The circuit program of a record: the empty program at address 0, or the entries read (R307, R338). -/
def State.progOf (s : State) (j : Job) (rd : Nat → Option Nat) (r : List Byte) : Option (List ProgEntry) :=
  let a := recNat r 0x30 8
  if a = 0 then some []
  else if a % 32 ≠ 0 then none
  else s.readProg j rd a 1024 0 0

/-! ### Acceptance -/

/-- The participants that one instance of a barrier's scope can receive (R311). -/
def participants (ls : List (Nat × Nat)) (dies : List Nat) (scope : Nat) : Nat :=
  let n := instanceCount ls
  let on (ds : List Nat) : Nat := ((List.range n).filter fun i => ds.contains (instanceDie ls dies i)).length
  if scope ≤ 4 then dies.foldl (fun m d => max m (on [d])) 0
  else if scope = 5 then (List.range 4).foldl (fun m r => max m (on (dies.filter fun d => d / 8 = r))) 0
  else n

/-- The barrier table (R126, R307, R311). -/
def barriersOk (r : List Byte) (ls : List (Nat × Nat)) (dies : List Nat) : Bool :=
  let cnt := recNat r 0x72 1
  decide (cnt ≤ 16) && (List.range 16).all fun i =>
    let o := 0x180 + 4 * i
    if i < cnt then
      let sc := recNat r o 1
      let n := recNat r (o + 2) 2
      decide (2 ≤ sc) && decide (sc ≤ 6) && decide (recNat r (o + 1) 1 = 0) && decide (1 ≤ n) && decide (n ≤ 2048)
        && decide (n ≤ participants ls dies sc)
    else recZero r o 4

/-- The route table and the handler index (R233). -/
def routesOk (r : List Byte) (n : Nat) : Bool :=
  let dest (c : Nat) : Nat := recNat r (0x78 + c) 1
  decide (dest 0 = 0) && ([1, 2, 3, 4].all fun c => decide (dest c ≤ 4)) && ([0, 3, 4].contains (dest 5))
    && decide (dest 6 = 0) && decide (dest 7 = 0)
    && (!([1, 2, 3, 4].any fun c => decide (dest c = 2)) || decide (recNat r 0x74 4 < n))

/-- The fields of a record that stand for themselves (R307, R311). -/
def fieldsOk (r : List Byte) : Bool :=
  let tpc := recNat r 5 1
  let sp := recNat r 8 8
  let entry (i : Nat) : Nat := recNat r (0x10 + 8 * i) 8
  decide (r.length = 512) && decide (recNat r 0 2 = 1) && decide (recNat r 2 2 < 64) && decide (recNat r 4 1 < 8)
    && decide (1 ≤ tpc) && decide (tpc ≤ 4) && decide (recNat r 6 1 ≤ 8) && decide (4 ≤ recNat r 7 1) && decide (recNat r 7 1 ≤ 8)
    && decide (65536 ≤ sp) && decide (sp % 65536 = 0) && decide (tpc * sp ≤ 12 * 2 ^ 20)
    && ([0, 1, 2, 3].all fun i => decide (entry i % 4 = 0) && inPages (entry i))
    && recZero r 0x38 8 && ([0, 1, 2, 3].all fun i => decide (recNat r 0x70 1 / 4 ^ i % 4 ≠ 3))
    && decide (recNat r 0x71 1 ≤ 8) && recZero r 0x73 1 && decide (recNat r 0x80 4 ≤ 1) && recZero r 0x88 120
    && (List.range 8).all fun i =>
      if i < recNat r 0x71 1 then decide (recNat r (0x108 + 16 * i) 8 % 65536 = 0) else recZero r (0x100 + 16 * i) 16

/-- A GANG launch has room on its dies (R311). -/
def gangOk (r : List Byte) (ls : List (Nat × Nat)) (dies : List Nat) : Bool :=
  recNat r 2 2 % 2 = 0 || dies.all fun d =>
    decide (((List.range (instanceCount ls)).filter fun i => instanceDie ls dies i = d).length ≤ 16 * recNat r 5 1)

/-- The region that a grant gives to an instance: base and log2 size (R275). -/
def grantRegion (r : List Byte) (g i : Nat) : Nat × Nat :=
  let w := recNat r (0x100 + 16 * g) 8
  (w / 65536 * 65536 + i * recNat r (0x108 + 16 * g) 8, w % 64)

/-- The regions of a launch, grant by grant. -/
def grantRegions (r : List Byte) (n : Nat) : List (Nat × Nat) :=
  (List.range (recNat r 0x71 1)).flatMap fun g => (List.range n).map fun i => grantRegion r g i

def overlaps (a b : Nat × Nat) : Bool := decide (a.1 < b.1 + 2 ^ b.2) && decide (b.1 < a.1 + 2 ^ a.2)

def pairwiseApart : List (Nat × Nat) → Bool
  | [] => true
  | a :: t => (t.all fun b => !overlaps a b) && pairwiseApart t

/-- The home die of a page region: that of its base page's frame, when mapped (R267). -/
def State.pageDie (s : State) (j : Job) (base : Nat) : Option DieId :=
  let d := j.dies.headD 0
  match s.leafFor (BitVec.ofNat 9 (16 * d)) j.id base with
  | .ok (p, l) => some (BitVec.ofNat 5 (homeDie (leafPa p l base d)))
  | .error _ => none

/-- An entry that a grant may take over (R275). -/
def Entry.free (e : Entry) : Bool := decide (e.owner = mgmtAgent) && decide (e.homeAgent = mgmtAgent) && decide (e.st = .excl)

/-- A new entry of a grant: held by the management agent (R275). -/
def State.grantEntry (s : State) (j : Job) (launch : Nat) (b : Nat × Nat) (d : DieId) : Entry :=
  { job := j.id, base := b.1, log2 := b.2, die := d, owner := mgmtAgent, homeAgent := mgmtAgent, st := .excl, pair := false,
    paired := false, shares := [], writers := 0, counter := 0, pubs := 0, grant := launch, partition := j.partition,
    forwards := s.frameDies j.id b.1 b.2 d, closing := false }

/-- The token table after one grant region of a launch, or none when the grant is refused (R275). -/
def State.addGrant (s : State) (j : Job) (launch : Nat) (b : Nat × Nat) : Option State :=
  match s.pageDie j b.1 with
  | none => none
  | some d =>
    match findEntry s.tokens j.id b.1 b.2 with
    | some e =>
      if e.free then some { s with tokens := putEntry s.tokens { e with grant := launch } } else none
    | none =>
      if s.tokens.any fun e => decide (e.job = j.id) && overlaps (e.base, e.log2) b then none
      else
        let e := s.grantEntry j launch b d
        if (d :: e.forwards).all fun x => decide (s.tableFill x < Config.tokenCap) then
          some { s with tokens := s.tokens ++ [e] }
        else none

def State.addGrants (s : State) (j : Job) (launch : Nat) : List (Nat × Nat) → Option State
  | [] => some s
  | b :: t => match s.addGrant j launch b with
    | none => none
    | some s' => State.addGrants s' j launch t

/-- The grant regions pass R119's checks and lie apart (R275). -/
def grantsOk (bs : List (Nat × Nat)) : Bool :=
  (bs.all fun b => decide (16 ≤ b.2) && decide (b.2 ≤ 40) && decide (b.1 % 2 ^ b.2 = 0) && inPages b.1) && pairwiseApart bs

/-- Bits [15:6] of each region word are zero (R119). -/
def grantWordsOk (r : List Byte) : Bool :=
  (List.range (recNat r 0x71 1)).all fun g => decide (recNat r (0x100 + 16 * g) 8 % 65536 < 64)

/-- The launch number after n that no live launch holds (R312). -/
def State.freshNumber (s : State) (n : Nat) : Nat → Nat
  | 0 => n
  | fuel + 1 => if n = 0 ∨ s.launches.any (fun l => l.num = n) then State.freshNumber s ((n + 1) % 2 ^ 32) fuel else n

/-- The entries of the pool that are held (R313). -/
def State.poolFill (s : State) : Nat := (s.launches.filter fun l => l.inPool).length

/-- What LAUNCH or the host is answered: accepted with a launch number, the pool is full, or rejected (R136). -/
inductive Submitted
  | accepted (num : Nat) (s : State)
  | full
  | rejected

/-- The dies of a launch's partition. -/
def State.launchDies (s : State) (l : Launch) : List Nat := (findJob s.jobs l.job).elim [] fun j => j.dies

/-- The die of an instance (R309). -/
def State.dieOfLin (s : State) (l : Launch) (lin : Nat) : Nat := instanceDie (loopLevels l.recd) (s.launchDies l) lin

/-- The dies on which a launch has instances. -/
def State.instanceDies (s : State) (l : Launch) : List Nat :=
  (s.launchDies l).filter fun d => (List.range l.total).any fun lin => decide (s.dieOfLin l lin = d)

/-- Threads or instances of a launch ended by Corelo, with their cause if they had one (R323). -/
def Launch.kill (l : Launch) (cause : BitVec 8) (n : Nat) : Launch :=
  { l with killed := l.killed + n, killCause := if l.killCause = 0 then cause else l.killCause }

/-- Instances whose die has failed are removed and counted (R388). -/
def State.dropDead (s : State) (l : Launch) : Launch :=
  let dead := l.unbound.filter fun lin => s.deadDies.contains (s.dieOfLin l lin)
  let l := if dead.isEmpty then l else l.kill 0x07 dead.length
  let rest := l.unbound.filter fun lin => !dead.contains lin
  { l with unbound := rest, inPool := l.inPool && !rest.isEmpty }

/-- A submission of a launch record to a job (R275, R311–R313). -/
def State.submit (s : State) (j : Job) (sub : Submitter) (sup : Bool) (addr : Word) (r : List Byte)
    (rd : Nat → Option Nat) : Submitted :=
  let ls := loopLevels r
  let n := instanceCount ls
  let bs := grantRegions r n
  let num := s.freshNumber s.nextLaunch (s.launches.length + 2)
  if !(fieldsOk r && loopTableOk ls && routesOk r n && barriersOk r ls j.dies && gangOk r ls j.dies && grantWordsOk r && grantsOk bs) then
    .rejected
  else match s.progOf j rd r, s.addGrants j num bs with
  | some prog, some s' =>
    if Config.poolCap ≤ s.poolFill then .full
    else
      let l : Launch :=
        { num := num, job := j.id, recd := r, supervisor := sup, submitter := sub, recordAddr := addr,
          copyAddr := match sub with | .host => addr | _ => Config.freeWord s.freeCtr,
          unbound := List.range n, total := n, inPool := true, stage := 0, barriers := [], prog := prog, progNext := 0,
          progStep := 0, step0 := none, hold := .none, progOver := false, circuits := [], reroutes := [], retired := 0,
          killed := 0, killCause := 0, cancelled := false, ran := none, live := 0, heldRecs := [] }
      .accepted num { s' with launches := s'.launches ++ [s'.dropDead l], nextLaunch := (num + 1) % 2 ^ 32, freeCtr := s'.freeCtr + 1 }
  | _, _ => .rejected

/-! ### LAUNCH (R136) -/

/-- A doubleword that the acting thread may load, for its circuit program (R337). -/
def State.threadRead (s : State) (va : Nat) : Option Nat :=
  match s.check1 (BitVec.ofNat 64 va) 8 .load with
  | .error _ => none
  | .ok a => match s.loadValue a (BitVec.ofNat 64 va) 8 true with
    | .ok (v, _) => some (ofBytes v)
    | .error _ => none

/-- The first load of a circuit program at an address, up to its END, that has to wait (R136, R337). -/
def State.progWaits (s : State) (addr : Word) : Nat → Option Access
  | 0 => none
  | fuel + 1 =>
    match s.checkWords addr .load 4 with
    | .error _ => none
    | .ok accs =>
      match accs.find? fun a => !s.mayAccess a 8 with
      | some a => some a
      | none => match s.loadWords addr accs with
        | .error _ => none
        | .ok (ws, _) => if wbits (ws[0]?.getD 0) 32 8 = 0 then none else State.progWaits s (addr + 32) fuel

/-- The load that a LAUNCH with this record waits for before it reads the program: none where there is no program. -/
def State.progWait (s : State) (r : List Byte) : Option Access :=
  let a := recNat r 0x30 8
  if a = 0 ∨ a % 32 ≠ 0 then none else s.progWaits (BitVec.ofNat 64 a) 1024

/-- The submission's answer in d (R136). -/
def launchAnswer (d : BitVec 5) (r : Submitted) (s : State) : State :=
  match r with
  | .accepted _ s' => (s'.setS d 0).advance .scalar
  | .full => (s.setS d 1).advance .scalar
  | .rejected => (s.setS d 2).advance .scalar

/-- LAUNCH (R136): it waits for its record's reads, for the writes it releases at .pkg, and for its program's reads (R337). -/
def launchOp (d a : BitVec 5) (s : State) : Chk State :=
  let va := s.getS a
  if va.toNat % 64 ≠ 0 then .error (flt 0x02 0 va)
  else match s.checkWords va .load 64 with
    | .error e => .error e
    | .ok accs =>
      match s.readWaits accs with
      | some x => .ok (s.holdOn x)
      | none =>
        if !s.cur.released .pkg true then .ok s.interlock
        else match s.loadWords va accs with
          | .error e => .error e
          | .ok (ws, s') =>
            let r := ws.flatMap fun w => bytesOf 8 w.toNat
            match s'.progWait r with
            | some x => .ok (s.holdOn x)
            | none =>
              let s' := s'.unhold
              match s'.job? with
              | none => .ok ((s'.setS d 2).advance .scalar)
              | some j =>
                .ok (launchAnswer d
                  (s'.submit j (.thread s'.cur.key s'.cur.bind.launch s'.cur.bind.lin) false va r s'.threadRead) s')

/-- LAUNCH (R136). -/
def execLaunch (d a : BitVec 5) (s : State) : Res := outcome .scalar s (launchOp d a s)

/-! ### FSTEP and CIRQ (R140) -/

/-- FSTEP: 1 more on the stage counter, which stays at 2^32 − 1 (R140). A thread without a launch counts nothing. -/
def execFstep (d : BitVec 5) (s : State) : Res :=
  match s.launch? with
  | none => .next ((s.setS d 0).advance .scalar)
  | some l =>
    let v : Word32 := if l.stage = BitVec.allOnes 32 then l.stage else l.stage + 1
    .next (({ s with launches := putLaunch s.launches { l with stage := v } }.setS d (v.setWidth 64)).advance .scalar)

/-- The CIRQ bits of a circuit (R341). -/
def Circuit.cirq (c : Circuit) : Word :=
  match c.st with
  | .live => 1
  | .settling _ => 2
  | .faulted .. => 4
  | .resettling _ => 6

/-- A circuit of a launch by its handle. -/
def findCircuit (cs : List Circuit) (ch : Nat) : Option Circuit := cs.find? fun c => c.ch = ch

/-- CIRQ (R140, R341). -/
def execCirq (d : BitVec 5) (ch : BitVec 6) (s : State) : Res :=
  let v := match findCircuit (s.launch?.elim [] fun l => l.circuits) ch.toNat with
    | some c => c.cirq
    | none => 0
  .next ((s.setS d v).advance .scalar)

end Sys2Proof.Machine
end

