-- ==== Sys2Proof/Machine/Records.lean ====
section
/-! DEFINITION. Delivery of fault and completion records by the route table (R232–R234, R237). -/

namespace Sys2Proof.Machine

/-- A record that waits for room and has no handler entry with it. -/
def WaitRecord.plain (r : Record) (op : Option OpId) : WaitRecord := { rcd := r, op := op, async := none, mma := none, routed := false, bufs := [] }

/-- The record of a copy operation; that of a collective names its buffers (R332). -/
def CopyOp.report (o : CopyOp) (r : Record) (id : OpId) : WaitRecord :=
  { WaitRecord.plain r (some id) with bufs := if o.major = .coll then o.rdSpans ++ o.wrSpans else [] }

/-- A thread's slot is in use and it has bound: the thread is not being bound or restored there (R318, R320). -/
def Slot.live (t : Slot) : Bool := decide (t.status = .bound) || decide (t.status = .saving)

/-- The slot holds the instance of a launch with a linear number. -/
def Slot.isThread (t : Slot) (launch lin : Nat) : Bool := t.live && decide (t.bind.launch = launch) && decide (t.bind.lin = lin)

/-- The instance of a launch is still to bind, or its bind is not over. -/
def State.toBind (s : State) (l : Launch) (lin : Nat) : Bool :=
  l.unbound.contains lin || s.slots.any fun t => decide (t.status = .binding) && decide (t.bind.launch = l.num) && decide (t.bind.lin = lin)

/-- The thread of a launch with a linear number, if it holds a slot. -/
def State.slotOfLin (s : State) (launch lin : Nat) : Option SlotId :=
  (s.slots.find? fun t => t.isThread launch lin).map fun t => t.key

/-- The image is of the instance of a launch with a linear number. -/
def Image.isThread (i : Image) (launch lin : Nat) : Bool := decide (i.launch = launch) && decide (i.ctx.bind.lin = lin)

/-- A record waits behind those that a saved thread holds (R211, R234). -/
def State.holdInImage (s : State) (launch lin : Nat) (w : WaitRecord) : State :=
  { s with images := s.images.map fun i =>
      if i.isThread launch lin then { i with ctx := { i.ctx with waitRecs := i.ctx.waitRecs ++ [w] } } else i }

/-- A record for the designated handler thread of a launch: into its ring, behind those its saved context holds, held
until it binds, or to Corelo when it has retired. The operation it reports is complete once it is posted (R234). -/
def State.toHandlerThread (s : State) (l : Launch) (w : WaitRecord) : State :=
  let lin := l.num8 0x74 4
  match s.slotOfLin l.num lin with
  | some k => s.onSlot k fun s => s.post w
  | none =>
    if s.images.any fun i => i.isThread l.num lin then s.holdInImage l.num lin w
    else if s.toBind l lin then { s with launches := putLaunch s.launches { l with heldRecs := l.heldRecs ++ [w] } }
    else (s.finishOp w.op).toCorelo l.job w.rcd true

/-- A record that reports work and is not routed as a fault goes to the launch's completion destination: the thread's own
ring, or that of the designated handler thread (R307). -/
def State.complete (s : State) (w : WaitRecord) : State :=
  match s.launch? with
  | some l => if l.num8 0x80 4 = 1 then s.toHandlerThread l w else s.post w
  | none => s.post w

/-- Records of the thread's MMAs that wait for room, in whichever ring they are bound for (R186). -/
def State.heldMma (s : State) (t : Slot) : Nat :=
  let mine (ws : List WaitRecord) : Nat := (ws.filter fun w => decide (w.mma = some (t.bind.launch, t.bind.lin))).length
  s.slots.foldl (fun n x => n + mine x.waitRecs) 0 + s.images.foldl (fun n i => n + mine i.ctx.waitRecs) 0
    + s.launches.foldl (fun n l => n + mine l.heldRecs) 0

/-- A record of class 1–4 about a thread of a launch, whose ring `put` posts to, goes where the launch's route table says
(R233, R234, R237). -/
def State.deliverFor (s : State) (l : Option Launch) (t : Slot) (put : WaitRecord → State) (cls : Nat) (x : WaitRecord) (a : AsyncFault) : State :=
  let r := x.rcd
  let op := x.op
  match l.elim 0 fun l => l.byte (0x78 + cls) % 8 with
  | 3 => (s.finishOp op).toCorelo t.bind.job r false
  | 4 => (s.finishOp op).toCorelo t.bind.job r true
  | 2 => match l with
    | some l => s.toHandlerThread l x
    | none => (s.finishOp op).toCorelo t.bind.job r true
  | d =>
    let w : WaitRecord := { x with routed := true }
    if t.scalar.ended then (s.finishOp op).toCorelo t.bind.job r true
    else if d = 1 then put w
    else if t.tvec = 0 then (put w).toCorelo t.bind.job r true
    else put { w with async := some a }

/-- A record of class 1–4 about the acting thread (R234). -/
def State.deliver (s : State) (cls : Nat) (x : WaitRecord) (a : AsyncFault) : State :=
  s.deliverFor s.launch? s.cur s.post cls x a

/-- A record of class 1–4 about a saved thread: its saved context holds those for its ring, in the order they come (R211,
R234). -/
def State.deliverSaved (s : State) (i : Image) (cls : Nat) (x : WaitRecord) (a : AsyncFault) : State :=
  s.deliverFor (findLaunch s.launches i.launch) i.ctx (s.holdInImage i.launch i.ctx.bind.lin) cls x a

/-- A record that reports work of a saved thread goes to its launch's completion destination (R211, R307). -/
def State.completeSaved (s : State) (i : Image) (w : WaitRecord) : State :=
  match findLaunch s.launches i.launch with
  | some l => if l.num8 0x80 4 = 1 then s.toHandlerThread l w else s.holdInImage i.launch i.ctx.bind.lin w
  | none => s.holdInImage i.launch i.ctx.bind.lin w

end Sys2Proof.Machine
end

