-- ==== Sys2Proof/Machine/Float.lean ====
section
/-! DEFINITION. The floating-point formats (R47), NaN rules (R48), exact arithmetic, rounding (R49, R55, R56, R61, R62)
and the flags of R64. -/

namespace Sys2Proof.Machine

/-! ### Formats -/

/-- How a format treats its top exponent: IEEE, E4M3 (one NaN, no infinity) or E2M1 (neither). -/
inductive TopExp | ieee | e4m3 | none
deriving DecidableEq, Repr

/-- A floating-point format: widths of exponent and fraction, bias, top exponent (R47). -/
structure FFmt where
  eb : Nat
  fb : Nat
  bias : Nat
  top : TopExp
deriving DecidableEq, Repr

def fp32 : FFmt := { eb := 8, fb := 23, bias := 127, top := .ieee }
def bf16 : FFmt := { eb := 8, fb := 7, bias := 127, top := .ieee }
def e4m3 : FFmt := { eb := 4, fb := 3, bias := 7, top := .e4m3 }
def e5m2 : FFmt := { eb := 5, fb := 2, bias := 15, top := .ieee }
def e2m1 : FFmt := { eb := 2, fb := 1, bias := 1, top := .none }
def s24 : FFmt := { eb := 8, fb := 15, bias := 127, top := .ieee }
def a80 : FFmt := { eb := 12, fb := 67, bias := 2047, top := .ieee }

/-! ### Exact values -/

/-- An exact value: a NaN with its sign and its fraction left-aligned in 67 bits, an infinity, or ±m · 2^e. -/
inductive FVal
  | nan (neg : Bool) (frac : Nat)
  | inf (neg : Bool)
  | fin (neg : Bool) (m : Nat) (e : Int)
deriving DecidableEq, Repr

/-- The default NaN (R48). -/
def FVal.dflt : FVal := .nan false (2 ^ 66)

def FVal.zero : FVal := .fin false 0 0
def FVal.one : FVal := .fin false 1 0

/-- An integer as a value; 0 is +0. -/
def FVal.ofInt (i : Int) : FVal := .fin (decide (i < 0)) i.natAbs 0

def FVal.isNan : FVal → Bool | .nan .. => true | _ => false
def FVal.isInf : FVal → Bool | .inf _ => true | _ => false
def FVal.isZero : FVal → Bool | .fin _ 0 _ => true | _ => false
def FVal.neg : FVal → Bool | .nan n _ => n | .inf n => n | .fin n _ _ => n

/-- A signalling NaN: its fraction's top bit is 0 (R48). -/
def FVal.isSnan : FVal → Bool | .nan _ f => decide (f < 2 ^ 66) | _ => false

/-- A NaN quietened (R48). -/
def FVal.quiet : FVal → FVal | .nan n f => .nan n (if f < 2 ^ 66 then f + 2 ^ 66 else f) | x => x

/-- The sign bit turned over. -/
def FVal.negate : FVal → FVal | .nan n f => .nan (!n) f | .inf n => .inf (!n) | .fin n m e => .fin (!n) m e

/-- The value that a format's bits hold (R47). -/
def decodeF (F : FFmt) (v : Nat) : FVal :=
  let f := v % 2 ^ F.fb
  let e := v / 2 ^ F.fb % 2 ^ F.eb
  let neg := decide (v / 2 ^ (F.fb + F.eb) % 2 = 1)
  let special := match F.top with
    | .ieee => decide (e = 2 ^ F.eb - 1)
    | .e4m3 => decide (e = 15) && decide (f = 7)
    | .none => false
  if special then (if f = 0 then .inf neg else .nan neg (f * 2 ^ (67 - F.fb)))
  else if e = 0 then .fin neg f (1 - (F.bias : Int) - F.fb)
  else .fin neg (2 ^ F.fb + f) ((e : Int) - F.bias - F.fb)

/-! ### Rounding -/

/-- The bits of the sign. -/
def signBit (F : FFmt) (neg : Bool) : Nat := if neg then 2 ^ (F.fb + F.eb) else 0

/-- A NaN in a format: the fraction bits that fit, quiet; the one NaN of E4M3 and of E5M2 that a conversion gives
(R48). A conversion to a wider format keeps the fraction as it is: `wide` says so. -/
def nanIn (F : FFmt) (neg : Bool) (frac : Nat) (wide : Bool) : Nat :=
  if F = e4m3 then signBit F neg + 0x7F
  else if F = e5m2 then signBit F neg + 0x7E
  else if F = e2m1 then 0
  else
    let f := frac / 2 ^ (67 - F.fb)
    let q := 2 ^ (F.fb - 1)
    let f := if wide then f else if f / q % 2 = 1 then f else f + q
    signBit F neg + (2 ^ F.eb - 1) * 2 ^ F.fb + f

/-- The infinity of a format that has one. -/
def infIn (F : FFmt) (neg : Bool) : Nat := signBit F neg + (2 ^ F.eb - 1) * 2 ^ F.fb

/-- The largest finite magnitude of a format (R47). -/
def maxIn (F : FFmt) : Nat :=
  match F.top with
  | .ieee => (2 ^ F.eb - 1) * 2 ^ F.fb - 1
  | .e4m3 => 0x7E
  | .none => 2 ^ (F.eb + F.fb) - 1

/-- Whether a rounding goes away from zero: `half` compares the discarded part with one half, `odd` is the kept
significand's last bit (R61). -/
def roundUp (rm : RoundMode) (neg odd inexact : Bool) (half : Ordering) : Bool :=
  match rm with
  | .rne => (match half with | .gt => true | .eq => odd | .lt => false)
  | .rz => false
  | .rup => inexact && !neg
  | .rdn => inexact && neg

/-- m · 2^e rounded to a multiple of 2^q: the multiple, and whether it is inexact. -/
def roundAt (rm : RoundMode) (neg : Bool) (m : Nat) (e q : Int) : Nat × Bool :=
  if q ≤ e then (m * 2 ^ (e - q).toNat, false)
  else
    let sh := (q - e).toNat
    let k := m / 2 ^ sh
    let r := m % 2 ^ sh
    let inexact := decide (r ≠ 0)
    let up := roundUp rm neg (decide (k % 2 = 1)) inexact (compare r (2 ^ (sh - 1)))
    (if up then k + 1 else k, inexact)

/-- round_to of a finite non-zero value ±m · 2^e, with the flags it raises (R61, R64). -/
def roundFin (F : FFmt) (rm : RoundMode) (sat : Bool) (neg : Bool) (m : Nat) (e : Int) : Nat × FFlags :=
  let p := F.fb + 1
  let top : Int := (m.log2 : Int) + e
  let emin : Int := 1 - (F.bias : Int)
  let q : Int := (if top < emin then emin else top) - (p - 1 : Nat)
  let (k, inexact) := roundAt rm neg m e q
  let (u, _) := roundAt rm neg m e (top - (p - 1 : Nat))
  let tiny := decide ((u.log2 : Int) + (top - (p - 1 : Nat)) < emin)
  let over2 := decide (2 ^ p ≤ k)
  let k' := if over2 then k / 2 else k
  let q' := if over2 then q + 1 else q
  let mag : Nat := if k' < 2 ^ (p - 1) then k' else ((q' + (p - 1 : Nat) + F.bias).toNat) * 2 ^ F.fb + (k' - 2 ^ (p - 1))
  let nx : FFlags := if inexact then flagNx else 0
  if mag ≤ maxIn F then
    (signBit F neg + mag, nx ||| (if tiny && inexact then flagUf else 0))
  else
    let away := match rm with | .rne => true | .rz => false | .rup => !neg | .rdn => neg
    let b :=
      if sat || !away then signBit F neg + maxIn F
      else match F.top with
        | .ieee => infIn F neg
        | .e4m3 => signBit F neg + 0x7F
        | .none => signBit F neg + maxIn F
    (b, flagOf ||| flagNx)

/-- round_to(x, F, rm, sat), with the flags it raises (R61, R64). -/
def roundTo (F : FFmt) (rm : RoundMode) (sat : Bool) (x : FVal) : Nat × FFlags :=
  match x with
  | .nan n f => (nanIn F n f (F = a80), 0)
  | .inf n =>
    match F.top with
    | .ieee => (if sat then signBit F n + maxIn F else infIn F n, 0)
    | .e4m3 => (if sat then signBit F n + maxIn F else signBit F n + 0x7F, 0)
    | .none => (signBit F n + maxIn F, 0)
  | .fin n 0 _ => (if F = e2m1 then 0 else signBit F n, 0)
  | .fin n m e => roundFin F rm sat n m e

/-- The bits of round_to with RNE and no saturation. -/
def roundNe (F : FFmt) (x : FVal) : Nat := (roundTo F .rne false x).1

/-- rne68: an exact value as A80 (R55). -/
def rne68 (x : FVal) : FVal := decodeF a80 (roundNe a80 x)

/-- A value as an A80 pattern. -/
def FVal.toA80 (x : FVal) : A80 := BitVec.ofNat 80 (roundNe a80 x)

/-- The value of an A80 pattern. -/
def ofA80 (v : A80) : FVal := decodeF a80 v.toNat

/-- to_int(x, W, rm): the saturated integer and the nv and nx flags (R62, R64). -/
def toIntW (w : Nat) (rm : RoundMode) (x : FVal) : Int × FFlags :=
  let hi : Int := 2 ^ (w - 1) - 1
  let lo : Int := -(2 ^ (w - 1))
  match x with
  | .nan .. => (0, flagNv)
  | .inf n => (if n then lo else hi, flagNv)
  | .fin n m e =>
    let (k, inexact) := roundAt rm n m e 0
    let i : Int := if n then -(k : Int) else k
    if i < lo then (lo, flagNv) else if hi < i then (hi, flagNv) else (i, if inexact then flagNx else 0)

/-- A value of one floating format converted to another: a NaN keeps its fraction where the format is no narrower
(R48, R63). -/
def convF (src dst : FFmt) (rm : RoundMode) (sat : Bool) (x : FVal) : Nat × FFlags :=
  match x with
  | .nan n f => (nanIn dst n f (decide (src.fb ≤ dst.fb)), 0)
  | _ => roundTo dst rm sat x

/-! ### Exact arithmetic -/

/-- A finite value as an integer multiple of 2^e0, for e0 at most its exponent. -/
def scaled (n : Bool) (m : Nat) (e e0 : Int) : Int := let k : Int := (m : Int) * 2 ^ (e - e0).toNat; if n then -k else k

/-- The first NaN operand, quietened, in the order given (R48). -/
def firstNan (xs : List FVal) : Option FVal := (xs.find? FVal.isNan).map FVal.quiet

/-- The sign of an exact zero sum: that of the operands when they are zeros of one sign, else + but − under RDN
(R49). -/
def zeroSum (rm : RoundMode) (a b : FVal) : FVal :=
  if a.isZero && b.isZero && a.neg == b.neg then .fin a.neg 0 0 else .fin (decide (rm = .rdn)) 0 0

/-- The exact sum of two values; infinity − infinity gives the default NaN (R48, R49). -/
def fadd (rm : RoundMode) (a b : FVal) : FVal :=
  match firstNan [a, b] with
  | some x => x
  | none =>
    match a, b with
    | .inf m, .inf n => if m = n then .inf m else FVal.dflt
    | .inf m, _ => .inf m
    | _, .inf n => .inf n
    | .fin na ma ea, .fin nb mb eb =>
      let e := min ea eb
      let s := scaled na ma ea e + scaled nb mb eb e
      if s = 0 then zeroSum rm a b else .fin (decide (s < 0)) s.natAbs e
    | _, _ => FVal.dflt

/-- The exact product of two values; 0 × infinity gives the default NaN (R48). -/
def fmul (a b : FVal) : FVal :=
  match firstNan [a, b] with
  | some x => x
  | none =>
    match a, b with
    | .fin na ma ea, .fin nb mb eb => .fin (na != nb) (ma * mb) (ea + eb)
    | .inf m, y => if y.isZero then FVal.dflt else .inf (m != y.neg)
    | x, .inf n => if x.isZero then FVal.dflt else .inf (x.neg != n)
    | _, _ => FVal.dflt

/-- The exact value of a · b + c (R49); a NaN of a, b, then c (R48). -/
def ffma (rm : RoundMode) (a b c : FVal) : FVal :=
  match firstNan [a, b, c] with
  | some x => x
  | none => fadd rm (fmul a b) c

/-- A quotient of naturals to n bits, the last bit a sticky bit for what is left. -/
def divSticky (a b n : Nat) : Nat × Int :=
  let k := n + b.log2 + 1 - min a.log2 (n + b.log2 + 1)
  let q := a * 2 ^ k / b
  (2 * q + (if a * 2 ^ k % b = 0 then 0 else 1), -(k : Int) - 1)

/-- The quotient a / b, exact but for a sticky last bit; 0/0 and ∞/∞ give the default NaN, a finite non-zero dividend
over zero an infinity (R48, R49). -/
def fdiv (a b : FVal) : FVal :=
  match firstNan [a, b] with
  | some x => x
  | none =>
    match a, b with
    | .inf m, y => if y.isInf then FVal.dflt else .inf (m != y.neg)
    | x, .inf n => .fin (x.neg != n) 0 0
    | .fin na ma ea, .fin nb mb eb =>
      if mb = 0 then (if ma = 0 then FVal.dflt else .inf (na != nb))
      else if ma = 0 then .fin (na != nb) 0 0
      else
        let (q, e) := divSticky ma mb 160
        .fin (na != nb) q (ea - eb + e)
    | _, _ => FVal.dflt

/-- The integer square root by bits, from the highest. -/
def isqrtFrom (n : Nat) : Nat → Nat → Nat
  | 0, r => r
  | k + 1, r =>
    let t := r + 2 ^ k
    isqrtFrom n k (if t * t ≤ n then t else r)

def isqrt (n : Nat) : Nat := isqrtFrom n (n.log2 / 2 + 1) 0

/-- The square root, exact but for a sticky last bit; a negative non-zero operand gives the default NaN (R49). -/
def fsqrt (a : FVal) : FVal :=
  match a with
  | .nan .. => a.quiet
  | .inf n => if n then FVal.dflt else .inf false
  | .fin n m e =>
    if m = 0 then .fin n 0 0
    else if n then FVal.dflt
    else
      let odd := decide (e % 2 ≠ 0)
      let m0 := if odd then 2 * m else m
      let e0 := if odd then e - 1 else e
      let x := m0 * 2 ^ 256
      let r := isqrt x
      .fin false (2 * r + (if r * r = x then 0 else 1)) (e0 / 2 - 129)

/-! ### Comparison -/

/-- Finite and infinite values in order; −0 and +0 compare equal. -/
def fcmp (a b : FVal) : Ordering :=
  match a, b with
  | .inf m, .inf n => compare (!m).toNat (!n).toNat
  | .inf m, _ => if m then .lt else .gt
  | _, .inf n => if n then .gt else .lt
  | .fin na ma ea, .fin nb mb eb =>
    let e := min ea eb
    compare (scaled na ma ea e) (scaled nb mb eb e)
  | _, _ => .eq

/-- IEEE 754 maximum: NaN first, −0 below +0 (R74). -/
def fmaximum (a b : FVal) : FVal :=
  match firstNan [a, b] with
  | some x => x
  | none => match fcmp a b with
    | .gt => a
    | .lt => b
    | .eq => if a.neg then b else a

/-- IEEE 754 minimum (R74). -/
def fminimum (a b : FVal) : FVal :=
  match firstNan [a, b] with
  | some x => x
  | none => match fcmp a b with
    | .lt => a
    | .gt => b
    | .eq => if a.neg then a else b

/-- The operation is invalid: it gives a NaN from operands that are none (R64). -/
def invalidOf (xs : List FVal) (r : FVal) : Bool := r.isNan && !(xs.any FVal.isNan)

/-- nv of an operation: a signalling operand, or an invalid operation (R64). -/
def nvOf (xs : List FVal) (r : FVal) : FFlags := if xs.any FVal.isSnan || invalidOf xs r then flagNv else 0

/-! ### Element types of the vector stream -/

/-- The floating format of a vector type; INT32 has none and reads as FP32 here. -/
def vfmt : VType → FFmt
  | .bf16 => bf16
  | _ => fp32

/-- The value of a run value of a type. -/
def vval (t : VType) (w : Word32) : FVal :=
  match t with
  | .i32 => FVal.ofInt w.toInt
  | .f32 => decodeF fp32 w.toNat
  | .bf16 => decodeF bf16 (w.toNat % 65536)

/-- An exact value rounded to a floating vector type (R49, R64). -/
def vround (t : VType) (rm : RoundMode) (x : FVal) : Word32 × FFlags :=
  let (b, f) := roundTo (vfmt t) rm false x
  (BitVec.ofNat 32 b, f)

end Sys2Proof.Machine
end

