-- ==== Sys2Proof/Machine/Elementary.lean ====
section
/-! DEFINITION. The special functions of VSFU and VSFU2 (R153): the exact mathematical value, rounded once with RNE. A
function is bracketed between two fixed-point numbers, and the rounding of both ends decides the result. -/

namespace Sys2Proof.Machine

/-- Fractional bits of the fixed-point arithmetic. -/
def fx : Nat := 320

/-- The fixed-point 1. -/
def fxOne : Int := 2 ^ fx

/-- A product of fixed-point numbers, rounded down. -/
def fxMul (a b : Int) : Int := a * b / fxOne

/-- A quotient of fixed-point numbers, rounded down. -/
def fxDiv (a b : Int) : Int := a * fxOne / b

/-- What the rounding of the series may have cost, in units of the last place. -/
def fxErr : Int := 2 ^ 12

/-- m · 2^e in fixed point with n fractional bits, rounded down. -/
def fxOfN (n : Nat) (m : Nat) (e : Int) : Int :=
  let k := e + n
  if 0 ≤ k then (m : Int) * 2 ^ k.toNat else (m : Int) / 2 ^ (-k).toNat

def fxOf (m : Nat) (e : Int) : Int := fxOfN fx m e

/-- The sum of t, t·y/(k+1), t·y²/((k+1)(k+2)), … : the exponential series from term k on. -/
def expTail : Nat → Nat → Int → Int → Int
  | 0, _, _, _ => 0
  | n + 1, k, t, y => t + expTail n (k + 1) (fxMul t y / (k + 1 : Nat)) y

/-- e^y for |y| at most 1. -/
def fxExp (y : Int) : Int := expTail 100 0 fxOne y

/-- z + z³/3 + z⁵/5 + … from the power p = z^k on. -/
def atanhTail : Nat → Nat → Int → Int → Int
  | 0, _, _, _ => 0
  | n + 1, k, p, zz => p / (k : Nat) + atanhTail n (k + 2) (fxMul p zz) zz

/-- ln x for x from 1 to 2. -/
def fxLn (x : Int) : Int :=
  let z := fxDiv (x - fxOne) (x + fxOne)
  2 * atanhTail 220 1 z (fxMul z z)

def fxLn2 : Int := fxLn (2 * fxOne)

/-- 2^W · arctan(1/k): the alternating series from power p on. -/
def atanTail : Nat → Nat → Int → Int → Int
  | 0, _, _, _ => 0
  | n + 1, k, p, kk => p / (k : Nat) - atanTail n (k + 2) (p / kk) kk

/-- π with n fractional bits, by Machin's formula. -/
def piBits (n : Nat) : Int :=
  let one : Int := 2 ^ (n + 20)
  (16 * atanTail n 1 (one / 5) 25 - 4 * atanTail n 1 (one / 239) (239 * 239)) / 2 ^ 20

/-- The sine series from term t of degree k on, with yy = −y². -/
def sinTail : Nat → Nat → Int → Int → Int
  | 0, _, _, _ => 0
  | n + 1, k, t, yy => t + sinTail n (k + 2) (fxMul t yy / ((k + 1) * (k + 2) : Nat)) yy

def fxSin (y : Int) : Int := sinTail 60 1 y (-fxMul y y)
def fxCos (y : Int) : Int := sinTail 60 0 fxOne (-fxMul y y)

/-- x − q · π/2 and q mod 4, for x = m · 2^e with e at most 128: the argument reduction (R153). -/
def reduce (m : Nat) (e : Int) : Int × Nat :=
  let n := fx + 160
  let x := fxOfN n m e
  let h := piBits n / 2
  let q := (x + h / 2) / h
  ((x - q * h) / 2 ^ 160, (q % 4).toNat)

/-- Σ 2^n x^(2n+1) / (1·3·5…(2n+1)) from term t on. -/
def erfTail : Nat → Nat → Int → Int → Int
  | 0, _, _, _ => 0
  | n + 1, k, t, xx => t + erfTail n (k + 2) (fxMul t xx * 2 / (k + 2 : Nat)) xx

/-- e^−y for y ≥ 0, by halving: e^−y = (e^(−y/32))^32. -/
def fxExpNeg (y : Int) : Int :=
  let sq (v : Int) : Int := fxMul v v
  sq (sq (sq (sq (sq (fxExp (-(y / 32)))))))

/-- erf x for x from 0 to 5. -/
def fxErf (x : Int) : Int :=
  let rootPi := (isqrt (piBits (2 * fx)).toNat : Int)
  let xx := fxMul x x
  fxDiv (fxMul (2 * fxExpNeg xx) (erfTail 400 1 x xx)) rootPi

/-! ### Rounding a bracketed value -/

/-- The magnitude rounded with an unbounded exponent lies below the smallest normal (R64). -/
def tinyOf (F : FFmt) (m : Nat) (e : Int) : Bool :=
  let q := (m.log2 : Int) + e - F.fb
  let (u, _) := roundAt .rne false m e q
  decide ((u.log2 : Int) + q < 1 - (F.bias : Int))

/-- The rounding of an inexact value of sign `neg` whose magnitude lies around v in fixed point; both ends of the
bracket round alike (R153). -/
def roundFx (F : FFmt) (neg : Bool) (v : Int) : Nat × FFlags :=
  let m := (v + fxErr).toNat
  let (b, f) := roundFin F .rne false neg m (-(fx : Int))
  (b, (f &&& flagOf) ||| flagNx ||| (if tinyOf F m (-(fx : Int)) then flagUf else 0))

/-- An inexact value given by its sign and a magnitude with a sticky last bit. -/
def roundSticky (F : FFmt) (neg : Bool) (m : Nat) (e : Int) : Nat × FFlags := roundFin F .rne false neg m e

/-! ### The functions -/

inductive Sfu | exp2 | log2 | rcp | rsq | tanh | sin | cos | erf
deriving DecidableEq, Repr

/-- The default NaN with nv. -/
def sfuInvalid : FVal × FFlags := (FVal.dflt, flagNv)

/-- The exact results of R153's table: zeros, infinities and the exact cases; none elsewhere. -/
def sfuExact (op : Sfu) (x : FVal) : Option (FVal × FFlags) :=
  match op, x with
  | _, .nan .. => some (x.quiet, if x.isSnan then flagNv else 0)
  | .exp2, .inf n => some (if n then .fin false 0 0 else .inf false, 0)
  | .exp2, .fin n m e =>
    if m = 0 then some (FVal.one, 0)
    else if 0 ≤ e ∨ m % 2 ^ (-e).toNat = 0 then
      let k := if 0 ≤ e then min (m * 2 ^ (min e 20).toNat) 600 else min (m / 2 ^ (-e).toNat) 600
      some (.fin false 1 (if n then -(k : Int) else k), 0)
    else none
  | .log2, .inf n => some (if n then sfuInvalid else (.inf false, 0))
  | .log2, .fin n m e =>
    if m = 0 then some (.inf true, flagDz)
    else if n then some sfuInvalid
    else if m = 2 ^ m.log2 then some (FVal.ofInt ((m.log2 : Int) + e), 0)
    else none
  | .rcp, .inf n => some (.fin n 0 0, 0)
  | .rcp, .fin n m _ => if m = 0 then some (.inf n, flagDz) else none
  | .rsq, .inf n => some (if n then sfuInvalid else (.fin false 0 0, 0))
  | .rsq, .fin n m _ => if m = 0 then some (.inf n, flagDz) else if n then some sfuInvalid else none
  | .tanh, .inf n => some (.fin n 1 0, 0)
  | .erf, .inf n => some (.fin n 1 0, 0)
  | .sin, .inf _ => some sfuInvalid
  | .cos, .inf _ => some sfuInvalid
  | .cos, .fin _ m _ => if m = 0 then some (FVal.one, 0) else none
  | _, .fin n m _ => if m = 0 then some (.fin n 0 0, 0) else none

/-- The magnitude just below 1 that the large arguments of TANH and ERF give. -/
def belowOne : Int := fxOne - 2 ^ 200

/-- The rounded result of a function at a finite argument ±m · 2^e, m ≠ 0, that is no exact case (R153). -/
def sfuFin (op : Sfu) (F : FFmt) (n : Bool) (m : Nat) (e : Int) : Nat × FFlags :=
  let top := (m.log2 : Int) + e
  match op with
  | .exp2 =>
    if 9 ≤ top then roundSticky F false 3 (if n then -600 else 600)
    else
      let x := if n then -fxOf m e else fxOf m e
      let k := x / fxOne
      let r := fxExp (fxMul (x - k * fxOne) fxLn2)
      let v := (r + fxErr).toNat
      roundSticky F false (2 * v + 1) (k - fx - 1)
  | .log2 =>
    let k := top
    let r := fxDiv (fxLn (fxOf m (-(m.log2 : Int)))) fxLn2
    let v := k * fxOne + r
    if v < 0 then roundFx F true (-v - 2 * fxErr) else roundFx F false v
  | .rcp =>
    let (q, e') := divSticky 1 m 160
    roundFin F .rne false n q (e' - e)
  | .rsq =>
    let odd := decide (e % 2 ≠ 0)
    let m0 := if odd then 2 * m else m
    let e0 := if odd then e - 1 else e
    let r := isqrt (2 ^ 600 / m0)
    roundFin F .rne false false (2 * r + (if r * r * m0 = 2 ^ 600 then 0 else 1)) (-(e0 / 2) - 301)
  | .tanh =>
    if 6 ≤ top then roundFx F n belowOne
    else if top < -100 then roundSticky F n (m * 2 ^ 200 - 1) (e - 200)
    else
      let t := fxExpNeg (2 * fxOf m e)
      roundFx F n (fxDiv (fxOne - t) (fxOne + t))
  | .erf =>
    if 3 ≤ top then roundFx F n belowOne else roundFx F n (fxErf (fxOf m e))
  | .sin =>
    if top < -100 then roundSticky F n (m * 2 ^ 200 - 1) (e - 200)
    else
      let (r, q) := reduce m e
      let v := match q with | 0 => fxSin r | 1 => fxCos r | 2 => -fxSin r | _ => -fxCos r
      if v < 0 then roundFx F (!n) (-v - 2 * fxErr) else roundFx F n v
  | .cos =>
    let (r, q) := reduce m e
    let v := match q with | 0 => fxCos r | 1 => -fxSin r | 2 => -fxCos r | _ => fxSin r
    if v < 0 then roundFx F true (-v - 2 * fxErr) else roundFx F false v

/-- A special function of a value, rounded once with RNE, and its flags (R153). -/
def sfuRound (op : Sfu) (F : FFmt) (x : FVal) : Nat × FFlags :=
  match sfuExact op x with
  | some (v, f) => let (b, g) := roundTo F .rne false v; (b, f ||| g)
  | none =>
    match x with
    | .fin n m e => sfuFin op F n m e
    | _ => (0, 0)

end Sys2Proof.Machine
end

