-- ==== Sys2Proof/Machine/VecRun.lean ====
section
/-! DEFINITION. Runs (R21, R22, R142–R148), reads of run registers (R91, R143), landings (R89, R90) and the holds of
the vector stream (R147, R163). -/

namespace Sys2Proof.Machine

/-! ### Runs -/

/-- The logical length of runs. -/
def runsLen (rs : List Run) : Nat := rs.foldl (fun n r => n + r.count) 0

/-- Adjacent bit-identical runs merged (R145). -/
def coalesce : List Run → List Run
  | [] => []
  | r :: t =>
    match coalesce t with
    | [] => [r]
    | q :: u => if r.val = q.val then { r with count := r.count + q.count } :: u else r :: q :: u

/-- The elements of runs, in order. -/
def runElems (rs : List Run) : List Word32 := rs.flatMap fun r => List.replicate r.count r.val

/-- One run for each element. -/
def elemRuns (vs : List Word32) : List Run := vs.map fun v => { val := v, count := 1 }

/-- The bits that a type reads and writes: BF16 uses the low half (R143). -/
def vbits (t : VType) (v : Word32) : Word32 := if t = .bf16 then v &&& 0xFFFF#32 else v

/-- N of the current shape (R142). -/
def Slot.n (t : Slot) : Nat := t.rows * t.cols

/-- The runs of a register as a type reads them; a ZERO register is one run of 0 (R22, R143). -/
def RunReg.read (r : RunReg) (t : VType) (n : Nat) : List Run :=
  match r with
  | .zero => [{ val := 0, count := n }]
  | .runs _ rs => rs.map fun x => { x with val := vbits t x.val }

/-- L of a register; a ZERO register takes the current N (R22). -/
def RunReg.len (r : RunReg) (n : Nat) : Nat := match r with | .zero => n | .runs _ rs => runsLen rs

/-- nruns of a register (R22). -/
def RunReg.nruns (r : RunReg) : Nat := match r with | .zero => 1 | .runs _ rs => rs.length

/-- A register passes the check of its length: ZERO, or L = N (R145). -/
def RunReg.fits (r : RunReg) (n : Nat) : Bool := match r with | .zero => true | .runs _ rs => decide (runsLen rs = n)

/-! ### Reading a register -/

/-- Free runs of a given number and length: every count at least 1 (R91). -/
def freeRuns (t : VType) (ctr : Nat) : Nat → Nat → List Run
  | 0, _ => []
  | 1, len => [{ val := vbits t ((Config.freeWord ctr).setWidth 32), count := len }]
  | k + 2, len =>
    let c := 1 + Config.freeNat ctr % (len - (k + 1))
    { val := vbits t ((Config.freeWord ctr).setWidth 32), count := c } :: freeRuns t (ctr + 1) (k + 1) (len - c)

/-- A register with free values and counts in the shape of another (R91). -/
def RunReg.undefinedLike (r : RunReg) (ctr : Nat) : RunReg :=
  match r with
  | .zero => .zero
  | .runs t rs => .runs t (freeRuns t ctr rs.length (runsLen rs))

/-- The contents in flight towards a run register, oldest first. -/
def Slot.inFlight (t : Slot) (i : BitVec 5) : List RunReg :=
  t.vfly.filterMap fun l => (l.runs.find? fun w => w.1 = i).map Prod.snd

/-- A run register as an instruction reads it: its content, or while a write is pending a well-formed register in the
shape of the old or a new content with free values (R91). The second part is the counter after the read. -/
def Slot.readV (t : Slot) (i : BitVec 5) (ctr : Nat) : RunReg × Nat :=
  match t.inFlight i with
  | [] => (t.getV i, ctr)
  | ps =>
    let all := t.getV i :: ps
    let r := all[Config.freeNat ctr % all.length]?.getD (t.getV i)
    (r.undefinedLike (ctr + 1), ctr + 2 + r.nruns)

/-- Registers read in order. -/
def Slot.readVs (t : Slot) : List (BitVec 5) → Nat → List RunReg × Nat
  | [], c => ([], c)
  | i :: is, c =>
    let (r, c') := t.readV i c
    let (rs, c'') := Slot.readVs t is c'
    (r :: rs, c'')

/-! ### Intervals -/

/-- The intervals of run lists over one length, with each list's value there; fuel is the number of runs (R145). -/
def intervals : Nat → List (List Run) → List (List Word32 × Nat)
  | 0, _ => []
  | n + 1, xs =>
    match xs with
    | [] => []
    | x :: rest =>
      match x with
      | [] => []
      | r :: _ =>
        let len := rest.foldl (fun m y => match y with | [] => m | q :: _ => min m q.count) r.count
        let vals := xs.map fun y => match y with | [] => 0 | q :: _ => q.val
        let xs' := xs.map fun y => match y with
          | [] => []
          | q :: t => if q.count ≤ len then t else { q with count := q.count - len } :: t
        (vals, len) :: intervals n xs'

/-- All intervals of run lists. -/
def allIntervals (xs : List (List Run)) : List (List Word32 × Nat) := intervals (xs.foldl (fun n x => n + x.length) 0) xs

/-- The bound on the intervals of inputs with given run counts (R147). -/
def intervalBound (ns : List Nat) : Nat := ns.foldl (· + ·) 0 - (ns.length - 1)

/-! ### Landings -/

/-- Two landings write one place, or both store: they land in issue order (R90, R164). -/
def VLanding.clash (a b : VLanding) : Bool :=
  (a.runs.any fun x => b.runs.any fun y => decide (x.1 = y.1))
    || (a.ereg.isSome && decide (a.ereg.map Prod.fst = b.ereg.map Prod.fst))
    || (a.mreg.isSome && decide (a.mreg = b.mreg)) || (!a.stores.isEmpty && !b.stores.isEmpty)

/-- A result in flight, to land at a free cycle within its bound; an older one to the same place lands no later
(R89, R90). -/
def State.fly (s : State) (bound : Nat) (l : VLanding) : State :=
  let due := s.freeDue bound
  let l := { l with id := s.cur.nextOp, due := due }
  { s with
    freeCtr := s.freeCtr + 1
    cur := { s.cur with
      nextOp := s.cur.nextOp + 1
      vfly := s.cur.vfly.map (fun x => if x.clash l then { x with due := min x.due due } else x) ++ [l] } }

/-- An empty landing. -/
def VLanding.none : VLanding :=
  { id := 0, due := 0, runs := [], ereg := .none, flags := 0, elems := [], mreg := .none, full := .none, stores := [] }

/-- One element of a tile written; +0 is not listed. -/
def tileSet : Tile → Nat → A80 → Tile
  | [], i, v => if v = 0 then [] else [(i, v)]
  | (j, w) :: t, i, v =>
    if i < j then (if v = 0 then (j, w) :: t else (i, v) :: (j, w) :: t)
    else if i = j then (if v = 0 then t else (i, v) :: t)
    else (j, w) :: tileSet t i v

/-- Elements of a tile written in order. -/
def tileSets (x : Tile) (es : List (Nat × A80)) : Tile := es.foldl (fun (y : Tile) (e : Nat × A80) => tileSet y e.1 e.2) x

/-- An element of a tile. -/
def tileGet : Tile → Nat → A80
  | [], _ => 0
  | (j, w) :: t, i => if i < j then 0 else if i = j then w else tileGet t i

/-- A write of element i of a matrix register is in flight (R91). -/
def Slot.elemPending (t : Slot) (m : BitVec 3) (i : Nat) : Bool :=
  (t.mfly.any fun l => decide (l.mreg = some m) && decide (128 * l.lo ≤ i) && decide (i < 128 * l.hi))
    || t.vfly.any fun l => decide (l.mreg = some m) && l.elems.any fun e => decide (e.1 = i)

/-- An element of a matrix register as an instruction reads it: undefined while a write of it is in flight (R91). -/
def Slot.readElem (t : Slot) (m : BitVec 3) (ctr i : Nat) : A80 :=
  if t.elemPending m i then Config.freeA80 (ctr + i) else tileGet (t.getM m).tile i

/-- The 16-row blocks of a matrix register that hold elements are marked dirty (R246). -/
def Slot.markM (t : Slot) (m : BitVec 3) (elems : List Nat) : Slot :=
  { t with dirtyM := elems.foldl (fun (ds : List Nat) (e : Nat) =>
      let b := 8 * m.toNat + e / 2048
      if ds.contains b then ds else b :: ds) t.dirtyM }

/-- A change of the full/empty bit; every event that leaves it EMPTY clears the poison mask and step count (R179). -/
def MatReg.mark (m : MatReg) (full : Option Bool) : MatReg :=
  match full with
  | .none => m
  | some true => { m with full := true }
  | some false => { m with full := false, pmask := 0, nsteps := 0 }

/-- A landed result in the acting slot's registers and flags (R90). -/
def Slot.land (t : Slot) (l : VLanding) : Slot :=
  let t := l.runs.foldl (fun t w => t.setV w.1 w.2) t
  let t := match l.ereg with | some (i, v) => t.setE i v | .none => t
  let t := match l.mreg with
    | some m => (t.setM m ({ t.getM m with tile := tileSets (t.getM m).tile l.elems }.mark l.full)).markM m (l.elems.map Prod.fst)
    | .none => t
  { t with vcsr := { t.vcsr with flags := t.vcsr.flags ||| l.flags } }

/-- The stores of engine results performed at their homes, in order. -/
def State.performAll (s : State) (ps : List PendStore) : State :=
  ps.foldl (fun s p => s.performAt s.cur.bind.job s.cur.key.core p.va p.bytes p.count p.lines) s

/-- The landing with an identity number lands, with every older one that must land before it (R90). -/
def State.landV (s : State) (id : Nat) : State :=
  match s.cur.vfly.find? fun l => l.id = id with
  | .none => s
  | some l =>
    let first := s.cur.vfly.filter fun x => decide (x.id < id) && x.clash l
    (first ++ [l]).foldl (fun s x =>
      let s := s.upd fun t => { t.land x with vfly := t.vfly.filter fun y => y.id ≠ x.id }
      s.performAll x.stores) s

/-- VECTOR_LANDING: a vector result of a slot lands (R90); one whose stores are held on a circuit waits (R342). -/
def execVectorLanding (s : State) : Res :=
  .next (s.onSlot s.ev.slot fun s' =>
    if s'.cur.vfly.any fun l => decide (l.id = s.ev.num) && l.stores.all s'.storeOpen then s'.landV s.ev.num else s')

/-! ### Holds -/

/-- The stream holds issue for a free time within a bound; the word completes, or faults, when the hold ends. -/
def State.hold (s : State) (e : Stream) (bound : Nat) (f : Option SFault) : State :=
  let due := s.freeDue bound
  { s with freeCtr := s.freeCtr + 1 }.updStr e fun x =>
    { x with holdUntil := some due, holdFault := f.map fun g => { flt := g, fpc := pcWord x.pc, finsn := s.insn } }

/-- An instruction acts only while its stream does not hold issue (R220). -/
def unheld (e : Stream) (s : State) (r : Res) : Res :=
  match (s.cur.str e).holdUntil with
  | some _ => .next s
  | .none => r

/-- The vector stream issues a result that needs `count` runs, of at most `worst` before it is counted: into flight and
on, or into flight with issue held for the run count, or a held F_RUNOVF (R92, R147). -/
def State.issueCounted (s : State) (bound worst count : Nat) (l : VLanding) : State :=
  let tooMany := decide (s.cur.bind.vcap < count)
  let s' := if tooMany then s else s.fly bound l
  if s.cur.bind.vcap < worst then
    s'.hold .vector bound (if tooMany then some (flt 0x08 (min count 0xFFFF) 0) else .none)
  else s'.advance .vector

/-- A hold ends: the stream goes on, or takes the fault that was found (R92, R147, R163, R189). -/
def State.endHold (s : State) (e : Stream) : State :=
  let x := s.cur.str e
  match x.holdUntil with
  | .none => s
  | some _ =>
    let s := s.updStr e fun x => { x with holdUntil := .none, holdFault := .none }
    match x.holdFault with
    | .none => s.advance e
    | some f => s.raiseAt e f

end Sys2Proof.Machine
end

