-- ==== Sys2Proof/Machine/VecArith.lean ====
section
/-! DEFINITION. The element-wise instructions of the vector stream (R145, R149–R157). -/

namespace Sys2Proof.Machine

/-! ### The element-wise procedure -/

/-- What an element-wise instruction reads: the source registers a, b, … with the types it reads them as, the mask, and
whether it reads d (R145). -/
structure VIn where
  srcs : List (BitVec 5 × VType)
  mask : VMask
  readsD : Bool
deriving DecidableEq, Repr

/-- The registers read, with types and F_SHAPE details, in the order a, b, mask, d (R145, R146). A VSEL's mask is its
third source and has detail 2. -/
def VIn.inputs (i : VIn) (d : BitVec 5) (t : VType) : List (BitVec 5 × VType × Nat) :=
  (i.srcs.zipIdx.map fun x => (x.1.1, x.1.2, x.2))
    ++ (match i.mask with | some m => [(m, .i32, 2), (d, t, 3)] | none => if i.readsD then [(d, t, 3)] else [])

/-- One interval of an element-wise result: the old value where masked off, else the operation (R145). -/
def laneOp (i : VIn) (f : List Word32 → Word32 × FFlags) (vals : List Word32) : Word32 × FFlags :=
  let k := i.srcs.length
  match i.mask with
  | none => f vals
  | some _ =>
    let old := vals[k + 1]?.getD 0
    if vals[k]?.getD 0 = 0 then (old, 0) else f (vals.take k ++ (if i.readsD then [old] else []))

/-- The first input whose length does not fit (R145). -/
def shapeFault (n : Nat) : List (RunReg × Nat) → Option SFault
  | [] => none
  | (r, k) :: t => if r.fits n then shapeFault n t else some (flt 0x09 k 0)

/-- The runs of an element-wise result and its flags (R145). -/
def laneRuns (i : VIn) (f : List Word32 → Word32 × FFlags) (ins : List (List Run)) : List Run × FFlags :=
  (allIntervals ins).foldr (fun x acc =>
    let (v, g) := laneOp i f x.1
    ({ val := v, count := x.2 } :: acc.1, g ||| acc.2)) ([], 0)

/-- The stream issues a run-register result (R92, R147). -/
def State.issueRuns (s : State) (bound worst : Nat) (d : BitVec 5) (t : VType) (out : List Run) (fl : FFlags) : State :=
  s.issueCounted bound worst out.length { VLanding.none with runs := [(d, .runs t out)], flags := fl }

/-- The element-wise procedure (R145). -/
def elementwise (bounds : Nat × Nat) (i : VIn) (d : BitVec 5) (t : VType) (c : Bool)
    (f : RoundMode → List Word32 → Word32 × FFlags) (s : State) : Res :=
  unheld .vector s <|
    let n := s.cur.n
    let ins := i.inputs d t
    let (rs, ctr) := s.cur.readVs (ins.map fun x => x.1) s.freeCtr
    match shapeFault n ((rs.zip ins).map fun x => (x.1, x.2.2.2)) with
    | some g => .next (s.raise .vector g)
    | none =>
      let (out, fl) := laneRuns i (f s.cur.vcsr.rm) ((rs.zip ins).map fun x => x.1.read x.2.2.1 n)
      let out := if c || s.cur.vcsr.autoc then coalesce out else out
      .next ({ s with freeCtr := ctr }.issueRuns (if i.mask.isSome then bounds.2 else bounds.1)
        (intervalBound (rs.map RunReg.nruns)) d t out fl)

/-- The reads of a two-source form. -/
def vins3 (o : VArgs3) (readsD : Bool) : VIn := { srcs := [(o.a, o.t), (o.b, o.t)], mask := o.mask, readsD := readsD }

/-! ### Floating-point arithmetic (R150) -/

/-- A two-operand arithmetic result and its flags. -/
def arith2 (t : VType) (g : RoundMode → FVal → FVal → FVal) (rm : RoundMode) (vs : List Word32) : Word32 × FFlags :=
  let a := vval t (vs[0]?.getD 0)
  let b := vval t (vs[1]?.getD 0)
  let r := g rm a b
  let (w, f) := vround t rm r
  (w, f ||| nvOf [a, b] r)

def fpAdd (t : VType) := arith2 t fadd
def fpSub (t : VType) := arith2 t fun rm a b => match firstNan [a, b] with
  | some x => x
  | none => fadd rm a b.negate
def fpMul (t : VType) := arith2 t fun _ a b => fmul a b

/-- VDIV raises dz for a finite non-zero dividend over a zero. -/
def fpDiv (t : VType) (rm : RoundMode) (vs : List Word32) : Word32 × FFlags :=
  let a := vval t (vs[0]?.getD 0)
  let b := vval t (vs[1]?.getD 0)
  let (w, f) := arith2 t (fun _ a b => fdiv a b) rm vs
  (w, f ||| (if b.isZero && !a.isZero && !a.isInf && !a.isNan then flagDz else 0))

/-- VFMA and VFNMA: one rounding; an invalid product raises nv whatever the addend is (R150). -/
def fpFma (t : VType) (neg : Bool) (rm : RoundMode) (vs : List Word32) : Word32 × FFlags :=
  let a := vval t (vs[0]?.getD 0)
  let b := vval t (vs[1]?.getD 0)
  let d := vval t (vs[2]?.getD 0)
  let p := fmul a b
  let r := match firstNan [a, b, d] with
    | some x => x
    | none => if p.isNan then FVal.dflt else fadd rm (if neg then p.negate else p) d
  let (w, f) := vround t rm r
  (w, f ||| nvOf [a, b, d] r ||| (if invalidOf [a, b] p then flagNv else 0))

/-- VMIN and VMAX: `num` selects minimumNumber and maximumNumber (R151). -/
def fpMinMax (t : VType) (max num : Bool) (vs : List Word32) : Word32 × FFlags :=
  let a := vval t (vs[0]?.getD 0)
  let b := vval t (vs[1]?.getD 0)
  let r := if num && a.isNan && !b.isNan then b
    else if num && b.isNan && !a.isNan then a
    else if max then fmaximum a b else fminimum a b
  ((vround t .rne r).1, if a.isSnan || b.isSnan then flagNv else 0)

/-- The sign bit of a floating vector type. -/
def signOf (t : VType) : Word32 := if t = .bf16 then 0x8000#32 else 0x80000000#32

/-- RINT: an integral value of the same format; a zero result keeps the operand's sign (R152). -/
def fpRint (t : VType) (rm : RoundMode) (vs : List Word32) : Word32 × FFlags :=
  let a := vval t (vs[0]?.getD 0)
  match a with
  | .fin n m e => ((vround t rm (.fin n (roundAt rm n m e 0).1 0)).1, 0)
  | .inf _ => ((vround t rm a).1, 0)
  | .nan .. => ((vround t rm a.quiet).1, if a.isSnan then flagNv else 0)

def fpSqrt (t : VType) (rm : RoundMode) (vs : List Word32) : Word32 × FFlags :=
  let a := vval t (vs[0]?.getD 0)
  let r := fsqrt a
  let (w, f) := vround t rm r
  (w, f ||| nvOf [a] r)

def fpAbs (t : VType) (vs : List Word32) : Word32 × FFlags := (vs[0]?.getD 0 &&& ~~~ signOf t, 0)
def fpNeg (t : VType) (vs : List Word32) : Word32 × FFlags := (vs[0]?.getD 0 ^^^ signOf t, 0)

def fpSfu (op : Sfu) (t : VType) (vs : List Word32) : Word32 × FFlags :=
  let (b, f) := sfuRound op (vfmt t) (vval t (vs[0]?.getD 0))
  (BitVec.ofNat 32 b, f)

/-! ### Compare, select, convert, integers (R154–R157) -/

inductive Cond | eq | lt | le | unord | ne | gt | ge | ord
deriving DecidableEq, Repr

/-- A compare of ordered values. -/
def Cond.holds (c : Cond) (o : Ordering) : Bool :=
  match c with
  | .eq => o = .eq
  | .ne => o ≠ .eq
  | .lt => o = .lt
  | .le => o ≠ .gt
  | .gt => o = .gt
  | .ge => o ≠ .lt
  | .unord => false
  | .ord => true

/-- VCMP and VCMPN (R154). -/
def fpCmp (t : VType) (c : Cond) (vs : List Word32) : Word32 × FFlags :=
  let x := vs[0]?.getD 0
  let y := vs[1]?.getD 0
  let bit (b : Bool) : Word32 := if b then 1 else 0
  if t = .i32 then (bit (c.holds (compare x.toInt y.toInt)), 0)
  else
    let a := vval t x
    let b := vval t y
    if a.isNan || b.isNan then
      let quietOnly := match c with | .lt => false | .le => false | .gt => false | .ge => false | _ => true
      (bit (decide (c = .ne ∨ c = .unord)), if !quietOnly || a.isSnan || b.isSnan then flagNv else 0)
    else (bit (c.holds (fcmp a b)), 0)

/-- VSEL: a where the mask is true, else b (R155). -/
def selOp (vs : List Word32) : Word32 × FFlags := (if vs[2]?.getD 0 ≠ 0 then vs[0]?.getD 0 else vs[1]?.getD 0, 0)

/-- VCVT (R63, R156). -/
def cvtOp (src dst : VType) (rm : RoundMode) (vs : List Word32) : Word32 × FFlags :=
  let a := vval src (vs[0]?.getD 0)
  match dst with
  | .i32 => let (i, f) := toIntW 32 rm a; (BitVec.ofInt 32 i, f)
  | _ =>
    let (b, f) := if src = .i32 then roundTo (vfmt dst) rm false a else convF (vfmt src) (vfmt dst) rm false a
    (BitVec.ofNat 32 b, f ||| (if a.isSnan then flagNv else 0))

/-- An integer or bitwise operation; it raises no flag (R157). -/
def int2 (t : VType) (g : Word32 → Word32 → Word32) (vs : List Word32) : Word32 × FFlags :=
  (vbits t (g (vs[0]?.getD 0) (vs[1]?.getD 0)), 0)

/-- The reads of an integer form. -/
def vinsI (o : VArgsI) : VIn := { srcs := [(o.a, .i32), (o.b, .i32)], mask := o.mask, readsD := false }

def vecInt (g : Word32 → Word32 → Word32) (o : VArgsI) (s : State) : Res :=
  elementwise (22, 28) (vinsI o) o.d .i32 o.c (fun _ => int2 .i32 g) s

def vecLogic (g : Word32 → Word32 → Word32) (o : VArgs3) (s : State) : Res :=
  elementwise (22, 28) (vins3 o false) o.d o.t o.c (fun _ => int2 o.t g) s

/-! ### The instructions -/

def vec3 (bounds : Nat × Nat) (readsD : Bool) (f : VType → RoundMode → List Word32 → Word32 × FFlags) (o : VArgs3) (s : State) : Res :=
  elementwise bounds (vins3 o readsD) o.d o.t o.c (f o.t) s

def vec2 (bounds : Nat × Nat) (f : VType → RoundMode → List Word32 → Word32 × FFlags) (o : VArgs2) (s : State) : Res :=
  elementwise bounds { srcs := [(o.a, o.t)], mask := o.mask, readsD := false } o.d o.t o.c (f o.t) s

def vecSfu (op : Sfu) (o : VArgs1) (s : State) : Res :=
  elementwise (40, 40) { srcs := [(o.a, o.t)], mask := none, readsD := false } o.d o.t o.c (fun _ => fpSfu op o.t) s

def vecCmp (c : Cond) (o : VArgs3) (s : State) : Res :=
  elementwise (22, 28) (vins3 o false) o.d .i32 o.c (fun _ => fpCmp o.t c) s


/-- VADD (R150). -/
def execVadd (o : VArgs3) (s : State) : Res := vec3 (22, 28) false fpAdd o s

/-- VSUB (R150). -/
def execVsub (o : VArgs3) (s : State) : Res := vec3 (22, 28) false fpSub o s

/-- VMUL (R150). -/
def execVmul (o : VArgs3) (s : State) : Res := vec3 (22, 28) false fpMul o s

/-- VFMA (R150). -/
def execVfma (o : VArgs3) (s : State) : Res := vec3 (28, 28) true (fun t => fpFma t false) o s

/-- VFNMA (R150). -/
def execVfnma (o : VArgs3) (s : State) : Res := vec3 (28, 28) true (fun t => fpFma t true) o s

/-- VDIV (R150). -/
def execVdiv (o : VArgs3) (s : State) : Res := vec3 (40, 40) false fpDiv o s

/-- VMIN (R151). -/
def execVmin (o : VArgs3) (s : State) : Res := vec3 (22, 28) false (fun t _ => fpMinMax t false false) o s

/-- VMIN .NUM (R151). -/
def execVminNum (o : VArgs3) (s : State) : Res := vec3 (22, 28) false (fun t _ => fpMinMax t false true) o s

/-- VMAX (R151). -/
def execVmax (o : VArgs3) (s : State) : Res := vec3 (22, 28) false (fun t _ => fpMinMax t true false) o s

/-- VMAX .NUM (R151). -/
def execVmaxNum (o : VArgs3) (s : State) : Res := vec3 (22, 28) false (fun t _ => fpMinMax t true true) o s

/-- VUNARY SQRT (R152). -/
def execVsqrt (o : VArgs2) (s : State) : Res := vec2 (40, 40) fpSqrt o s

/-- VUNARY ABS (R152). -/
def execVabs (o : VArgs2) (s : State) : Res := vec2 (22, 28) (fun t _ => fpAbs t) o s

/-- VUNARY NEG (R152). -/
def execVneg (o : VArgs2) (s : State) : Res := vec2 (22, 28) (fun t _ => fpNeg t) o s

/-- VUNARY RINT (R152). -/
def execVrint (o : VArgs2) (s : State) : Res := vec2 (22, 28) fpRint o s

/-- EXP2 (R153). -/
def execVexp2 (o : VArgs1) (s : State) : Res := vecSfu .exp2 o s

/-- LOG2 (R153). -/
def execVlog2 (o : VArgs1) (s : State) : Res := vecSfu .log2 o s

/-- RCP (R153). -/
def execVrcp (o : VArgs1) (s : State) : Res := vecSfu .rcp o s

/-- RSQ (R153). -/
def execVrsq (o : VArgs1) (s : State) : Res := vecSfu .rsq o s

/-- TANH (R153). -/
def execVtanh (o : VArgs1) (s : State) : Res := vecSfu .tanh o s

/-- SIN (R153). -/
def execVsin (o : VArgs1) (s : State) : Res := vecSfu .sin o s

/-- COS (R153). -/
def execVcos (o : VArgs1) (s : State) : Res := vecSfu .cos o s

/-- ERF (R153). -/
def execVerf (o : VArgs1) (s : State) : Res := vecSfu .erf o s

/-- VCMP EQ (R154). -/
def execVcmpEq (o : VArgs3) (s : State) : Res := vecCmp .eq o s

/-- VCMP LT (R154). -/
def execVcmpLt (o : VArgs3) (s : State) : Res := vecCmp .lt o s

/-- VCMP LE (R154). -/
def execVcmpLe (o : VArgs3) (s : State) : Res := vecCmp .le o s

/-- VCMP UNORD (R154). -/
def execVcmpUnord (o : VArgs3) (s : State) : Res := vecCmp .unord o s

/-- VCMP NE (R154). -/
def execVcmpNe (o : VArgs3) (s : State) : Res := vecCmp .ne o s

/-- VCMP GT (R154). -/
def execVcmpGt (o : VArgs3) (s : State) : Res := vecCmp .gt o s

/-- VCMP GE (R154). -/
def execVcmpGe (o : VArgs3) (s : State) : Res := vecCmp .ge o s

/-- VCMP ORD (R154). -/
def execVcmpOrd (o : VArgs3) (s : State) : Res := vecCmp .ord o s

/-- VSEL (R155). -/
def execVsel (o : VSelArgs) (s : State) : Res := 
  elementwise (28, 28) { srcs := [(o.a, o.t), (o.b, o.t), (o.m, .i32)], mask := none, readsD := false } o.d o.t o.c (fun _ => selOp) s

/-- VCVT (R156). -/
def execVcvt (o : VCvtArgs) (s : State) : Res := 
  elementwise (22, 28) { srcs := [(o.a, o.src)], mask := o.mask, readsD := false } o.d o.t o.c (cvtOp o.src o.t) s

/-- VIADD (R157). -/
def execViadd (o : VArgsI) (s : State) : Res := vecInt (fun a b => a + b) o s

/-- VISUB (R157). -/
def execVisub (o : VArgsI) (s : State) : Res := vecInt (fun a b => a - b) o s

/-- VIMUL (R157). -/
def execVimul (o : VArgsI) (s : State) : Res := vecInt (fun a b => a * b) o s

/-- VSLL (R157). -/
def execVsll (o : VArgsI) (s : State) : Res := vecInt (fun a b => a <<< (b.toNat % 32)) o s

/-- VSRL (R157). -/
def execVsrl (o : VArgsI) (s : State) : Res := vecInt (fun a b => a >>> (b.toNat % 32)) o s

/-- VSRA (R157). -/
def execVsra (o : VArgsI) (s : State) : Res := vecInt (fun a b => a.sshiftRight (b.toNat % 32)) o s

/-- VIMIN (R157). -/
def execVimin (o : VArgsI) (s : State) : Res := vecInt (fun a b => if a.slt b then a else b) o s

/-- VIMAX (R157). -/
def execVimax (o : VArgsI) (s : State) : Res := vecInt (fun a b => if a.slt b then b else a) o s

/-- VIMINU (R157). -/
def execViminu (o : VArgsI) (s : State) : Res := vecInt (fun a b => if a.ult b then a else b) o s

/-- VIMAXU (R157). -/
def execVimaxu (o : VArgsI) (s : State) : Res := vecInt (fun a b => if a.ult b then b else a) o s

/-- VLOGIC AND (R157). -/
def execVand (o : VArgs3) (s : State) : Res := vecLogic (fun a b => a &&& b) o s

/-- VLOGIC OR (R157). -/
def execVor (o : VArgs3) (s : State) : Res := vecLogic (fun a b => a ||| b) o s

/-- VLOGIC XOR (R157). -/
def execVxor (o : VArgs3) (s : State) : Res := vecLogic (fun a b => a ^^^ b) o s

/-- VLOGIC ANDN (R157). -/
def execVandn (o : VArgs3) (s : State) : Res := vecLogic (fun a b => a &&& ~~~ b) o s


end Sys2Proof.Machine
end

