-- ==== Sys2Proof/Machine/Operands.lean ====
section
/-! DEFINITION. Operand forms of the engines: tensors named by a handle (R15, R43, R160, R181, R199), their footprints,
and the checks on the bytes an engine instruction touches (R161, R182, R197). -/

namespace Sys2Proof.Machine

/-- The tensor of a handle, its base moved by an offset term (R20, R43). DESIGN CHOICE: w1[63:59], to which R43 gives no
field, is ignored (log 90). -/
def Handle.tensor (h : Handle) (term : Word) : Tensor :=
  { base := h.w0 + term, e0 := wbits h.w1 0 16 + 1, e1 := wbits h.w1 16 16 + 1, e2 := wbits h.w1 32 16 + 1,
    fmt := wbits h.w1 48 4, space := wbits h.w1 52 2, swz := wbits h.w1 54 3, bg := h.w1.getLsbD 57, pair := h.w1.getLsbD 58,
    str1 := signedOf 32 (wbits h.w2 0 32), str2 := signedOf 32 (wbits h.w2 32 32), hdr := wbits h.w3 0 32,
    scale := BitVec.ofNat 32 (wbits h.w3 32 32), pages := [] }

/-- Bits of an element of a format code (R46); 0 for a reserved code. -/
def elemBits (fmt : Nat) : Nat :=
  match fmt with
  | 0 => 32 | 1 => 16 | 2 => 8 | 3 => 8 | 4 => 4 | 5 => 8 | 6 => 32 | 7 => 64 | 8 => 8 | _ => 0

/-- The floating format of a format code that has one (R46). -/
def fmtF (fmt : Nat) : FFmt :=
  match fmt with
  | 1 => bf16 | 2 => e4m3 | 3 => e5m2 | 4 => e2m1 | 8 => e4m3 | _ => fp32

/-- The value of an element's bits in a format code, before block scaling (R46, R47, R57). -/
def fmtVal (fmt bits : Nat) : FVal :=
  match fmt with
  | 5 => FVal.ofInt (signedOf 8 (bits % 256))
  | 6 => FVal.ofInt (signedOf 32 (bits % 2 ^ 32))
  | _ => decodeF (fmtF fmt) bits

/-- The swizzle span S in bytes (R160). -/
def Tensor.span (x : Tensor) : Nat := 16 * 2 ^ x.swz

/-- A swizzle span that the strides do not keep raises F_ILLEGAL with detail 4 (R160). -/
def Tensor.swzBad (x : Tensor) : Bool :=
  decide (x.swz ≠ 0) && ((decide (1 < x.e1) && decide (x.str1 % x.span ≠ 0)) || (decide (1 < x.e2) && decide (x.str2 % x.span ≠ 0)))

/-- The byte of an element within its row, before and after the swizzle (R160). -/
def swizzle (span i1 b : Nat) : Nat := ((b / 16) ^^^ (i1 % (span / 16))) * 16 + b % 16

/-- The start of row (i1, i2) as an offset from the base (R199). -/
def Tensor.rowOff (x : Tensor) (i1 i2 : Nat) : Int := (i1 : Int) * x.str1 + (i2 : Int) * x.str2

/-- An address of the tensor's space as a job virtual address: space 1 is the core's own scratchpad window (R160). -/
def Tensor.va (x : Tensor) (g : CoreId) (a : Word) : Word :=
  if x.space = 1 then BitVec.ofNat 64 (windowAddr g 0) + a else a

/-- The job virtual address of the byte that holds element (i0, i1, i2), unswizzled byte b of its row (R160, R199). -/
def Tensor.byteVa (x : Tensor) (g : CoreId) (i1 i2 b : Nat) : Word :=
  x.va g (x.base + BitVec.ofInt 64 (x.rowOff i1 i2 + swizzle x.span i1 b))

/-- The footprint of the first n elements of a row: its start as a job virtual address and its length (R160). -/
def Tensor.rowFoot (x : Tensor) (g : CoreId) (i1 i2 n : Nat) : Nat × Nat :=
  let len := (n * elemBits x.fmt + 7) / 8
  let len := if x.swz = 0 then len else (len + x.span - 1) / x.span * x.span
  ((x.va g (x.base + BitVec.ofInt 64 (x.rowOff i1 i2))).toNat, len)

/-- The header array: its start and length in bytes, for a block size (R52). -/
def Tensor.hdrFoot (x : Tensor) (g : CoreId) (bs : Nat) : Nat × Nat :=
  ((x.va g (x.base + BitVec.ofNat 64 x.hdr)).toNat, 4 * (x.e2 * x.e1 * (x.e0 / bs)))

/-- The header word number of the block that holds (i0, i1, i2) (R52). -/
def Tensor.hdrIndex (x : Tensor) (bs i0 i1 i2 : Nat) : Nat := (i2 * x.e1 + i1) * (x.e0 / bs) + i0 / bs

/-! ### Checks of footprints -/

/-- The first address of [lo, hi) outside the thread's two halves. -/
def Slot.outside (t : Slot) : Nat → Nat → Nat → Option Nat
  | 0, _, _ => none
  | n + 1, lo, hi =>
    let a := windowAddr t.key.core t.bind.spbaseA
    let b := windowAddr t.key.core t.bind.spbaseB
    if hi ≤ lo then none
    else if a ≤ lo ∧ lo < a + t.bind.spsize then Slot.outside t n (a + t.bind.spsize) hi
    else if b ≤ lo ∧ lo < b + t.bind.spsize then Slot.outside t n (b + t.bind.spsize) hi
    else some lo

/-- The lower of two optional faults by address. -/
def lowerFault (a b : Option SFault) : Option SFault :=
  match a, b with
  | none, y => y
  | x, none => x
  | some x, some y => if y.addr.toNat < x.addr.toNat then some y else some x

/-- F_PROTECT of a footprint in the own scratchpad: outside the halves, or in the completion ring for a store (R33,
R161). -/
def Slot.spadProtect (t : Slot) (kind : AccKind) (f : Nat × Nat) : Option SFault :=
  let hi := f.1 + f.2
  let out := (t.outside 4 f.1 hi).map fun a => flt 0x04 1 (BitVec.ofNat 64 a)
  let ring :=
    if kind ≠ .load ∧ f.1 < t.ringBase + 2048 ∧ t.ringBase < hi then some (flt 0x04 3 (BitVec.ofNat 64 (max f.1 t.ringBase)))
    else none
  lowerFault out ring

/-- The 64 KiB granules that [lo, lo + len) touches: the first address of the range in each. -/
def granules (lo len : Nat) : List Nat :=
  if len = 0 then []
  else (List.range ((lo + len - 1) / 65536 - lo / 65536 + 1)).map fun i => if i = 0 then lo else (lo / 65536 + i) * 65536

/-- The token check of R103 at an address, as a fault (R161). -/
def State.tokenFault (s : State) (kind : AccKind) (a : Nat) : Option SFault :=
  match findRegion s.tokens s.cur.bind.job a with
  | none => some (flt 0x05 0 (BitVec.ofNat 64 a))
  | some e => match s.tokenCheck e s.cur.key.agent a kind false with
    | .ok _ => none
    | .error (c, d) => some (flt (BitVec.ofNat 8 c) d (BitVec.ofNat 64 a))

/-- The checks on footprints in the own scratchpad: protection first, then tokens, the lowest address first (R161,
R182). -/
def State.spadCheck (s : State) (kind : AccKind) (fs : List (Nat × Nat)) : Option SFault :=
  match fs.foldl (fun b f => lowerFault b (s.cur.spadProtect kind f)) none with
  | some f => some f
  | none => fs.foldl (fun b f => (granules f.1 f.2).foldl (fun b a => lowerFault b (s.tokenFault kind a)) b) none

/-- A fault, or go on. -/
def failIf (f : Option SFault) : Chk Unit := match f with | some x => .error x | none => .ok ()

/-- A condition that raises a fault. -/
def require (c : Bool) (f : SFault) : Chk Unit := if c then .ok () else .error f

/-- The home key of a byte in the own scratchpad: the other half while a pair's halves are exchanged (R141). -/
def State.spadKey (s : State) (a : Nat) : Nat :=
  match findRegion s.tokens s.cur.bind.job a with
  | some e => e.behind a
  | none => a

/-- A byte stored by an engine into a region counts in its window (R103). -/
def State.putAt (s : State) (a : Nat) : Bool :=
  (findRegion s.tokens s.cur.bind.job a).elim false fun e => decide (e.st = .window)

/-- A store of one byte of an engine result. -/
def State.oneStore (s : State) (kind : PageKind) (c : Nat × Nat × Byte) : PendStore :=
  { va := BitVec.ofNat 64 c.1, bytes := [(c.2.1, c.2.2)], lines := [c.1 / 128], kind := kind, rel := false, count := if s.putAt c.1 then 1 else 0, due := 0
    ch := s.storeCircuit c.2.1 fun x => x.carries (dieOf s.cur.key.core) (homeOfKey c.2.1) }

/-- The L1 lines of a store that takes in one more byte (R105). -/
def addLine (lines : List Nat) (va : Nat) : List Nat := if lines.head? = some (va / 128) then lines else va / 128 :: lines

/-- The last write of each byte, by home key. -/
def lastCells : List (Nat × Nat × Byte) → List (Nat × Nat × Byte)
  | [] => []
  | c :: t => if t.any fun d => decide (d.2.1 = c.2.1) then lastCells t else c :: lastCells t

/-- The writes of one instruction that are performed: into a window each byte once, with its last value (R103). -/
def State.putCells (s : State) (cells : List (Nat × Nat × Byte)) : List (Nat × Nat × Byte) :=
  if cells.any fun c => s.putAt c.1 then lastCells cells else cells

/-- Stores of an engine result: bytes by job virtual address and home key, one store for each run of bytes of a 64 KiB
granule (R164, R192). DEDUCED: a region byte that one instruction writes more than once counts once (R103, log 97). -/
def State.engineStores (s : State) (kind : PageKind) (cells : List (Nat × Nat × Byte)) : List PendStore :=
  (s.putCells cells).foldr (fun c acc =>
    match acc with
    | p :: rest =>
      if p.va.toNat / 65536 = c.1 / 65536 then
        { p with va := BitVec.ofNat 64 c.1, bytes := (c.2.1, c.2.2) :: p.bytes, lines := addLine p.lines c.1, count := if p.count = 0 then 0 else p.count + 1 } :: rest
      else s.oneStore kind c :: acc
    | [] => [s.oneStore kind c]) []

/-- Footprints touch the own scratchpad while an MMA streams from its bank groups (R94, R161, R184). -/
def State.footsHeld (s : State) (x : Tensor) (fs : List (Nat × Nat)) : Bool :=
  let g := s.cur.key.core
  s.streaming g && decide (x.space = 1) &&
    fs.any fun f => decide (f.2 ≠ 0) && decide (f.1 < windowAddr g 0x2000000) && decide (windowAddr g 0 < f.1 + f.2)

/-- The lowest of some numbers. -/
def lowest (l : List Nat) : Option Nat := l.foldl (fun (b : Option Nat) (a : Nat) => some (b.elim a fun m => min m a)) none

/-- FADDR of an F_ALIGN for a base or stride that elements of es bytes do not keep: the lowest start of a touched row that is no
multiple of es, or the lowest start where each is one (R161). DEDUCED: R161 names the lowest faulting address (log 127). -/
def alignAddr (es : Nat) (fs : List (Nat × Nat)) : Word :=
  let starts := fs.map Prod.fst
  BitVec.ofNat 64 (((lowest (starts.filter fun a => decide (a % es ≠ 0))).or (lowest starts)).getD 0)

/-- A list cut into pieces of n; fuel is its length. -/
def chunksOf {α : Type} (n : Nat) : Nat → List α → List (List α)
  | 0, _ => []
  | f + 1, l => if l.isEmpty then [] else l.take n :: chunksOf n f (l.drop n)

/-- The chunks of a store that crosses a circuit (R343). -/
def PendStore.cut (p : PendStore) : List PendStore :=
  if p.ch.isNone then [p]
  else (chunksOf 4096 p.bytes.length p.bytes).map fun bs => { p with bytes := bs, count := if p.count = 0 then 0 else bs.length }

/-- Chunks numbered in their order. -/
def numberChunks (ps : List PendStore) : List PendStore := ps.zipIdx.map fun p => { p.1 with due := p.2 }

/-- The bytes that a matrix instruction reads on other dies, in the chunks in which they cross (R342, R343). -/
def State.loadChunks (s : State) (cells : List (Nat × Nat × Byte)) : List PendStore :=
  let own := dieOf s.cur.key.core
  let far := cells.filter fun c => decide (homeOfKey c.2.1 ≠ own)
  numberChunks <| (far.map fun c => homeOfKey c.2.1).eraseDups.flatMap fun d =>
    let cs := far.filter fun c => decide (homeOfKey c.2.1 = d)
    (chunksOf 4096 cs.length cs).map fun bs =>
      { va := BitVec.ofNat 64 (bs.headD (0, 0, 0)).1, bytes := bs.map Prod.snd, lines := [], kind := .unordered, rel := false, count := 0, due := 0
        ch := (pickCircuit s.circuits fun x => x.carries d own && x.isLive).map fun x => x.ch }

/-! ### Space 0 (R101, R199, R342) -/

/-- A live circuit of the launch that carries engine data from one die to another; within a die none is needed
(R342). -/
def State.dataPath (s : State) (src dst : Nat) : Option SFault :=
  if src = dst then none
  else match pickCircuit s.circuits fun c => c.carries src dst && c.isLive with
    | some _ => none
    | none => some (flt 0x0D (firstHandle s.launch? * 256) 0)

/-- The moves of bytes between dies that an access needs, own die and home (R342). -/
def movesOf (kind : AccKind) (own home : Nat) : List (Nat × Nat) :=
  match kind with | .load => [(home, own)] | _ => [(own, home)]

/-- The checks of R101 on the bytes of a granule that an engine touches in space 0, from its first address. -/
def State.globalFault (s : State) (kind : AccKind) (a : Nat) : Option SFault :=
  let va := BitVec.ofNat 64 a
  if !inPages a then some (flt 0x03 0 va)
  else match s.pageAdmit va kind false with
    | .error f => some f
    | .ok acc => (movesOf kind (dieOf s.cur.key.core) acc.home).foldl (fun b m => b.or ((s.dataPath m.1 m.2).map fun f => { f with addr := va })) none

/-- The checks on footprints in space 0: the lowest faulting address decides (R188). -/
def State.globalCheck (s : State) (kind : AccKind) (fs : List (Nat × Nat)) : Option SFault :=
  fs.foldl (fun b f => (granules f.1 f.2).foldl (fun b a => lowerFault b (s.globalFault kind a)) b) none

/-- The checks on footprints in the space of a tensor that the matrix stream accesses (R188). -/
def State.spaceCheck (s : State) (x : Tensor) (kind : AccKind) (fs : List (Nat × Nat)) : Option SFault :=
  if x.space = 1 then s.spadCheck kind fs else s.globalCheck kind fs

/-- The home key of a byte of the page range. -/
def State.globalKey (s : State) (va : Nat) : Nat :=
  let a := s.spadKey va
  match s.translate s.cur.key.core s.cur.bind.job a with
  | .ok m => m.pa
  | .error _ => 0

/-- The physical address that a translation made at issue gives (R299). -/
def Tensor.page (x : Tensor) (a : Nat) : Option Nat := (x.pages.find? fun p => decide (p.1 = a / 65536)).map fun p => p.2 + a % 65536

/-- The home key of a byte that an engine reaches through a tensor: in the page range by the translations it holds (R299). -/
def State.tensorKey (s : State) (x : Tensor) (va : Nat) : Nat :=
  let a := s.spadKey va
  if inPages va then (x.page a).getD (s.globalKey va) else a

/-- The address in the other half of a pair (R141). -/
def Entry.twin (e : Entry) (va : Nat) : Nat := { e with pair := true }.behind va

/-- The translations of the granules of footprints in the page range, both halves of a pair (R141, R299). -/
def State.pagesOf (s : State) (fs : List (Nat × Nat)) : List (Nat × Nat) :=
  let at_ (a : Nat) : List (Nat × Nat) := match s.translate s.cur.key.core s.cur.bind.job a with
    | .ok m => [(a / 65536, m.pa - a % 65536)]
    | .error _ => []
  fs.foldl (fun (acc : List (Nat × Nat)) (f : Nat × Nat) => (granules f.1 f.2).foldl (fun (acc : List (Nat × Nat)) (a : Nat) =>
    if !inPages a || acc.any fun p => decide (p.1 = a / 65536) then acc
    else acc ++ at_ a ++ (findRegion s.tokens s.cur.bind.job a).elim [] fun e => if e.paired || e.pair then at_ (e.twin a) else []) acc) []

/-! ### Bytes of rows -/

/-- The state as engine stores in flight leave it (R164, R192). -/
def State.seeing (s : State) (ps : List PendStore) : State := ps.foldl (fun s p => s.store p.bytes) s

/-- A byte of a tensor's space at a job virtual address; F_ECC under an uncorrectable error (R163, R189, R287). -/
def State.tensorByte (s : State) (x : Tensor) (va : Word) : Chk Byte :=
  let k := s.tensorKey x va.toNat
  match eccAt s.bad k with
  | some l => .error (flt 0x11 l va)
  | none => .ok (s.byteAt k)

/-- n bytes from byte b of row i1 on. -/
def State.rowBytes (s : State) (x : Tensor) (i1 b n : Nat) : Chk (List Byte) :=
  (List.range n).mapM fun i => s.tensorByte x (x.byteVa s.cur.key.core i1 0 (b + i))

/-- The bytes at byte b of row i1 on, with their job virtual addresses and home keys. -/
def State.rowCells (s : State) (x : Tensor) (i1 b : Nat) (bs : List Byte) : List (Nat × Nat × Byte) :=
  bs.zipIdx.map fun p =>
    let va := (x.byteVa s.cur.key.core i1 0 (b + p.2)).toNat
    (va, s.tensorKey x va, p.1)

/-! ### Granule tags (R182, R188, R286) -/

/-- Every 2 KiB granule that footprints in the own scratchpad touch holds a tag. -/
def State.tagsAre (s : State) (swz : Nat) (fs : List (Nat × Nat)) : Bool :=
  fs.all fun f => f.2 = 0 || (List.range ((windowOff f.1 + f.2 - 1) / 2048 - windowOff f.1 / 2048 + 1)).all fun i =>
    decide ((s.ownCore.tag (windowOff f.1 / 2048 + i)).toNat = swz)

end Sys2Proof.Machine
end

