-- ==== Sys2Proof/Machine/VecReduce.lean ====
section
/-! DEFINITION. Reductions, scans, segments, run management and constants of the vector stream (R72–R75, R167–R174). -/

namespace Sys2Proof.Machine

/-! ### Sums and extrema in their order (R72–R75) -/

/-- Runs cut after n elements. -/
def splitRuns : Nat → List Run → List Run × List Run
  | _, [] => ([], [])
  | n, r :: t =>
    if n = 0 then ([], r :: t)
    else if r.count ≤ n then
      let (a, b) := splitRuns (n - r.count) t
      (r :: a, b)
    else ([{ r with count := n }], { r with count := r.count - n } :: t)

/-- Runs cut into pieces of given lengths. -/
def cutRuns : List Nat → List Run → List (List Run)
  | [], _ => []
  | n :: ns, rs => let (a, b) := splitRuns n rs; a :: cutRuns ns b

/-- A run value as FP32 bits: BF16 is widened exactly (R72, R167). -/
def widenRuns (t : VType) (rs : List Run) : List Run :=
  if t = .bf16 then rs.map fun r => { r with val := r.val <<< 16 } else rs

/-- fp32_rne(a + b) on bits, with its flags (R48, R64). -/
def addF32 (a b : Word32) : Word32 × FFlags :=
  let x := decodeF fp32 a.toNat
  let y := decodeF fp32 b.toNat
  let r := fadd .rne x y
  let (w, f) := vround .f32 .rne r
  (w, f ||| nvOf [x, y] r)

/-- The tree's value over 2^m equal elements: m doublings (R72). -/
def doubleF32 : Nat → Word32 → Word32 × FFlags
  | 0, v => (v, 0)
  | m + 1, v =>
    let (x, f) := doubleF32 m v
    let (y, g) := addF32 x x
    (y, f ||| g)

/-- The node of the tree of R72 over 2^m indices; none where it is absent. -/
def treeF32 : Nat → List Run → Option (Word32 × FFlags)
  | _, [] => none
  | 0, r :: _ => some (r.val, 0)
  | m + 1, r :: t =>
    if t.isEmpty && decide (r.count = 2 ^ (m + 1)) then some (doubleF32 (m + 1) r.val)
    else
      let (a, b) := splitRuns (2 ^ m) (r :: t)
      match treeF32 m a, treeF32 m b with
      | some x, some y => let (z, f) := addF32 x.1 y.1; some (z, x.2 ||| y.2 ||| f)
      | some x, none => some x
      | none, y => y

/-- Levels of the tree over n elements: the smallest power of two is at least n. -/
def treeLevels (n : Nat) : Nat := if n ≤ 1 then 0 else (n - 1).log2 + 1

/-- The exact integer sum of INT32 runs (R73). -/
def sumInt (rs : List Run) : Int := rs.foldl (fun (n : Int) (r : Run) => n + r.val.toInt * (r.count : Int)) 0

/-- The tree sum of runs: FP32 by R72, INT32 modulo 2^32 (R57, R75). -/
def sumTree (t : VType) (rs : List Run) : Word32 × FFlags :=
  match t with
  | .i32 => (BitVec.ofInt 32 (sumInt rs), 0)
  | _ => (treeF32 (treeLevels (runsLen rs)) (widenRuns t rs)).getD (0, 0)

/-- SUM.R: the runs in order in A80, rounded once (R73, R168). -/
def sumRuns (t : VType) (rs : List Run) : Word32 × FFlags :=
  let step (acc : FVal × FFlags) (r : Run) : FVal × FFlags :=
    let v := decodeF fp32 r.val.toNat
    let x := fmul v (FVal.ofInt r.count)
    let y := fadd .rne acc.1 x
    (rne68 y, acc.2 ||| (if v.isSnan || invalidOf [acc.1, x] y then flagNv else 0))
  let (a, f) := (widenRuns t rs).foldl step (FVal.zero, 0)
  let (w, g) := vround .f32 .rne a
  (w, f ||| g)

/-- The maximum or minimum of two FP32 values (R74). -/
def extremum (max : Bool) (a b : FVal) : FVal := if max then fmaximum a b else fminimum a b

/-- The signed maximum or minimum of two INT32 values (R167). -/
def extremumInt (max : Bool) (a b : Word32) : Word32 := if (if max then a.slt b else b.slt a) then b else a

/-- The maximum or minimum of runs (R74, R167). -/
def extremeOf (t : VType) (max : Bool) (rs : List Run) : Word32 × FFlags :=
  match t with
  | .i32 => (match rs with
    | [] => (0, 0)
    | r :: u => (u.foldl (fun (a : Word32) (x : Run) => extremumInt max a x.val) r.val, 0))
  | _ =>
    match (widenRuns t rs).map fun r => decodeF fp32 r.val.toNat with
    | [] => (0, 0)
    | v :: u => ((vround .f32 .rne (u.foldl (extremum max) v)).1, if (v :: u).any FVal.isSnan then flagNv else 0)

/-- The flags that any of several results raises (R64). -/
def orFlags (xs : List (Word32 × FFlags)) : FFlags := xs.foldl (fun (a : FFlags) (x : Word32 × FFlags) => a ||| x.2) 0

/-- The type of a reduction's result (R167). -/
def redType (t : VType) : VType := if t = .i32 then .i32 else .f32

/-! ### VRED (R168) -/

/-- An e-register result with no runs to count. -/
def State.issueE (s : State) (bound : Nat) (e : BitVec 3) (v : Word) (fl : FFlags) : State :=
  (s.fly bound { VLanding.none with ereg := some (e, v), flags := fl }).advance .vector

/-- VRED: the result of a reduction of register a in e(d) (R167, R168). -/
def vred (f : VType → List Run → Word × FFlags) (o : VRedArgs) (s : State) : Res :=
  unheld .vector s <|
    let (r, ctr) := s.cur.readV o.a s.freeCtr
    if !r.fits s.cur.n then .next (s.raise .vector (flt 0x09 0 0))
    else
      let (v, fl) := f o.t (r.read o.t s.cur.n)
      .next ({ s with freeCtr := ctr }.issueE 48 o.e v fl)

/-- A sum in an e register: exact in 64 bits for INT32 (R73, R168). -/
def redSum (g : VType → List Run → Word32 × FFlags) (t : VType) (rs : List Run) : Word × FFlags :=
  match t with
  | .i32 => (BitVec.ofInt 64 (sumInt rs), 0)
  | _ => let (w, f) := g t rs; (w.setWidth 64, f)

/-- A maximum or minimum in an e register: sign-extended for INT32 (R168). -/
def redExtreme (max : Bool) (t : VType) (rs : List Run) : Word × FFlags :=
  let (w, f) := extremeOf t max rs
  (if t = .i32 then w.signExtend 64 else w.setWidth 64, f)

/-- VRED.SUM.T (R72, R168). -/
def execVredSumT (o : VRedArgs) (s : State) : Res := vred (redSum sumTree) o s
/-- VRED.SUM.R (R73, R168). -/
def execVredSumR (o : VRedArgs) (s : State) : Res := vred (redSum sumRuns) o s
/-- VRED.MAX (R74, R168). -/
def execVredMax (o : VRedArgs) (s : State) : Res := vred (redExtreme true) o s
/-- VRED.MIN (R74, R168). -/
def execVredMin (o : VRedArgs) (s : State) : Res := vred (redExtreme false) o s

/-! ### VREDROW (R169) and VSCAN (R170) -/

/-- A run-register result of a one-source form, from `worst` runs before coalescing (R167). -/
def State.issueOut (s : State) (bound : Nat) (d : BitVec 5) (c : Bool) (t : VType) (out : List Run) (fl : FFlags) : State :=
  let out' := if c || s.cur.vcsr.autoc then coalesce out else out
  s.issueRuns bound out.length d t out' fl

/-- VREDROW: element r is the reduction of row r (R169). -/
def vredrow (f : VType → List Run → Word32 × FFlags) (o : VArgs1) (s : State) : Res :=
  unheld .vector s <|
    let (r, ctr) := s.cur.readV o.a s.freeCtr
    if !r.fits s.cur.n then .next (s.raise .vector (flt 0x09 0 0))
    else
      let rows := (cutRuns (List.replicate s.cur.rows s.cur.cols) (r.read o.t s.cur.n)).map (f o.t)
      .next ({ s with freeCtr := ctr }.issueOut 56 o.d o.c (redType o.t) (elemRuns (rows.map Prod.fst))
        (orFlags rows))

/-- VREDROW.SUM (R75, R169). -/
def execVredrowSum (o : VArgs1) (s : State) : Res := vredrow sumTree o s
/-- VREDROW.MAX (R74, R169). -/
def execVredrowMax (o : VArgs1) (s : State) : Res := vredrow (fun t => extremeOf t true) o s
/-- VREDROW.MIN (R74, R169). -/
def execVredrowMin (o : VArgs1) (s : State) : Res := vredrow (fun t => extremeOf t false) o s

/-- One addition of a scan (R57, R75). -/
def scanAdd (t : VType) (a b : Word32) : Word32 × FFlags := if t = .i32 then (a + b, 0) else addF32 a b

/-- The values after each further element of a scan, from the value before (R75). -/
def scanFrom (t : VType) (acc : Word32) : List Word32 → List (Word32 × FFlags)
  | [] => []
  | v :: vs => let (x, f) := scanAdd t acc v; (x, f) :: scanFrom t x vs

/-- VSCAN.SUM: inclusive from the first element, exclusive from +0 (R75, R170). -/
def scanSum (incl : Bool) (t : VType) (vs : List Word32) : List (Word32 × FFlags) :=
  match vs with
  | [] => []
  | v :: u => if incl then (v, 0) :: scanFrom t v u else (0, 0) :: scanFrom t 0 (v :: u).dropLast

/-- A VSCAN sum: N at most 256, one run for each element (R170). -/
def vscanSum (incl : Bool) (o : VArgs1) (s : State) : Res :=
  unheld .vector s <|
    let (r, ctr) := s.cur.readV o.a s.freeCtr
    if !r.fits s.cur.n || decide (256 < s.cur.n) then .next (s.raise .vector (flt 0x09 0 0))
    else
      let out := scanSum incl o.t (runElems (widenRuns o.t (r.read o.t s.cur.n)))
      .next ({ s with freeCtr := ctr }.issueOut 64 o.d o.c (redType o.t) (elemRuns (out.map Prod.fst))
        (orFlags out))

/-- VSCAN.SUM.I (R170). -/
def execVscanSumI (o : VArgs1) (s : State) : Res := vscanSum true o s
/-- VSCAN.SUM.E (R170). -/
def execVscanSumE (o : VArgs1) (s : State) : Res := vscanSum false o s

/-- The running maximum over runs: one run for each run (R75, R170). -/
def scanMaxRuns (t : VType) : List Run → List Run → List Run
  | _, [] => []
  | seen, r :: rs => { val := (extremeOf t true (seen ++ [r])).1, count := r.count } ::
      scanMaxRuns t [{ val := (extremeOf t true (seen ++ [r])).1, count := 1 }] rs

/-- VSCAN.MAX.I (R170). -/
def execVscanMaxI (o : VArgs1) (s : State) : Res :=
  unheld .vector s <|
    let (r, ctr) := s.cur.readV o.a s.freeCtr
    if !r.fits s.cur.n then .next (s.raise .vector (flt 0x09 0 0))
    else
      let rs := widenRuns o.t (r.read o.t s.cur.n)
      .next ({ s with freeCtr := ctr }.issueOut 64 o.d o.c (redType o.t) (scanMaxRuns (redType o.t) [] rs)
        (extremeOf (redType o.t) true rs).2)

/-! ### VSEG (R171) -/

/-- What a VSEG form gives for a segment's runs of a. -/
inductive SegOp | sumE | sumP | maxE | cntP
deriving DecidableEq, Repr

/-- The value of a segment and its flags (R171). -/
def SegOp.value (g : SegOp) (t : VType) (len : Nat) (rs : List Run) : Word32 × FFlags :=
  match g with
  | .maxE => extremeOf t true rs
  | .cntP => (BitVec.ofNat 32 len, 0)
  | _ => sumTree t rs

/-- VSEG: the segments are the runs of b as stored (R171). -/
def vseg (g : SegOp) (o : VSegArgs) (s : State) : Res :=
  unheld .vector s <|
    let n := s.cur.n
    let (a, c1) := s.cur.readV o.a s.freeCtr
    let (b, c2) := s.cur.readV o.b c1
    if !a.fits n then .next (s.raise .vector (flt 0x09 0 0))
    else if !b.fits n then .next (s.raise .vector (flt 0x09 1 0))
    else
      let lens := (b.read .f32 n).map fun r => r.count
      let vs := (lens.zip (cutRuns lens (a.read o.t n))).map fun x => g.value o.t x.1 x.2
      let spread := g = SegOp.sumE ∨ g = SegOp.maxE
      let out := (lens.zip vs).map fun x => { val := x.2.1, count := if spread then x.1 else 1 : Run }
      .next ({ s with freeCtr := c2 }.issueOut 64 o.d o.c (if g = SegOp.cntP then .i32 else redType o.t) out
        (orFlags vs))

/-- VSEGSUM.E (R171). -/
def execVsegsumE (o : VSegArgs) (s : State) : Res := vseg .sumE o s
/-- VSEGSUM.P (R171). -/
def execVsegsumP (o : VSegArgs) (s : State) : Res := vseg .sumP o s
/-- VSEGMAX.E (R171). -/
def execVsegmaxE (o : VSegArgs) (s : State) : Res := vseg .maxE o s
/-- VSEGCNT.P (R171). -/
def execVsegcntP (o : VSegArgs) (s : State) : Res := vseg .cntP o s

/-! ### VRUN, VIOTA, VSPLAT (R172–R174) -/

/-- VRCOAL: adjacent bit-identical runs merged; a ZERO source gives a ZERO d (R172). -/
def execVrcoal (d a : BitVec 5) (s : State) : Res :=
  unheld .vector s <|
    let (r, ctr) := s.cur.readV a s.freeCtr
    let out : RunReg := match r with | .zero => .zero | .runs t rs => .runs t (coalesce rs)
    .next ({ s with freeCtr := ctr }.issueCounted 22 1 1 { VLanding.none with runs := [(d, out)] })

/-- VRCNT (R172). -/
def execVrcnt (e : BitVec 3) (a : BitVec 5) (s : State) : Res :=
  unheld .vector s <|
    let (r, ctr) := s.cur.readV a s.freeCtr
    .next ({ s with freeCtr := ctr }.issueE 22 e (BitVec.ofNat 64 r.nruns) 0)

/-- VRLEN (R172). -/
def execVrlen (e : BitVec 3) (a : BitVec 5) (s : State) : Res :=
  unheld .vector s <|
    let (r, ctr) := s.cur.readV a s.freeCtr
    .next ({ s with freeCtr := ctr }.issueE 22 e (BitVec.ofNat 64 (r.len s.cur.n)) 0)

/-- Element i of VIOTA and its flags (R173). -/
def iotaElem (t : VType) (i : Nat) : Word32 × FFlags :=
  match t with
  | .i32 => (BitVec.ofNat 32 i, 0)
  | _ => vround t .rne (FVal.ofInt i)

/-- VIOTA (R173). -/
def execViota (d : BitVec 5) (t : VType) (s : State) : Res :=
  unheld .vector s <|
    let vs := (List.range s.cur.n).map (iotaElem t)
    .next (s.issueOut 22 d false t (elemRuns (vs.map Prod.fst)) (orFlags vs))

/-- VSPLAT (R174). -/
def execVsplat (d rs : BitVec 5) (t : VType) (s : State) : Res :=
  unheld .vector s <|
    .next (s.issueRuns 22 1 d t [{ val := vbits t ((s.getS rs).setWidth 32), count := s.cur.n }] 0)

/-- VSPLATI (R174). -/
def execVsplati (d : BitVec 5) (imm : BitVec 16) (s : State) : Res :=
  unheld .vector s <|
    .next (s.issueRuns 22 1 d .f32 [{ val := imm.setWidth 32 <<< 16, count := s.cur.n }] 0)

end Sys2Proof.Machine
end

