-- ==== Sys2Proof/Machine/VecData.lean ====
section
/-! DEFINITION. Shape, loads and stores, matrix rows, moves and control of the vector stream (R158–R166, R175), and the
events that end its holds. -/

namespace Sys2Proof.Machine

/-! ### VSHAPE (R159) -/

/-- The shape that a 16-bit value gives. -/
def Slot.shape (t : Slot) (rows cols : Nat) : Slot := { t with rows := rows + 1, cols := cols + 1 }

/-- VSHAPE with an immediate (R159). -/
def execVshapeImm (cols rows : BitVec 8) (s : State) : Res :=
  unheld .vector s (.next ((s.upd fun t => t.shape rows.toNat cols.toNat).advance .vector))

/-- VSHAPE with a scalar register (R159). -/
def execVshapeReg (rs : BitVec 5) (s : State) : Res :=
  unheld .vector s (.next ((s.upd fun t => t.shape (wbits (s.getS rs) 0 8) (wbits (s.getS rs) 8 8)).advance .vector))

/-! ### Operands of VLD, VST, VLDR and VSTR (R160, R161) -/

/-- The registers of a group (R148). -/
def groupRegs (d : BitVec 5) (g : BitVec 2) : List (BitVec 5) := (List.range (2 ^ g.toNat)).map fun i => d + BitVec.ofNat 5 i

/-- The format code that a type needs in the handle (R160). -/
def typeFmt : VType → Nat
  | .f32 => 0 | .bf16 => 1 | .i32 => 6

/-- The tensor and first row of a VM word, read at issue; the row is the exact sum (R8, R15, R160). -/
def State.vmTensor (s : State) (o : VMemArgs) : Tensor := (s.cur.getH o.h).tensor 0
def State.vmRow (s : State) (o : VMemArgs) : Nat := (s.getS o.rs).toNat + o.imm.toNat

/-- The footprints of rows from row0 up, of given numbers of elements (R160). -/
def rowFoots (x : Tensor) (g : CoreId) (row0 : Nat) (ns : List Nat) : List (Nat × Nat) :=
  (ns.zipIdx).map fun p => x.rowFoot g (row0 + p.2) 0 p.1

/-- The footprints that VLD and VST check, those of VLDR, and those of VSTR for the registers that it reads (R161). -/
def State.vldFoots (s : State) (o : VMemArgs) : List (Nat × Nat) :=
  rowFoots (s.vmTensor o) s.cur.key.core (s.vmRow o) (List.replicate (2 ^ o.g.toNat * s.cur.rows) s.cur.cols)
def State.vldrFoots (s : State) (o : VMemArgs) : List (Nat × Nat) :=
  rowFoots (s.vmTensor o) s.cur.key.core (s.vmRow o) (List.replicate (2 ^ o.g.toNat) (s.vmTensor o).e0)
def State.vstrFoots (s : State) (o : VMemArgs) (rs : List RunReg) : List (Nat × Nat) :=
  rowFoots (s.vmTensor o) s.cur.key.core (s.vmRow o) (rs.map fun r => min r.nruns (s.vmTensor o).e0)

/-- The checks of steps 1 and 2 of R161. -/
def State.vmCheck (s : State) (x : Tensor) (fmt es : Nat) (kind : AccKind) (fs : List (Nat × Nat)) : Chk Unit := do
  require (x.space = 1) (fIllegal 4)
  require (x.fmt = fmt) (fIllegal 4)
  require (!x.swzBad) (fIllegal 4)
  require (x.base.toNat % es = 0 ∧ x.str1 % (es : Int) = 0) (flt 0x02 0 (alignAddr es fs))
  failIf (s.spadCheck kind fs)

/-- The stores in flight of the vector stream. -/
def Slot.vStores (t : Slot) : List PendStore := t.vfly.flatMap fun l => l.stores

/-- The elements of one row (R160). -/
def State.rowElems (s : State) (x : Tensor) (es i1 cols : Nat) : Chk (List Word32) :=
  (List.range cols).mapM fun c => (s.rowBytes x i1 (c * es) es).map fun bs => BitVec.ofNat 32 (ofBytes bs)

/-- One register of a VLD: rows × cols elements, coalesced (R162). -/
def State.vldReg (s : State) (x : Tensor) (es rows cols row0 : Nat) : Chk (List Run) :=
  ((List.range rows).mapM fun r => s.rowElems x es (row0 + r) cols).map fun vs => coalesce (elemRuns vs.flatten)

/-- The records of one row of a VLDR, from record i0 on: runs newest first, elements so far (R58, R162). -/
def State.vldrFrom (s : State) (x : Tensor) (t : VType) (i1 n : Nat) : Nat → Nat → Nat → List Run → Chk (List Run)
  | 0, _, _, _ => .error (flt 0x09 0 0)
  | left + 1, i0, sum, acc =>
    match s.rowBytes x i1 (8 * i0) 8 with
    | .error f => .error f
    | .ok bs =>
      let v : Word32 := vbits t (BitVec.ofNat 32 (ofBytes (bs.take 4)))
      let c := ofBytes (bs.drop 4)
      if c = 0 then State.vldrFrom s x t i1 n left (i0 + 1) sum acc
      else if n < sum + c then .error (flt 0x09 0 0)
      else
        let acc := match acc with
          | r :: u => if r.val = v then { r with count := r.count + c } :: u else { val := v, count := c } :: r :: u
          | [] => [{ val := v, count := c }]
        if sum + c = n then .ok acc.reverse else State.vldrFrom s x t i1 n left (i0 + 1) (sum + c) acc

/-- A group of loaded registers, or the fault found in the data: the stream holds issue until it has been checked
(R162, R163). DESIGN CHOICE: an F_SHAPE or F_ECC of any register of the group decides before an F_RUNOVF of another (log 125). -/
def State.issueLoad (s : State) (o : VMemArgs) (r : Chk (List (List Run))) : State :=
  let g := 2 ^ o.g.toNat
  let r : Chk (List (List Run)) := match r with
    | .error f => .error f
    | .ok rs =>
      let worst := rs.foldl (fun (n : Nat) (x : List Run) => max n x.length) 0
      if s.cur.bind.vcap < worst then .error (flt 0x08 (min worst 0xFFFF) 0) else .ok rs
  match r with
  | .error f => s.hold .vector (48 + 8 * g) (some f)
  | .ok rs =>
    (s.fly (64 + 16 * (g - 1)) { VLanding.none with
      runs := (groupRegs o.d o.g).zip (rs.map fun x => RunReg.runs o.t x) }).hold .vector (48 + 8 * g) none

/-- VLD (R160–R163). -/
def vldOp (o : VMemArgs) (s : State) : Chk State := do
  let x := s.vmTensor o
  let row0 := s.vmRow o
  let g := 2 ^ o.g.toNat
  let es := elemBits (typeFmt o.t) / 8
  let rows := s.cur.rows
  let cols := s.cur.cols
  s.vmCheck x (typeFmt o.t) es .load (s.vldFoots o)
  require (s.cur.n ≤ 4096 ∧ cols ≤ x.e0 ∧ row0 + g * rows ≤ x.e1) (flt 0x09 0 0)
  let read (v : State) : Chk (List (List Run)) := (List.range g).mapM fun j => (v.seeing v.cur.vStores).vldReg x es rows cols (row0 + j * rows)
  return (s.correctRead fun v => metEcc (read v)).issueLoad o (read s)

/-- VLD (R160–R163). -/
def execVld (o : VMemArgs) (s : State) : Res := unheld .vector s (outcome .vector s (vldOp o s))

/-- VLDR (R160–R163). -/
def vldrOp (o : VMemArgs) (s : State) : Chk State := do
  let x := s.vmTensor o
  let row0 := s.vmRow o
  let g := 2 ^ o.g.toNat
  s.vmCheck x 7 8 .load (s.vldrFoots o)
  require (x.e0 ≤ 2048 ∧ row0 + g ≤ x.e1) (flt 0x09 0 0)
  let read (v : State) : Chk (List (List Run)) := (List.range g).mapM fun j => (v.seeing v.cur.vStores).vldrFrom x o.t (row0 + j) s.cur.n x.e0 0 0 []
  return (s.correctRead fun v => metEcc (read v)).issueLoad o (read s)

/-- VLDR (R160–R163). -/
def execVldr (o : VMemArgs) (s : State) : Res := unheld .vector s (outcome .vector s (vldrOp o s))

/-- A store group issues: its bytes are performed by landing (R164). -/
def State.issueStores (s : State) (o : VMemArgs) (cells : List (Nat × Nat × Byte)) : State :=
  (s.fly (64 + 16 * (2 ^ o.g.toNat - 1)) { VLanding.none with stores := s.engineStores .release cells }).advance .vector

/-- VST (R160–R162). -/
def vstOp (o : VMemArgs) (s : State) : Chk State := do
  let x := s.vmTensor o
  let row0 := s.vmRow o
  let g := 2 ^ o.g.toNat
  let es := elemBits (typeFmt o.t) / 8
  let rows := s.cur.rows
  let cols := s.cur.cols
  let (rs, ctr) := s.cur.readVs (groupRegs o.d o.g) s.freeCtr
  s.vmCheck x (typeFmt o.t) es .store (s.vldFoots o)
  require (s.cur.n ≤ 4096 ∧ cols ≤ x.e0 ∧ row0 + g * rows ≤ x.e1 ∧ rs.all fun r => r.fits s.cur.n) (flt 0x09 0 0)
  let reg (p : RunReg × Nat) : List (Nat × Nat × Byte) :=
    ((runElems (p.1.read o.t s.cur.n)).zipIdx).flatMap fun q =>
      s.rowCells x (row0 + p.2 * rows + q.2 / cols) (q.2 % cols * es) (bytesOf es q.1.toNat)
  return { s with freeCtr := ctr }.issueStores o (rs.zipIdx.flatMap reg)

/-- VST (R160–R162). -/
def execVst (o : VMemArgs) (s : State) : Res := unheld .vector s (outcome .vector s (vstOp o s))

/-- VSTR (R160–R162). -/
def vstrOp (o : VMemArgs) (s : State) : Chk State := do
  let x := s.vmTensor o
  let row0 := s.vmRow o
  let g := 2 ^ o.g.toNat
  let (rs, ctr) := s.cur.readVs (groupRegs o.d o.g) s.freeCtr
  s.vmCheck x 7 8 .store (s.vstrFoots o rs)
  require (x.e0 ≤ 2048 ∧ row0 + g ≤ x.e1 ∧ rs.all fun r => r.fits s.cur.n && decide (r.nruns ≤ x.e0)) (flt 0x09 0 0)
  let reg (p : RunReg × Nat) : List (Nat × Nat × Byte) :=
    ((p.1.read o.t s.cur.n).zipIdx).flatMap fun q =>
      s.rowCells x (row0 + p.2) (8 * q.2) (bytesOf 4 q.1.val.toNat ++ bytesOf 4 q.1.count)
  return { s with freeCtr := ctr }.issueStores o (rs.zipIdx.flatMap reg)

/-- VSTR (R160–R162). -/
def execVstr (o : VMemArgs) (s : State) : Res := unheld .vector s (outcome .vector s (vstrOp o s))

/-! ### Matrix rows and columns (R165) -/

/-- The element numbers of a row or column. -/
def lineElems (col : Bool) (idx : Nat) : List Nat := (List.range 128).map fun k => if col then 128 * k + idx else 128 * idx + k

/-- The index of a VS word. -/
def State.vsIdx (s : State) (o : VTileArgs) : Nat := (s.getS o.rs).toNat + o.imm.toNat

/-- The checks of R165 besides the source's length. -/
def State.vsCheck (s : State) (o : VTileArgs) : Chk Unit := do
  require (o.mr.toNat < s.cur.bind.mregs) (fIllegal 2)
  require (s.vsIdx o < 128 ∧ s.cur.n = 128) (flt 0x09 0 0)

/-- An A80 element converted to a vector type, with its flags (R63, R64, R165). -/
def fromA80 (t : VType) (rm : RoundMode) (v : A80) : Word32 × FFlags :=
  let x := ofA80 v
  match t with
  | .i32 => let (i, f) := toIntW 32 rm x; (BitVec.ofInt 32 i, f)
  | _ =>
    let (b, f) := convF a80 (vfmt t) rm false x
    (BitVec.ofNat 32 b, f ||| (if x.isSnan then flagNv else 0))

/-- A value converted exactly to A80; a NaN keeps its payload (R63). -/
def toA80 (t : VType) (w : Word32) : A80 :=
  match vval t w with
  | .nan n f => BitVec.ofNat 80 (nanIn a80 n f true)
  | x => x.toA80

/-- VFROMM (R165): blocked while a register of the launch is EMPTY. -/
def vfrommOp (o : VTileArgs) (s : State) : Chk State := do
  require (o.mr.toNat < s.cur.bind.mregs) (fIllegal 2)
  if !(s.cur.getM o.mr).full then return s
  else
    s.vsCheck o
    let out := (lineElems o.col (s.vsIdx o)).map fun i => fromA80 o.t s.cur.vcsr.rm (s.cur.readElem o.mr s.freeCtr i)
    let rs := coalesce (elemRuns (out.map Prod.fst))
    return { s with freeCtr := s.freeCtr + 16384 }.issueCounted 40 128 rs.length { VLanding.none with
      runs := [(o.d, .runs o.t rs)], flags := orFlags out
      mreg := if o.ef then some o.mr else none, full := if o.ef then some false else none }

/-- VFROMM (R165). -/
def execVfromm (o : VTileArgs) (s : State) : Res := unheld .vector s (outcome .vector s (vfrommOp o s))

/-- VTOM (R165). -/
def vtomOp (o : VTileArgs) (s : State) : Chk State := do
  let (r, ctr) := s.cur.readV o.d s.freeCtr
  s.vsCheck o
  require (r.fits s.cur.n) (flt 0x09 0 0)
  return ({ s with freeCtr := ctr }.fly 40 { VLanding.none with
    mreg := some o.mr
    elems := (lineElems o.col (s.vsIdx o)).zip ((runElems (r.read o.t s.cur.n)).map (toA80 o.t))
    full := if o.ef then some true else none }).advance .vector

/-- VTOM (R165). -/
def execVtom (o : VTileArgs) (s : State) : Res := unheld .vector s (outcome .vector s (vtomOp o s))

/-! ### VMOV (R166) -/

/-- Two groups share a register and are not identical (R148). -/
def groupsClash (d a : BitVec 5) (g : BitVec 2) : Bool :=
  decide (d ≠ a) && decide (d.toNat < a.toNat + 2 ^ g.toNat) && decide (a.toNat < d.toNat + 2 ^ g.toNat)

/-- VMOV (R166). -/
def execVmov (d a : BitVec 5) (g : BitVec 2) (s : State) : Res :=
  unheld .vector s <|
    if groupsClash d a g then .next (s.raise .vector (flt 0x0A 0 0))
    else
      let (rs, ctr) := s.cur.readVs (groupRegs a g) s.freeCtr
      .next (({ s with freeCtr := ctr }.fly (22 + 8 * (2 ^ g.toNat - 1))
        { VLanding.none with runs := (groupRegs d g).zip rs }).advance .vector)

/-! ### VCTL (R175) -/

/-- VPOST (R175). -/
def execVpost (k : BitVec 4) (imm : BitVec 16) (s : State) : Res :=
  unheld .vector s (outcome .vector s ((postK k imm.toNat s).map fun s => s.advance .vector))

/-- VWAIT (R175). -/
def execVwait (k : BitVec 4) (imm : BitVec 16) (s : State) : Res := unheld .vector s (waitK .vector k imm.toNat s)

/-- The vector stream goes on once every earlier result has landed; blocked until then (R175). -/
def onVland (s : State) (f : State → State) : Res :=
  unheld .vector s (if s.cur.vfly.isEmpty then .next (f s) else .next s)

/-- VLAND (R175). -/
def execVland (s : State) : Res := onVland s fun s => s.advance .vector

/-- VEND (R175). -/
def execVend (s : State) : Res := onVland s fun s => s.updStr .vector StreamState.finish

/-- VSETRM (R175). -/
def execVsetrm (rm : RoundMode) (s : State) : Res :=
  unheld .vector s (.next ((s.upd fun t => { t with vcsr := { t.vcsr with rm := rm } }).advance .vector))

/-- VCLRF (R175). -/
def execVclrf (flags : BitVec 5) (s : State) : Res :=
  onVland s fun s => (s.upd fun t => { t with vcsr := { t.vcsr with flags := t.vcsr.flags &&& ~~~ flags } }).advance .vector

/-! ### The events that end holds -/

/-- RUN_COUNT: the instruction of a slot that holds the vector stream has counted its runs: it goes on, or faults
(R92, R147). -/
def execRunCount (s : State) : Res := .next (s.onSlot s.ev.slot fun s => s.endHold .vector)

/-- VLD_DATA_CHECK: a VLD or VLDR has read and checked its data (R163). -/
def execVldDataCheck (s : State) : Res := .next (s.onSlot s.ev.slot fun s => s.endHold .vector)

end Sys2Proof.Machine
end

