-- ==== Sys2Proof/Machine/MatrixSum.lean ====
section
/-! DEFINITION. Matrix registers read and written (R91, R178–R180), the order of sums of an MMA (R66–R69) and the
conversions of MSTA and MSTQ (R70, R71). -/

namespace Sys2Proof.Machine

/-! ### Landings of the matrix stream (R90, R179) -/

/-- A landing's effect on its register. -/
def MatReg.apply (m : MatReg) (l : MLanding) : MatReg :=
  let tile := if l.lo < l.hi then
      m.tile.filter (fun e => decide (e.1 < 128 * l.lo)) ++ l.tile ++ m.tile.filter (fun e => decide (128 * l.hi ≤ e.1))
    else m.tile
  { m with
    tile := tile, ts := l.ts.getD m.ts
    pmask := (if l.restart then 0 else m.pmask) ||| l.pmask
    nsteps := (if l.restart then 0 else m.nsteps) + l.nsteps : MatReg }.mark l.full

/-- The value that every earlier matrix-stream write leaves in a register (R185). -/
def Slot.chainM (t : Slot) (m : BitVec 3) : MatReg :=
  t.mfly.foldl (fun (r : MatReg) (l : MLanding) => if l.mreg = some m then r.apply l else r) (t.getM m)

/-- The elements of a register towards which a VTOM is in flight. -/
def Slot.vtomElems (t : Slot) (m : BitVec 3) : List Nat :=
  (t.vfly.filter fun l => decide (l.mreg = some m)).flatMap fun l => l.elems.map Prod.fst

/-- What an accumulator chain starts from: every earlier matrix-stream write, and free values where a VTOM, which is not
chained, is in flight (R91, R185). -/
def Slot.chainTile (t : Slot) (m : BitVec 3) (ctr : Nat) : Tile :=
  tileSets (t.chainM m).tile ((t.vtomElems m).map fun i => (i, Config.freeA80 (ctr + i)))

/-- Two landings write one register, or both store: they land in issue order (R90, R192). -/
def MLanding.clash (a b : MLanding) : Bool :=
  (a.mreg.isSome && decide (a.mreg = b.mreg)) || (!a.stores.isEmpty && !b.stores.isEmpty)

/-- An empty landing of the matrix stream. -/
def MLanding.none : MLanding :=
  { id := 0, due := 0, issued := 0, mreg := .none, lo := 0, hi := 0, tile := [], ts := .none, restart := false, pmask := 0,
    nsteps := 0, full := .none, frames := [], ops := IssueCopy.none, entry := 0, z := false, doneSteps := 0, run := .on, post := false, stores := [], loads := [], eccAt := .none, fpc := 0, finsn := 0 }

/-- A matrix result in flight, to land at a free cycle within its bound; an older one to the same place lands no later
(R89, R90). -/
def State.flyM (s : State) (bound : Nat) (l : MLanding) : State :=
  let due := s.freeDue bound
  let l := { l with id := s.cur.nextOp, due := due, issued := s.cycle, fpc := pcWord s.cur.matrix.pc, finsn := s.insn }
  { s with
    freeCtr := s.freeCtr + 1
    cur := { s.cur with
      nextOp := s.cur.nextOp + 1
      mfly := s.cur.mfly.map (fun x => if x.clash l then { x with due := min x.due due } else x) ++ [l] } }

/-- One landing in the acting slot's registers; the blocks of the rows written become dirty, all eight for an MMA (R246). -/
def Slot.landM (t : Slot) (l : MLanding) : Slot :=
  let t := { t with mfly := t.mfly.filter fun y => y.id ≠ l.id }
  match l.mreg with
  | .none => t
  | some m => (t.setM m ((t.getM m).apply l)).markM m ((List.range l.hi).drop l.lo |>.map fun r => 128 * r)

/-- An MMA record (R186). -/
def mmaRecord (m : BitVec 3) (r : MatReg) : Record :=
  { kind := 2, status := 0, tag := m.setWidth 32, count := r.nsteps.setWidth 64, poison := r.pmask, code := 0, retries := 0 }

/-- One matrix result lands: the register, the bytes, the completion record, and the record of a storage error
(R179, R186, R187, R192). -/
def State.landOne (s : State) (l : MLanding) : State :=
  let s := (s.upd fun t => t.landM l).performAll l.stores
  let s := match l.post, l.mreg with
    | true, some m => s.complete { rcd := mmaRecord m (s.cur.getM m), op := .none, async := .none, mma := some (s.cur.bind.launch, s.cur.bind.lin), routed := false, bufs := [] }
    | _, _ => s
  match l.eccAt with
  | .none => s
  | some (a, lvl) =>
    s.deliver 4 (.plain (faultRecord s.cur.key.agent l.fpc a 0x11 (BitVec.ofNat 16 lvl) 2) .none)
      { cause := 0x11, detail := BitVec.ofNat 16 lvl, stream := 2, fpc := l.fpc, finsn := l.finsn, addr := a }

/-- The older results that must land before one does (R90). -/
def Slot.landsBefore (t : Slot) (l : MLanding) : List MLanding := t.mfly.filter fun x => decide (x.id < l.id) && x.clash l

/-- The landing with an identity number lands, with every older one that must land before it (R90). -/
def State.landM (s : State) (id : Nat) : State :=
  match s.cur.mfly.find? fun l => l.id = id with
  | .none => s
  | some l => (s.cur.landsBefore l ++ [l]).foldl State.landOne s

/-- The first k K-steps of an MMA: they land when it stops (R187). -/
def MLanding.first (l : MLanding) (k : Nat) : MLanding :=
  match l.frames[k - 1]? with
  | .none => l
  | some f => { l with tile := f.tile, pmask := f.pmask, nsteps := f.nsteps, full := .none, post := false, eccAt := .none }

/-- What is left of an MMA after its first k K-steps: a resumed one does not clear its accumulator (R187, R244). -/
def MLanding.rest (l : MLanding) (k : Nat) : MLanding :=
  let done := BitVec.ofNat 32 k
  { l with run := .stopped, restart := l.restart && decide (k = 0), nsteps := l.nsteps - done, doneSteps := l.doneSteps + k
           frames := (l.frames.drop k).map fun f => { f with nsteps := f.nsteps - done } }

/-- An MMA stops at the end of its first k remaining K-steps: they land, and the rest stays in flight (R187). -/
def State.stopMma (s : State) (l : MLanding) (k : Nat) : State :=
  let put (s : State) : State := s.upd fun t => { t with mfly := t.mfly.map fun x => if x.id = l.id then l.rest k else x }
  if k = 0 then put s
  else
    let s := (s.cur.landsBefore l).foldl State.landOne s
    put (s.upd fun t => { (t.landM (l.first k)) with mfly := t.mfly })

/-! ### Reading a register (R91) -/

/-- How far a read of a whole register moves the counter of free values. -/
def regFree : Nat := 16400

/-- The tile of a register as an instruction reads it. -/
def Slot.readTile (t : Slot) (m : BitVec 3) (ctr : Nat) : Tile :=
  if (t.mfly.any fun l => decide (l.mreg = some m) && decide (l.lo < l.hi)) || (t.vfly.any fun l => decide (l.mreg = some m)) then
    ((List.range 16384).map fun i => (i, t.readElem m ctr i)).filter fun e => decide (e.2 ≠ 0)
  else (t.getM m).tile

/-- The scale product as an instruction reads it. -/
def Slot.readTs (t : Slot) (m : BitVec 3) (ctr : Nat) : A80 :=
  if t.mfly.any fun l => decide (l.mreg = some m) && l.ts.isSome then Config.freeA80 (ctr + 16384) else (t.getM m).ts

/-- The poison mask and step count as an instruction reads them. -/
def Slot.readMarks (t : Slot) (m : BitVec 3) (ctr : Nat) : Word × Word32 :=
  if t.mfly.any fun l => decide (l.mreg = some m) then
    (Config.freeWord (ctr + 16385), (Config.freeWord (ctr + 16386)).setWidth 32)
  else ((t.getM m).pmask, (t.getM m).nsteps)

/-! ### Tiles -/

/-- A tile from entries that rise: +0 is not listed. -/
def tileOf (es : List (Nat × A80)) : Tile := es.filter fun e => decide (e.2 ≠ 0)

/-- A function of each element. -/
def tileMap (f : A80 → A80) (x : Tile) : Tile :=
  if f 0 = 0 then tileOf (x.map fun e => (e.1, f e.2))
  else tileOf ((List.range 16384).map fun i => (i, f (tileGet x i)))

/-- A function of each pair of elements that takes two zeros to zero; fuel is the number of entries. -/
def tileZip (f : A80 → A80 → A80) : Nat → Tile → Tile → Tile
  | 0, _, _ => []
  | n + 1, a, b =>
    match a, b with
    | [], [] => []
    | [], (j, y) :: v => (j, f 0 y) :: tileZip f n [] v
    | (i, x) :: u, [] => (i, f x 0) :: tileZip f n u []
    | (i, x) :: u, (j, y) :: v =>
      if i < j then (i, f x 0) :: tileZip f n u ((j, y) :: v)
      else if i = j then (i, f x y) :: tileZip f n u v
      else (j, f 0 y) :: tileZip f n ((i, x) :: u) v

/-- The transposed tile. -/
def tileTrans (x : Tile) : Tile :=
  (List.range 128).flatMap fun j => (x.filter fun e => decide (e.1 % 128 = j)).map fun e => (128 * j + e.1 / 128, e.2)

/-- Every exact zero is +0 (R55, R68). -/
def posZero (x : FVal) : FVal := if x.isZero then FVal.zero else x

/-- rne68 of a product and of a sum of A80 values; an exact zero product is +0 (R55, R56). -/
def a80Mul (a b : A80) : A80 := (posZero (fmul (ofA80 a) (ofA80 b))).toA80
def a80Add (a b : A80) : A80 := (fadd .rne (ofA80 a) (ofA80 b)).toA80

/-! ### The format-table entry (R65, R66) -/

/-- A format-table entry's fields (R65). -/
structure FtEntry where
  afmt : Nat
  bfmt : Nat
  lbs : Nat
  x8a : Bool
  x8b : Bool
  ofmt : Nat
  rm : RoundMode
  sat : Bool
  high : Nat
deriving DecidableEq, Repr

def ftEntry (w : Word32) : FtEntry :=
  let b (lo n : Nat) : Nat := w.toNat / 2 ^ lo % 2 ^ n
  { afmt := b 0 4, bfmt := b 4 4, lbs := b 8 3, x8a := w.getLsbD 11, x8b := w.getLsbD 12, ofmt := b 13 3,
    rm := roundOf (b 16 2), sat := w.getLsbD 18, high := b 19 13 }

/-- The entry a format selector names, by the matrix stream's own counters (R81, R229). -/
def Slot.ftWord (t : Slot) (fs : BitVec 4) : Word32 :=
  if fs.toNat < 8 then t.getFt fs else t.getFt (t.ftoff + (t.matrix.lc (fs.toNat - 8)).setWidth 4)

/-- The fields of the entry that a format selector names. -/
def Slot.selectFt (t : Slot) (fs : BitVec 4) : FtEntry := ftEntry (t.ftWord fs)

/-- The K-step of the operand class of two formats, if they have one (R66). -/
def kstepOf (a b : Nat) : Option Nat :=
  let f8 (n : Nat) : Bool := decide (n = 2) || decide (n = 3) || decide (n = 8)
  if f8 a && f8 b then some 128
  else if a = 4 ∧ b = 4 then some 256
  else if a = 5 ∧ b = 5 then some 128
  else if a = 1 ∧ b = 1 then some 32
  else none

/-- Codes whose elements come in blocks with a header (R46). -/
def blockScaled (fmt : Nat) : Bool := decide (fmt = 4) || decide (fmt = 8)

/-- The checks of R66 that an MMA makes, and its K-step. -/
def FtEntry.mmaStep (e : FtEntry) : Option Nat :=
  let scaled := blockScaled e.afmt || blockScaled e.bfmt
  if e.high ≠ 0 ∨ [1, 2, 6, 7].contains e.lbs then none
  else if scaled != decide (e.lbs ≠ 0) then none
  else if (e.x8a && decide (e.afmt ≠ 4)) || (e.x8b && decide (e.bfmt ≠ 4)) then none
  else kstepOf e.afmt e.bfmt

/-! ### Operand blocks (R50–R54) -/

/-- One block of one row of an operand: poisoned or not, its scale, its elements, and an error in its bytes. -/
structure MBlock where
  poison : Bool
  scale : FVal
  vals : List FVal
  ecc : Option SFault
deriving DecidableEq, Repr

/-- The first error among bytes read. -/
def firstErr : List (Chk Byte) → Option SFault
  | [] => none
  | .error f :: _ => some f
  | .ok _ :: t => firstErr t

/-- The number of little-endian bytes read, errors reading as 0. -/
def readNat : List (Chk Byte) → Nat
  | [] => 0
  | x :: t => (match x with | .ok b => b.toNat | .error _ => 0) + 256 * readNat t

/-- The bits of element (i0, i1, i2) and an error in its bytes (R51, R160). -/
def State.elemBitsAt (s : State) (x : Tensor) (i0 i1 i2 : Nat) : Nat × Option SFault :=
  let w := elemBits x.fmt
  let rd (b : Nat) : Chk Byte := s.tensorByte x (x.byteVa s.cur.key.core i1 i2 b)
  if w = 4 then
    let v := rd (i0 / 2)
    (readNat [v] / 16 ^ (i0 % 2) % 16, firstErr [v])
  else
    let vs := (List.range (w / 8)).map fun b => rd (i0 * (w / 8) + b)
    (readNat vs, firstErr vs)

/-- The header of the block that holds element (i0, i1, i2): its word, and an error in its bytes (R52, R53). -/
def State.headerAt (s : State) (x : Tensor) (bs i0 i1 i2 : Nat) : Nat × Option SFault :=
  if x.hdr = 0 then (0x003F8000, none)
  else
    let a := x.base + BitVec.ofNat 64 (x.hdr + 4 * x.hdrIndex bs i0 i1 i2)
    let vs := (List.range 4).map fun b => s.tensorByte x (x.va s.cur.key.core (a + BitVec.ofNat 64 b))
    (readNat vs, firstErr vs)

/-- A header's scale, whether it poisons the block, and its X8 value (R53, R54). -/
def headerScale (w : Nat) : FVal := decodeF s24 (w % 2 ^ 24)
def headerPoison (w : Nat) (x8 : Bool) : Bool :=
  decide (w / 2 ^ 15 % 256 = 255) || (x8 && (decodeF e4m3 (w / 2 ^ 24)).isNan)

/-- An element's value before scaling: code 0b1000 selects X8 where it is enabled (R50). -/
def elemVal (fmt hdr : Nat) (x8 : Bool) (bits : Nat) : FVal :=
  if fmt = 4 ∧ x8 ∧ bits = 8 then decodeF e4m3 (hdr / 2 ^ 24) else fmtVal fmt bits

/-- An element poisons its block (R54). -/
def elemPoison (fmt : Nat) (v : FVal) : Bool := (decide (fmt = 1) || decide (fmt = 2) || decide (fmt = 3) || decide (fmt = 8)) && (v.isNan || v.isInf)

/-- Block n of row `line` of an MMA operand, over the shared extent K; `trans` reads dimension 1 as k (R181, R183). -/
def State.mmaBlock (s : State) (x : Tensor) (bs kx : Nat) (x8 trans : Bool) (line n : Nat) : MBlock :=
  let ks := (List.range (min bs (kx - n * bs))).map fun i => n * bs + i
  let raw := ks.map fun k => if trans then s.elemBitsAt x line k 0 else s.elemBitsAt x k line 0
  let (h, herr) := if blockScaled x.fmt then s.headerAt x bs (n * bs) line 0 else (0x003F8000, none)
  let vals := raw.map fun r => elemVal x.fmt h x8 r.1
  let err := herr.or (raw.foldl (fun (b : Option SFault) (r : Nat × Option SFault) => b.or r.2) none)
  { poison := headerPoison h x8 || vals.any (elemPoison x.fmt) || err.isSome
    scale := headerScale h, vals := vals, ecc := err }

/-! ### The sums (R67, R68) -/

/-- One level of adjacent pairs. -/
def pairUp (f : FVal → FVal → FVal) : List FVal → List FVal
  | a :: b :: t => f a b :: pairUp f t
  | l => l

/-- Adjacent pairs, level by level. -/
def pairwise (f : FVal → FVal → FVal) : Nat → List FVal → FVal
  | 0, l => l.headD FVal.zero
  | n + 1, l => match l with
    | [] => FVal.zero
    | [x] => x
    | l => pairwise f n (pairUp f l)

/-- The scaled sum of one pair of blocks (R67). -/
def blockSum (a b : MBlock) : FVal :=
  if a.poison || b.poison then FVal.zero
  else
    let s := pairwise (fun x y => posZero (fadd .rne x y)) 9 (List.zipWith fmul a.vals b.vals)
    posZero (rne68 (fmul (posZero s) (fmul a.scale b.scale)))

/-- A step's sum over its blocks (R67). -/
def stepSum (as bs : List MBlock) : FVal :=
  pairwise (fun x y => posZero (rne68 (fadd .rne x y))) 9 (List.zipWith blockSum as bs)

/-- The accumulator after one step (R67). -/
def accStep (acc : A80) (t : FVal) : A80 := (fadd .rne (ofA80 acc) t).toA80

/-- One K-step over the tile: rows of A and columns of B present take their sums, every other element adds +0
(R181). -/
def tileStep (x : Tile) (as bs : List (List MBlock)) : Tile :=
  let m := as.length
  let n := bs.length
  let rest := tileOf ((x.filter fun e => !(decide (e.1 / 128 < m) && decide (e.1 % 128 < n))).map fun e => (e.1, accStep e.2 FVal.zero))
  let body := as.zipIdx.flatMap fun a => bs.zipIdx.map fun b =>
    let i := 128 * a.2 + b.2
    (i, accStep (tileGet x i) (stepSum a.1 b.1))
  tileZip (fun a b => if a = 0 then b else a) (rest.length + body.length) rest (tileOf body)

/-- The poison bits of a step: bit n mod 64 of each block n that any row or column has poisoned (R67). -/
def stepPoison (first : Nat) (lines : List (List MBlock)) : Word :=
  lines.foldl (fun (w : Word) (bs : List MBlock) =>
    bs.zipIdx.foldl (fun (w : Word) (b : MBlock × Nat) => if b.1.poison then w ||| (1#64 <<< ((first + b.2) % 64)) else w) w) 0

/-- The K-steps of an MMA from a tile: the frame after each (R67, R183). `per` is the number of blocks of a step. -/
def mmaFrames (per : Nat) (as bs : List (List MBlock)) : Nat → Nat → MmaFrame → List MmaFrame
  | 0, _, _ => []
  | n + 1, k, fr =>
    let a := as.map fun l => (l.drop (k * per)).take per
    let b := bs.map fun l => (l.drop (k * per)).take per
    let fr' : MmaFrame := { tile := tileStep fr.tile a b, pmask := fr.pmask ||| stepPoison (k * per) (a ++ b), nsteps := fr.nsteps + 1 }
    fr' :: mmaFrames per as bs n (k + 1) fr'

/-! ### Conversions of the accumulator (R70, R71) -/

/-- A stored element's value: the tensor-scale multiply rounds once (R70). -/
def storedVal (v ts : A80) : FVal := ofA80 (a80Mul v ts)

/-- The bits of an element in an output format (R70). -/
def outBits (ofmt : Nat) (rm : RoundMode) (sat : Bool) (v : FVal) : Nat := (convF a80 (fmtF ofmt) rm sat v).1

/-- Magnitudes. -/
def FVal.abs : FVal → FVal | .nan _ f => .nan false f | .inf _ => .inf false | .fin _ m e => .fin false m e

/-- One block quantised: its header and codes (R71). -/
def quantBlock (vs : List FVal) : Nat × List Nat :=
  let zeros := vs.map fun _ => 0
  if vs.any FVal.isNan then (0x007FC000, zeros)
  else
    let amax := vs.foldl (fun (a : FVal) (v : FVal) => fmaximum a v.abs) FVal.zero
    if amax.isInf then (0x007F8000, zeros)
    else
      let (sb, fl) := roundTo s24 .rne false (fdiv amax (FVal.ofInt 6))
      let sv := decodeF s24 sb
      if sv.isInf ∨ fl &&& flagOf ≠ 0 then (0x007F8000, zeros)
      else if sv.isZero then (0, zeros)
      else (sb, vs.map fun v =>
        let c := (roundTo e2m1 .rne true (fdiv v sv)).1
        if c % 8 = 0 then 0 else c)

/-- Nibbles packed two to a byte, the first in the low half (R51). -/
def packNibbles : List Nat → List Byte
  | a :: b :: t => BitVec.ofNat 8 (a % 16 + 16 * (b % 16)) :: packNibbles t
  | [a] => [BitVec.ofNat 8 (a % 16)]
  | [] => []

end Sys2Proof.Machine
end

