-- ==== Sys2Proof/Machine/Matrix.lean ====
section
/-! DEFINITION. The instructions of the matrix stream (R178–R195) and the events of its landings. -/

namespace Sys2Proof.Machine

/-! ### MMA and MMAT (R181–R187) -/

/-- A matrix register below the launch's count (R23). -/
def State.mregCheck (s : State) (m : BitVec 3) : Chk Unit := require (m.toNat < s.cur.bind.mregs) (fIllegal 2)

/-- An operand's extents along k and along its lines; `trans` has k on dimension 1 (R181). -/
def Tensor.kExt (x : Tensor) (trans : Bool) : Nat := if trans then x.e1 else x.e0
def Tensor.lines (x : Tensor) (trans : Bool) : Nat := if trans then x.e0 else x.e1

/-- The footprints of an operand's data and of its header array (R160, R182). -/
def Tensor.dataFoots (x : Tensor) (g : CoreId) : List (Nat × Nat) := (List.range x.e1).map fun i => x.rowFoot g i 0 x.e0
def Tensor.hdrFoots (x : Tensor) (g : CoreId) (bs : Nat) : List (Nat × Nat) :=
  if blockScaled x.fmt && decide (x.hdr ≠ 0) then [x.hdrFoot g bs] else []

/-- Footprints lie wholly in a bank group: group A is offsets below 12 MiB, group B the 12 MiB above (R182, R283). -/
def inGroup (b : Bool) (fs : List (Nat × Nat)) : Bool :=
  fs.all fun f => f.2 = 0 || (if b then decide (0xC00000 ≤ windowOff f.1) && decide (windowOff f.1 + f.2 ≤ 0x1800000)
    else decide (windowOff f.1 + f.2 ≤ 0xC00000))

/-- A misaligned base or header array (R182). DEDUCED: the first faulting address is found in the order A's base, A's headers, B's base,
B's headers (log 127). -/
def Tensor.mmaMisaligned (x : Tensor) (g : CoreId) : Option SFault :=
  if x.base.toNat % 16 ≠ 0 then some (flt 0x02 0 (x.va g x.base))
  else if blockScaled x.fmt ∧ x.hdr ≠ 0 ∧ (x.base + BitVec.ofNat 64 x.hdr).toNat % 4 ≠ 0 then
    some (flt 0x02 0 (x.va g (x.base + BitVec.ofNat 64 x.hdr)))
  else none

/-- The checks of steps 4 to 6 of R182. DESIGN CHOICE: unequal K extents are reported of operand B (log 126). -/
def State.mmaCheck (s : State) (e : FtEntry) (step : Nat) (trans : Bool) (a b : Tensor) : Chk Unit := do
  let g := s.cur.key.core
  let bs := if e.lbs = 0 then step else 2 ^ e.lbs
  require (a.space = 1 ∧ b.space = 1 ∧ a.fmt = e.afmt ∧ b.fmt = e.bfmt) (fIllegal 4)
  require (!(trans && blockScaled e.bfmt)) (fIllegal 4)
  require ((!blockScaled a.fmt || decide (a.e0 % bs = 0)) && (!blockScaled b.fmt || decide (b.e0 % bs = 0))) (fIllegal 4)
  require (!a.swzBad && !b.swzBad) (fIllegal 4)
  failIf ((a.mmaMisaligned g).or (b.mmaMisaligned g))
  let da := a.dataFoots g
  let db := b.dataFoots g
  let ha := a.hdrFoots g bs
  let hb := b.hdrFoots g bs
  failIf (s.spadCheck .load (da ++ ha ++ db ++ hb))
  require (a.e2 = 1 ∧ a.e1 ≤ 128 ∧ (a.fmt ≠ 4 ∨ a.e0 % 2 = 0)) (flt 0x09 0 0)
  require (b.e2 = 1 ∧ b.lines trans ≤ 128 ∧ b.kExt trans = a.e0 ∧ (b.fmt ≠ 4 ∨ b.e0 % 2 = 0)) (flt 0x09 1 0)
  require (inGroup false da && !a.bg) (flt 0x0B 0 0)
  require (inGroup true db && b.bg) (flt 0x0B 1 0)
  require (a.str1 % 128 = 0 ∧ b.str1 % 128 = 0) (flt 0x0B 2 0)
  require (inGroup false ha && inGroup true hb) (flt 0x0B 3 0)
  require (s.tagsAre a.swz da) (flt 0x0C 0 0)
  require (s.tagsAre b.swz db) (flt 0x0C 1 0)

/-- The tensor scale of a handle as A80: the zero pattern reads as 1.0 (R59). -/
def Tensor.tscale (x : Tensor) : FVal := if x.scale = 0 then FVal.one else decodeF fp32 x.scale.toNat

/-- The stores in flight of the matrix stream. -/
def Slot.mStores (t : Slot) : List PendStore := t.mfly.flatMap fun l => l.stores

/-- The blocks of an operand, by line (R67). -/
def State.mmaLines (s : State) (x : Tensor) (bs kx : Nat) (x8 trans : Bool) (lines : Nat) : List (List MBlock) :=
  (List.range lines).map fun l => (List.range ((kx + bs - 1) / bs)).map fun n => s.mmaBlock x bs kx x8 trans l n

/-- The first storage error among blocks (R187). -/
def blocksErr (xs : List (List MBlock)) : Option SFault :=
  xs.foldl (fun (b : Option SFault) (l : List MBlock) => l.foldl (fun (b : Option SFault) (x : MBlock) => b.or x.ecc) b) none

/-- The landing that an MMA or MMAT starts (R60, R67, R183, R185). -/
def State.mmaLanding (s : State) (o : MmaArgs) (e : FtEntry) (step : Nat) (trans : Bool) (a b : Tensor) : MLanding :=
  let view := s.seeing s.cur.mStores
  let bs := if e.lbs = 0 then step else 2 ^ e.lbs
  let kx := a.e0
  let as := view.mmaLines a bs kx e.x8a false a.e1
  let bl := view.mmaLines b bs kx e.x8b trans (b.lines trans)
  let n := (kx + step - 1) / step
  let start : MmaFrame := { tile := if o.z then [] else s.cur.chainTile o.md s.freeCtr, pmask := 0, nsteps := 0 }
  let frames := mmaFrames (step / bs) as bl n 0 start
  let last := frames.getLast?.getD start
  { MLanding.none with
    mreg := some o.md, lo := 0, hi := 128, tile := last.tile
    ts := if o.z then some (fmul a.tscale b.tscale).toA80 else none
    restart := o.z, pmask := last.pmask, nsteps := last.nsteps
    full := if o.f then some true else none, frames := frames, post := o.f
    ops := { a := s.cur.getH o.ha, b := s.cur.getH o.hb, ta := offTerm (s.cur.getOm o.ao) s.cur.matrix, tb := offTerm (s.cur.getOm o.bo) s.cur.matrix }
    entry := s.cur.ftWord o.fs, z := o.z
    eccAt := ((blocksErr as).or (blocksErr bl)).map fun f => (f.addr, f.detail.toNat) }

/-- MMA and MMAT: blocked while md is FULL, or while eight records are held and f = 1 (R182, R183, R186). DESIGN CHOICE: one that had
issued before the queue filled lands all the same, and its record waits behind the eight (log 129). -/
def mmaOp (trans : Bool) (o : MmaArgs) (s : State) : Chk State := do
  s.mregCheck o.md
  if (s.cur.getM o.md).full || (o.f && decide (8 ≤ s.heldMma s.cur)) then return s
  else
    let e := s.cur.selectFt o.fs
    let a := (s.cur.getH o.ha).tensor (offTerm (s.cur.getOm o.ao) s.cur.matrix)
    let b := (s.cur.getH o.hb).tensor (offTerm (s.cur.getOm o.bo) s.cur.matrix)
    match e.mmaStep with
    | none => .error (fIllegal 3)
    | some step =>
      s.mmaCheck e step trans a b
      let l := s.mmaLanding o e step trans a b
      let s := s.correctRead fun v => (v.mmaLanding o e step trans a b).eccAt.isSome
      return ({ s with freeCtr := s.freeCtr + regFree }.flyM (24 + 128 * l.frames.length) l).advance .matrix

/-- MMA (R183). -/
def execMma (o : MmaArgs) (s : State) : Res := unheld .matrix s (outcome .matrix s (mmaOp false o s))

/-- MMAT (R183). -/
def execMmat (o : MmaArgs) (s : State) : Res := unheld .matrix s (outcome .matrix s (mmaOp true o s))

/-! ### MLDA, MSTA and MSTQ (R188–R192) -/

/-- First row and number of rows of a row selection (R188). -/
def rowFirst : RowSel → Nat
  | .hi => 64 | _ => 0
def rowCount : RowSel → Nat
  | .all => 128 | _ => 64

/-- The tensor of an MS word (R188). -/
def State.msTensor (s : State) (h om : BitVec 4) : Tensor := (s.cur.getH h).tensor (offTerm (s.cur.getOm om) s.cur.matrix)

/-- The footprints of the rows moved, and of the headers that MSTQ writes (R188, R191). -/
def Tensor.msFoots (x : Tensor) (g : CoreId) (rows : Nat) : List (Nat × Nat) :=
  (List.range rows).map fun i => x.rowFoot g i 0 128
def Tensor.msHdrs (x : Tensor) (g : CoreId) (rows bs : Nat) : List (Nat × Nat) :=
  (List.range rows).map fun i =>
    ((x.va g (x.base + BitVec.ofNat 64 (x.hdr + 4 * x.hdrIndex bs 0 i 0))).toNat, 4 * (128 / bs))

/-- The shape rule of R188. -/
def Tensor.msShape (x : Tensor) (rows : Nat) : Chk Unit := require (x.e2 = 1 ∧ 128 ≤ x.e0 ∧ rows ≤ x.e1) (flt 0x09 0 0)

/-- Alignment of the base and stride to elements of es bytes (R188). -/
def Tensor.msAlign (x : Tensor) (es : Nat) (fs : List (Nat × Nat)) : Chk Unit :=
  require (x.base.toNat % es = 0 ∧ x.str1 % (es : Int) = 0) (flt 0x02 0 (alignAddr es fs))

/-- The type of an MLDA's elements (R188). -/
def mldaType (fmt : Nat) : VType := match fmt with | 1 => .bf16 | 6 => .i32 | _ => .f32

/-- The bytes of row r of a tensor of 128 columns, with their job virtual addresses and home keys. -/
def State.rawRow (s : State) (x : Tensor) (r : Nat) : List (Nat × Nat × Byte) :=
  match s.rowBytes x r 0 (16 * elemBits x.fmt) with
  | .ok bs => s.rowCells x r 0 bs
  | .error _ => []

/-- MLDA: blocked while md is FULL; it holds issue until its data is checked (R188, R189). -/
def mldaOp (o : MldaArgs) (s : State) : Chk State := do
  let g := s.cur.key.core
  s.mregCheck o.md
  if (s.cur.getM o.md).full then return s
  else
    let x := s.msTensor o.h o.om
    let rows := rowCount o.rm
    require (x.fmt = 0 ∨ x.fmt = 1 ∨ x.fmt = 6) (fIllegal 4)
    require (x.space < 2) (fIllegal 4)
    require (!x.swzBad) (fIllegal 4)
    x.msAlign (elemBits x.fmt / 8) (x.msFoots g rows)
    failIf (s.spaceCheck x .load (x.msFoots g rows))
    x.msShape rows
    require (x.space = 0 ∨ s.tagsAre x.swz (x.msFoots g rows)) (flt 0x0C 0 0)
    let row (v : State) (r : Nat) : Chk (List (Nat × A80)) := (List.range 128).mapM fun c =>
      ((v.seeing v.cur.mStores).rowBytes x r (c * (elemBits x.fmt / 8)) (elemBits x.fmt / 8)).map fun bs =>
        (128 * (rowFirst o.rm + r) + c, toA80 (mldaType x.fmt) (BitVec.ofNat 32 (ofBytes bs)))
    let read (v : State) : Chk (List (List (Nat × A80))) := (List.range rows).mapM (row v)
    let s' := s.correctRead fun v => metEcc (read v)
    match read s with
    | .error f => return s'.hold .matrix 96 (some f)
    | .ok es => return (s'.flyM 160 { MLanding.none with
        mreg := some o.md, lo := rowFirst o.rm, hi := rowFirst o.rm + rows, tile := tileOf es.flatten, ts := some a80One
        loads := if x.space = 0 then s.loadChunks ((List.range rows).flatMap (s.rawRow x)) else []
        full := if o.e then some true else none }).hold .matrix 96 none

/-- MLDA (R189). -/
def execMlda (o : MldaArgs) (s : State) : Res := unheld .matrix s (outcome .matrix s (mldaOp o s))

/-- The store landing of MSTA and MSTQ; what goes to other dies is cut into chunks (R190–R192, R343). -/
def State.issueMst (s : State) (o : MstaArgs) (cells : List (Nat × Nat × Byte)) : State :=
  ({ s with freeCtr := s.freeCtr + regFree }.flyM 160 { MLanding.none with
    mreg := if o.e then some o.md else none, full := if o.e then some false else none
    stores := numberChunks ((s.engineStores .release cells).flatMap PendStore.cut) }).advance .matrix

/-- The values of one row of a register after the tensor scale (R70). -/
def State.storedRow (s : State) (m : BitVec 3) (row : Nat) : List FVal :=
  (List.range 128).map fun c => storedVal (s.cur.readElem m s.freeCtr (128 * row + c)) (s.cur.readTs m s.freeCtr)

/-- MSTA (R188, R190). -/
def mstaOp (o : MstaArgs) (s : State) : Chk State := do
  let g := s.cur.key.core
  s.mregCheck o.md
  let e := s.cur.selectFt o.fs
  let x := s.msTensor o.h o.om
  let rows := rowCount o.rm
  require (e.high = 0 ∧ e.ofmt < 4) (fIllegal 3)
  require (x.fmt = e.ofmt) (fIllegal 4)
  require (x.space < 2) (fIllegal 4)
  require (!x.swzBad) (fIllegal 4)
  let es := elemBits x.fmt / 8
  x.msAlign es (x.msFoots g rows)
  failIf (s.spaceCheck x .store (x.msFoots g rows))
  x.msShape rows
  return s.issueMst o ((List.range rows).flatMap fun r =>
    s.rowCells x r 0 ((s.storedRow o.md (rowFirst o.rm + r)).flatMap fun v => bytesOf es (outBits x.fmt e.rm e.sat v)))

/-- MSTA (R190). -/
def execMsta (o : MstaArgs) (s : State) : Res := unheld .matrix s (outcome .matrix s (mstaOp o s))

/-- MSTQ (R188, R191). -/
def mstqOp (o : MstaArgs) (s : State) : Chk State := do
  let g := s.cur.key.core
  s.mregCheck o.md
  let e := s.cur.selectFt o.fs
  let x := s.msTensor o.h o.om
  let rows := rowCount o.rm
  let bs := 2 ^ e.lbs
  require (e.high = 0 ∧ e.ofmt = 4 ∧ 3 ≤ e.lbs ∧ e.lbs ≤ 5) (fIllegal 3)
  require (x.fmt = 4 ∧ x.hdr ≠ 0 ∧ x.e0 % bs = 0) (fIllegal 4)
  require (x.space < 2) (fIllegal 4)
  require (!x.swzBad) (fIllegal 4)
  require ((x.base + BitVec.ofNat 64 x.hdr).toNat % 4 = 0) (flt 0x02 0 (x.va g (x.base + BitVec.ofNat 64 x.hdr)))
  failIf (s.spaceCheck x .store (x.msFoots g rows ++ x.msHdrs g rows bs))
  x.msShape rows
  return s.issueMst o ((List.range rows).flatMap fun r =>
    let qs := (chunksOf bs 128 (s.storedRow o.md (rowFirst o.rm + r))).map quantBlock
    s.rowCells x r 0 (packNibbles (qs.flatMap Prod.snd)) ++
      (qs.zipIdx.flatMap fun q =>
        let a := x.base + BitVec.ofNat 64 (x.hdr + 4 * (x.hdrIndex bs 0 r 0 + q.2))
        (bytesOf 4 q.1.1).zipIdx.map fun b =>
          let va := (x.va g (a + BitVec.ofNat 64 b.2)).toNat
          (va, s.tensorKey x va, b.1)))

/-- MSTQ (R191). -/
def execMstq (o : MstaArgs) (s : State) : Res := unheld .matrix s (outcome .matrix s (mstqOp o s))

/-! ### MCTL (R194) -/

/-- MCLR (R194). -/
def mclrOp (md : BitVec 3) (s : State) : Chk State := do
  s.mregCheck md
  return (s.flyM 16 { MLanding.none with mreg := some md, lo := 0, hi := 128, ts := some a80One, full := some false }).advance .matrix

/-- MCLR (R194). -/
def execMclr (md : BitVec 3) (s : State) : Res := unheld .matrix s (outcome .matrix s (mclrOp md s))

/-- A change of the full/empty bit at issue (R179). -/
def markAtIssue (md : BitVec 3) (full : Bool) (s : State) : Chk State := do
  s.mregCheck md
  return (s.upd fun t => t.setM md ((t.getM md).mark (some full))).advance .matrix

/-- MFULL (R194). -/
def execMfull (md : BitVec 3) (s : State) : Res := unheld .matrix s (outcome .matrix s (markAtIssue md true s))

/-- MEMPTY (R194). -/
def execMempty (md : BitVec 3) (s : State) : Res := unheld .matrix s (outcome .matrix s (markAtIssue md false s))

/-- MPOST (R194). -/
def execMpost (k : BitVec 4) (imm : BitVec 16) (s : State) : Res :=
  unheld .matrix s (outcome .matrix s ((postK k imm.toNat s).map fun s => s.advance .matrix))

/-- MWAIT of MCTL (R194). -/
def execMwaitMctl (k : BitVec 4) (imm : BitVec 16) (s : State) : Res := unheld .matrix s (waitK .matrix k imm.toNat s)

/-- The matrix stream goes on once every earlier result has landed; blocked until then (R194). -/
def onMland (s : State) (f : State → State) : Res :=
  unheld .matrix s (if s.cur.mfly.isEmpty then .next (f s) else .next s)

/-- MLAND (R194). -/
def execMland (s : State) : Res := onMland s fun s => s.advance .matrix

/-- MEND (R194). -/
def execMend (s : State) : Res := onMland s fun s => s.updStr .matrix StreamState.finish

/-- MADD (R194). -/
def maddOp (md ms : BitVec 3) (s : State) : Chk State := do
  s.mregCheck md
  s.mregCheck ms
  let a := s.cur.readTile md s.freeCtr
  let b := s.cur.readTile ms (s.freeCtr + if md = ms then 0 else regFree)
  let marks := s.cur.readMarks ms (s.freeCtr + if md = ms then 0 else regFree)
  return ({ s with freeCtr := s.freeCtr + 2 * regFree }.flyM 160 { MLanding.none with
    mreg := some md, lo := 0, hi := 128, tile := tileOf (tileZip a80Add (a.length + b.length) a b)
    pmask := marks.1, nsteps := marks.2 }).advance .matrix

/-- MADD (R194). -/
def execMadd (md ms : BitVec 3) (s : State) : Res := unheld .matrix s (outcome .matrix s (maddOp md ms s))

/-- MSCAL (R194). -/
def mscalOp (md : BitVec 3) (rs : BitVec 5) (s : State) : Chk State := do
  s.mregCheck md
  let f := toA80 .f32 ((s.getS rs).setWidth 32)
  return ({ s with freeCtr := s.freeCtr + regFree }.flyM 160 { MLanding.none with
    mreg := some md, lo := 0, hi := 128, tile := tileMap (fun x => a80Mul x f) (s.cur.readTile md s.freeCtr) }).advance .matrix

/-- MSCAL (R194). -/
def execMscal (md : BitVec 3) (rs : BitVec 5) (s : State) : Res := unheld .matrix s (outcome .matrix s (mscalOp md rs s))

/-- MTRANS: blocked while md is FULL (R179, R194). DEDUCED: ts is copied as R194 says, beside R60 (log 93). -/
def mtransOp (md ms : BitVec 3) (s : State) : Chk State := do
  s.mregCheck md
  s.mregCheck ms
  if (s.cur.getM md).full then return s
  else
    let marks := s.cur.readMarks ms s.freeCtr
    return ({ s with freeCtr := s.freeCtr + regFree }.flyM 160 { MLanding.none with
      mreg := some md, lo := 0, hi := 128, tile := tileTrans (s.cur.readTile ms s.freeCtr)
      ts := some (s.cur.readTs ms s.freeCtr), restart := true, pmask := marks.1, nsteps := marks.2 }).advance .matrix

/-- MTRANS (R194). -/
def execMtrans (md ms : BitVec 3) (s : State) : Res := unheld .matrix s (outcome .matrix s (mtransOp md ms s))

/-! ### The events of the matrix stream -/

/-- MMA_LANDING: an MMA or MMAT of a slot lands, and posts its record when f = 1; one that is to stop does so at its K-step
boundary (R183, R186, R187). -/
def execMmaLanding (s : State) : Res :=
  .next (s.onSlot s.ev.slot fun s' =>
    match s'.cur.mfly.find? fun l => decide (l.id = s.ev.num) && !l.frames.isEmpty with
    | some l => (match l.run with
      | .on => s'.landM l.id
      | .stopping k => if l.boundary k ≤ s'.cycle then s'.stopMma l k else s'
      | .stopped => s')
    | none => s')

/-- Nothing of a landing is still to cross a circuit (R343). -/
def MLanding.crossed (l : MLanding) : Bool := (l.loads ++ l.stores).all fun p => p.ch.isNone

/-- MATRIX_LANDING: another matrix result of a slot lands, with those that must land before it (R90). DESIGN CHOICE: one with bytes that
are still to cross a circuit waits for their frames, past its bound where need be (R342, R344, log 95). -/
def execMatrixLanding (s : State) : Res :=
  .next (s.onSlot s.ev.slot fun s' =>
    if s'.cur.mfly.any fun l => decide (l.id = s.ev.num) && l.frames.isEmpty && decide (l.run = .on)
        && (s'.cur.landsBefore l ++ [l]).all MLanding.crossed then s'.landM s.ev.num else s')

/-- MLDA_DATA_CHECK: an MLDA has read and checked its data, all of which has come (R189, R343). -/
def execMldaDataCheck (s : State) : Res :=
  .next (s.onSlot s.ev.slot fun s => if s.cur.mfly.all fun l => l.loads.all fun p => p.ch.isNone then s.endHold .matrix else s)

end Sys2Proof.Machine
end

