-- ==== Sys2Proof/Machine/CopyData.lean ====
section
/-! DEFINITION. The data of copy operations: transforms (R201–R204), chunks (R207, R208, R210) and tags (R199). -/

namespace Sys2Proof.Machine

/-! ### CRC-64 (R204) -/

/-- One bit of the reflected CRC with polynomial 0x42F0E1EBA9EA3693. -/
def crcBit (c : Word) : Word := if c.getLsbD 0 then (c >>> 1) ^^^ 0xC96C5795D7870F42#64 else c >>> 1

/-- One byte into the CRC. -/
def crcByte (c : Word) (b : Byte) : Word := crcBit (crcBit (crcBit (crcBit (crcBit (crcBit (crcBit (crcBit (c ^^^ b.setWidth 64))))))))

/-- The CRC of bytes: initial value and final XOR all ones (R204). -/
def crc64 (bs : List Byte) : Word := ~~~ bs.foldl crcByte (BitVec.allOnes 64)

/-! ### The image and its chunks (R207) -/

/-- Bytes of a row of the unswizzled image. -/
def Tensor.rowLen (x : Tensor) : Nat := x.e0 * elemBits x.fmt / 8

/-- Bytes of the unswizzled image. -/
def Tensor.imageLen (x : Tensor) : Nat := x.rowLen * x.e1 * x.e2

/-- Transforms whose chunks are performed in order, one after another (R207, R208). -/
def Transform.strict : Transform → Bool
  | .rle => true | .unrle => true | .scatter => true | .radd => true | _ => false

/-- Transforms whose chunks this model performs in order: crc's are too, which R207 allows. -/
def Transform.ordered (tr : Transform) : Bool := tr.strict || decide (tr = .crc)

/-- The tensor whose image the chunks cut: the source for rle; crc's two images are alike (R207). -/
def CopyOp.imageOf (o : CopyOp) : Tensor := match o.tr with | .rle => o.x | _ => o.y

/-- Chunks of an image of n bytes: one at least. -/
def chunkCount (n : Nat) : Nat := (n + 4095) / 4096

/-- Bytes of chunk n. -/
def CopyOp.chunkLen (o : CopyOp) (n : Nat) : Nat := min 4096 (o.imageOf.imageLen - 4096 * n)

/-- The element numbers of chunk n. -/
def CopyOp.chunkElems (o : CopyOp) (n : Nat) : List Nat :=
  let w := elemBits o.imageOf.fmt
  let per := 32768 / w
  (List.range (o.chunkLen n * 8 / w)).map fun i => n * per + i

/-- The coordinates of an element number. -/
def Tensor.coords (x : Tensor) (e : Nat) : Nat × Nat × Nat := (e % x.e0, e / x.e0 % x.e1, e / (x.e0 * x.e1))

/-! ### Elements -/

/-- An element's bits, or F_ECC. -/
def State.elemAt (s : State) (x : Tensor) (i0 i1 i2 : Nat) : Chk Nat :=
  match s.elemBitsAt x i0 i1 i2 with
  | (_, some f) => .error f
  | (v, none) => .ok v

/-- Codes of integers. -/
def intFmt (fmt : Nat) : Bool := decide (fmt = 5) || decide (fmt = 6)

/-- One element converted (R63, copy transform 0x01). -/
def cvtElem (src dst v : Nat) : Nat :=
  if src = dst then v
  else
    let x := fmtVal src v
    if intFmt dst then
      let w := elemBits dst
      (BitVec.ofInt w (toIntW w .rne x).1).toNat
    else
      let narrow := decide (dst = 2) || decide (dst = 3)
      if dst = 3 ∧ x.isInf then infIn e5m2 x.neg
      else if intFmt src then (roundTo (fmtF dst) .rne narrow x).1
      else (convF (fmtF src) (fmtF dst) .rne narrow x).1

/-- One element of a radd: x + y rounded with RNE (R203). -/
def raddElem (fmt x y : Nat) : Nat := (roundTo (fmtF fmt) .rne false (fadd .rne (fmtVal fmt x) (fmtVal fmt y))).1

/-- Index i of the array of a gather or scatter: a signed INT32 at a job virtual address (R201). -/
def State.indexAt (s : State) (o : CopyOp) (i : Nat) : Chk Int :=
  ((List.range 4).mapM fun b => s.tensorByte o.x (o.tw + BitVec.ofNat 64 (4 * i + b))).map fun bs => signedOf 32 (ofBytes bs)

/-- An index lies in an extent. -/
def inExtent (i : Int) (e : Nat) : Bool := decide (0 ≤ i) && decide (i < e)

/-! ### Run-length records (R58, R202) -/

/-- Record k of row (i1, i2): value and count. -/
def State.recordAt (s : State) (x : Tensor) (i1 i2 k : Nat) : Chk (Nat × Nat) :=
  (s.elemAt x k i1 i2).map fun v => (v % 2 ^ 32, v / 2 ^ 32)

/-- The runs of a row as its records give them, until they cover `need` elements; F_SHAPE detail 0 where they pass
the extent or fall short (R202). -/
def State.unrleRow (s : State) (x : Tensor) (i1 i2 e0 need : Nat) : Nat → Nat → Nat → Chk (List Run)
  | 0, _, sum => if need ≤ sum then .ok [] else .error (flt 0x09 0 0)
  | left + 1, k, sum =>
    if need ≤ sum then .ok []
    else match s.recordAt x i1 i2 k with
      | .error f => .error f
      | .ok (v, c) =>
        if e0 < sum + c then .error (flt 0x09 0 0)
        else (State.unrleRow s x i1 i2 e0 need left (k + 1) (sum + c)).map fun rs =>
          if c = 0 then rs else { val := BitVec.ofNat 32 v, count := c } :: rs

/-- The runs of the first n elements of a row, merged by bits. -/
def State.rowRuns (s : State) (x : Tensor) (i1 i2 n : Nat) : Chk (List Run) :=
  ((List.range n).mapM fun i => s.elemAt x i i1 i2).map fun vs => coalesce (elemRuns (vs.map (BitVec.ofNat 32)))

/-! ### Blocks (R71, R201) -/

/-- The block of a deq or q4 word. -/
def twBlock (tw : Word) : Nat := 2 ^ wbits tw 0 3

/-- One block dequantised: its poison, and its elements' bits (R53, R54, R201). -/
def State.deqBlock (s : State) (o : CopyOp) (i0 i1 i2 : Nat) : Chk (Bool × List Nat) :=
  let bs := twBlock o.tw
  let x8 := o.tw.getLsbD 3
  match s.headerAt o.x bs i0 i1 i2, (List.range bs).mapM fun i => s.elemAt o.x (i0 + i) i1 i2 with
  | (_, some f), _ => .error f
  | _, .error f => .error f
  | (h, none), .ok raw =>
    let vals := raw.map (elemVal o.x.fmt h x8)
    let bad := headerPoison h x8 || vals.any (elemPoison o.x.fmt)
    let sc := headerScale h
    .ok (bad, vals.map fun v => if bad then 0 else (roundTo (fmtF o.y.fmt) .rne false (fmul v sc)).1)

/-- One block quantised: its header and codes (R71). -/
def State.q4Block (s : State) (o : CopyOp) (i0 i1 i2 : Nat) : Chk (Nat × List Nat) :=
  ((List.range (twBlock o.tw)).mapM fun i => s.elemAt o.x (i0 + i) i1 i2).map fun raw => quantBlock (raw.map (fmtVal o.x.fmt))

/-! ### What a chunk writes -/

/-- The CRC of the chunks below one (R204). -/
def CopyOp.crcBefore (o : CopyOp) (n : Nat) : Word :=
  if n = 0 then BitVec.allOnes 64 else (o.parts.find? fun p => decide (p.1 + 1 = n)).elim (BitVec.allOnes 64) fun p => p.2.2

/-- Bits of elements packed to bytes in order (R51). -/
def packElems (w : Nat) (vs : List Nat) : List Byte := if w = 4 then packNibbles vs else vs.flatMap fun v => bytesOf (w / 8) v

/-- The job virtual address of byte b of the image of a tensor (R199). -/
def Tensor.imageVa (x : Tensor) (g : CoreId) (b : Nat) : Nat :=
  let r := b / x.rowLen
  (x.byteVa g (r % x.e1) (r / x.e1) (b % x.rowLen)).toNat

/-- The bytes of chunk n of the destination image at their addresses. -/
def CopyOp.place (o : CopyOp) (g : CoreId) (n : Nat) (bs : List Byte) : List (Nat × Byte) :=
  bs.zipIdx.map fun p => (o.y.imageVa g (4096 * n + p.2), p.1)

/-- The bits of one destination element of a transform that works element by element (R201, R203); the flag marks an
index out of range. -/
def State.copyElem (s : State) (o : CopyOp) (e : Nat) : Chk (Nat × Bool) :=
  let (i0, i1, i2) := o.y.coords e
  let plain (r : Chk Nat) : Chk (Nat × Bool) := r.map fun v => (v, false)
  match o.tr with
  | .fill => .ok (o.tw.toNat % 2 ^ elemBits o.y.fmt, false)
  | .cvt => plain ((s.elemAt o.x i0 i1 i2).map (cvtElem o.x.fmt o.y.fmt))
  | .tr2d => plain (s.elemAt o.x i1 i0 i2)
  | .gather =>
    match s.indexAt o i1 with
    | .error f => .error f
    | .ok i => if inExtent i o.x.e1 then plain (s.elemAt o.x i0 i.toNat i2) else .ok (0, true)
  | .radd =>
    match s.elemAt o.y i0 i1 i2, s.elemAt o.x i0 i1 i2 with
    | .ok x, .ok y => .ok (raddElem o.y.fmt x y, false)
    | .error f, _ => .error f
    | _, .error f => .error f
  | _ => plain (s.elemAt o.x i0 i1 i2)

/-- A chunk of a transform that works element by element. -/
def State.elemChunk (s : State) (o : CopyOp) (n : Nat) : Chk ChunkOut :=
  ((o.chunkElems n).mapM (s.copyElem o)).map fun vs =>
    let bs := packElems (elemBits o.y.fmt) (vs.map Prod.fst)
    { cells := o.place s.cur.key.core n bs, poison := 0, range := vs.any Prod.snd
      crc := if o.tr = .crc then bs.foldl crcByte (o.crcBefore n) else 0, out := 0 }

/-- The element numbers at which blocks of a chunk start. -/
def CopyOp.chunkBlocks (o : CopyOp) (n : Nat) : List Nat := (o.chunkElems n).filter fun e => decide (e % twBlock o.tw = 0)

/-- A chunk of deq (R201). -/
def State.deqChunk (s : State) (o : CopyOp) (n : Nat) : Chk ChunkOut :=
  ((o.chunkBlocks n).mapM fun e =>
    let (i0, i1, i2) := o.y.coords e
    (s.deqBlock o i0 i1 i2).map fun r => (i0 / twBlock o.tw, r)).map fun (bs : List (Nat × Bool × List Nat)) =>
      { cells := o.place s.cur.key.core n (packElems (elemBits o.y.fmt) (bs.flatMap fun (b : Nat × Bool × List Nat) => b.2.2))
        poison := bs.foldl (fun (w : Word) (b : Nat × Bool × List Nat) => if b.2.1 then w ||| (1#64 <<< (b.1 % 64)) else w) 0
        range := false, crc := 0, out := 0 }

/-- The header of the block that starts at an element, as bytes at their addresses (R52). -/
def CopyOp.headerCells (o : CopyOp) (g : CoreId) (e h : Nat) : List (Nat × Byte) :=
  let (i0, i1, i2) := o.y.coords e
  let a := o.y.base + BitVec.ofNat 64 (o.y.hdr + 4 * o.y.hdrIndex (twBlock o.tw) i0 i1 i2)
  (bytesOf 4 h).zipIdx.map fun b => ((o.y.va g (a + BitVec.ofNat 64 b.2)).toNat, b.1)

/-- A chunk of q4: a block's header belongs to the chunk of its first element (R201, R207). -/
def State.q4Chunk (s : State) (o : CopyOp) (n : Nat) : Chk ChunkOut :=
  ((o.chunkBlocks n).mapM fun e =>
    let (i0, i1, i2) := o.y.coords e
    (s.q4Block o i0 i1 i2).map fun r => (e, r)).map fun (bs : List (Nat × Nat × List Nat)) =>
      { cells := o.place s.cur.key.core n (packElems 4 (bs.flatMap fun (b : Nat × Nat × List Nat) => b.2.2))
          ++ bs.flatMap fun (b : Nat × Nat × List Nat) => o.headerCells s.cur.key.core b.1 b.2.1
        poison := bs.foldl (fun (w : Word) (b : Nat × Nat × List Nat) =>
          if headerPoison b.2.1 false then w ||| (1#64 <<< ((o.y.coords b.1).1 / twBlock o.tw % 64)) else w) 0
        range := false, crc := 0, out := 0 }

/-- The parts of the rows of a tensor's image that chunk n holds: row, first and last + 1 element. -/
def CopyOp.chunkRows (o : CopyOp) (n : Nat) : List (Nat × Nat × Nat) :=
  let x := o.imageOf
  match o.chunkElems n with
  | [] => []
  | e :: es =>
    let last := (e :: es).getLast?.getD e
    (List.range (last / x.e0 - e / x.e0 + 1)).map fun i =>
      let r := e / x.e0 + i
      (r, if i = 0 then e % x.e0 else 0, if r = last / x.e0 then last % x.e0 + 1 else x.e0)

/-- The records of a row that its first n elements close: a run is closed by the next one, or by the row's end. -/
def closedRuns (rs : List Run) (n e0 : Nat) : List Run := if n = e0 then rs else rs.dropLast

/-- The records of part of a row that rle writes (R58, R202). -/
def State.rlePart (s : State) (o : CopyOp) (p : Nat × Nat × Nat) : Chk (List (Nat × Byte)) :=
  let i1 := p.1 % o.x.e1
  let i2 := p.1 / o.x.e1
  match s.rowRuns o.x i1 i2 p.2.2, s.rowRuns o.x i1 i2 p.2.1 with
  | .error f, _ => .error f
  | _, .error f => .error f
  | .ok b, .ok a =>
    let before := if p.2.1 = 0 then 0 else (closedRuns a p.2.1 o.x.e0).length
    let all := closedRuns b p.2.2 o.x.e0
    if o.y.e0 < all.length then .error (flt 0x09 1 0)
    else .ok (((all.drop before).zipIdx).flatMap fun q =>
      (bytesOf 4 q.1.val.toNat ++ bytesOf 4 q.1.count).zipIdx.map fun c =>
        ((o.y.byteVa s.cur.key.core i1 i2 (8 * (before + q.2) + c.2)).toNat, c.1))

/-- A chunk of rle: the records it closes are written (R202). -/
def State.rleChunk (s : State) (o : CopyOp) (n : Nat) : Chk ChunkOut :=
  ((o.chunkRows n).mapM (s.rlePart o)).map fun cs =>
    { cells := cs.flatten, poison := 0, range := false, crc := 0, out := cs.flatten.length }

/-- The elements of part of a row that unrle writes (R202). -/
def State.unrlePart (s : State) (o : CopyOp) (p : Nat × Nat × Nat) : Chk (List Nat) :=
  (s.unrleRow o.x (p.1 % o.y.e1) (p.1 / o.y.e1) o.y.e0 p.2.2 o.x.e0 0 0).map fun rs =>
    (((runElems rs).take p.2.2).drop p.2.1).map BitVec.toNat

/-- A chunk of unrle (R202). -/
def State.unrleChunk (s : State) (o : CopyOp) (n : Nat) : Chk ChunkOut :=
  ((o.chunkRows n).mapM (s.unrlePart o)).map fun vs =>
    { cells := o.place s.cur.key.core n (packElems (elemBits o.y.fmt) vs.flatten), poison := 0, range := false
      crc := 0, out := 0 }

/-- What source row r of a scatter writes into the parts of rows that a chunk holds; the flag marks an index out of range
(R201). -/
def State.scatterRow (s : State) (o : CopyOp) (ps : List (Nat × Nat × Nat)) (r : Nat) : Chk (List (Nat × Byte) × Bool) :=
  match s.indexAt o r with
  | .error f => .error f
  | .ok i =>
    if inExtent i o.y.e1 then
      match ps.find? fun p => decide (p.1 = i.toNat) with
      | none => .ok ([], false)
      | some p => ((List.range (p.2.2 - p.2.1)).mapM fun k => s.elemAt o.x (p.2.1 + k) r 0).map fun vs =>
        let w := elemBits o.x.fmt
        ((packElems w vs).zipIdx.map fun c => ((o.y.byteVa s.cur.key.core i.toNat 0 (p.2.1 * w / 8 + c.2)).toNat, c.1), false)
    else .ok ([], true)

/-- A chunk of scatter: the rows of the source in increasing order, as far as their indices name rows of the chunk (R201,
R207). -/
def State.scatterChunk (s : State) (o : CopyOp) (n : Nat) : Chk ChunkOut :=
  ((List.range o.x.e1).mapM (s.scatterRow o (o.chunkRows n))).map fun cs =>
    { cells := cs.flatMap Prod.fst, poison := 0, range := cs.any Prod.snd, crc := 0, out := 0 }

/-- What chunk n of an operation writes, from what its source holds now (R201–R204). -/
def State.chunkOut (s : State) (o : CopyOp) (n : Nat) : Chk ChunkOut :=
  match o.tr with
  | .rle => s.rleChunk o n
  | .unrle => s.unrleChunk o n
  | .scatter => s.scatterChunk o n
  | .deq => s.deqChunk o n
  | .q4 => s.q4Chunk o n
  | _ => s.elemChunk o n

/-! ### Writing a chunk -/

/-- The tags of the granules that a copy writes in a scratchpad, by home key (R199, R286). -/
def State.stampTags (s : State) (swz : Nat) (keys : List Nat) : State :=
  let grs := keys.foldl (fun (acc : List (CoreId × Nat)) (a : Nat) =>
    if inWindows a then
      let p := (windowCore a, windowOff a / 2048)
      if acc.contains p then acc else p :: acc
    else acc) []
  grs.foldl (fun (s : State) (p : CoreId × Nat) =>
    s.updCore p.1 fun c => { c with tags := setTag c.tags p.2 (BitVec.ofNat 3 swz) }) s

/-- A store into a region that is LOST is discarded (R104). -/
def State.discards (s : State) (p : PendStore) : Bool :=
  (findRegion s.tokens s.cur.bind.job p.va.toNat).elim false fun e => decide (e.st = .lost)

/-- The bytes of a chunk are performed at their homes; a window counts them unless it has counted the chunk before
(R103, R104, R210). -/
def State.copyWrite (s : State) (o : CopyOp) (cells : List (Nat × Byte)) (count : Bool) : State :=
  let ps := s.engineStores .unordered (cells.map fun c => (c.1, s.tensorKey o.y c.1, c.2))
  (s.performAll (if count then ps else ps.map fun p => { p with count := 0 })).stampTags (if o.tr = .swz then o.y.swz else 0)
    ((ps.filter fun p => !s.discards p).flatMap fun p => p.bytes.map Prod.fst)

/-- An operation of the acting slot replaced. -/
def State.putOp (s : State) (o : CopyOp) : State := s.upd fun t => { t with copies := t.copies.map fun x => if x.id = o.id then o else x }

/-- The first address of a chunk of the destination. -/
def CopyOp.chunkVa (o : CopyOp) (g : CoreId) (n : Nat) : Word :=
  BitVec.ofNat 64 (if o.y.rowLen = 0 then (o.y.va g o.y.base).toNat else o.y.imageVa g (4096 * n))

/-- The progress point: every chunk below it has been performed (R208). -/
def CopyOp.progress (o : CopyOp) : Nat := ((List.range o.chunks).find? fun n => !o.done.contains n).getD o.chunks

/-- The byte count of the chunks below the progress point (R213). -/
def CopyOp.doneBytes (o : CopyOp) : Nat :=
  match o.major, o.tr with
  | .catom, _ => o.acc.toNat
  | .coll, _ => o.acc.toNat
  | _, .rle => ((o.parts.filter fun p => decide (p.1 < o.progress)).map fun p => p.2.1).foldl (· + ·) 0
  | _, _ => ((List.range o.progress).map o.chunkLen).foldl (· + ·) 0

/-- An operation ends (R209, R212, R213). -/
def CopyOp.stop (o : CopyOp) (status : Nat) (cause : BitVec 8) (detail : BitVec 16) (addr : Word) : CopyOp :=
  { o with phase := .ended status cause detail, failAddr := addr }

/-- A chunk marked performed; the operation ends when all are (R196, R201). -/
def CopyOp.markDone (o : CopyOp) (n : Nat) : CopyOp :=
  let o := { o with done := if o.done.contains n then o.done else n :: o.done }
  if o.progress = o.chunks then { o with phase := .ended (if o.range then 4 else 0) 0 0 } else o

/-- An operation after one of its chunks has been made (R202, R204). -/
def CopyOp.took (o : CopyOp) (n : Nat) (r : ChunkOut) : CopyOp :=
  { o with parts := (n, r.out, r.crc) :: o.parts.filter fun p => decide (p.1 ≠ n) }

/-- Chunk n of an operation is made from what its source holds: what it writes, or the operation ends with the fault found in
its data (R207, R212). -/
def State.makeChunk (s : State) (o : CopyOp) (n : Nat) : State × CopyOp × Option ChunkOut :=
  match s.chunkOut o n with
  | .error f => (s, o.stop 2 f.cause f.detail (if f.cause = 0x11 then f.addr else o.chunkVa s.cur.key.core n), none)
  | .ok r => (s.correctRead fun v => metEcc (v.chunkOut o n), o.took n r, some r)

/-- The bytes of chunk n are written and counted, with the poison bits and the index out of range that go with them (R103, R201,
R210). Whether it counts as performed is left to the caller. -/
def State.putChunk (s : State) (o : CopyOp) (n : Nat) (r : ChunkOut) : State × CopyOp :=
  (s.copyWrite o r.cells (!o.counted.contains n),
    { o with poison := o.poison ||| r.poison, range := o.range || r.range
             counted := if o.counted.contains n then o.counted else n :: o.counted })

/-- What an operation sends towards the home of its destination: a radd sends the source bytes, and the add is made there (R203). -/
def CopyOp.carried (o : CopyOp) : CopyOp := if o.tr = .radd then { o with tr := .none } else o

/-- The sums of a radd at the home of its destination, from the source bytes that have come: element by element, each read, added and
written in one update (R203). -/
def State.addCells (s : State) (o : CopyOp) (cells : List (Nat × Byte)) : Chk (List (Nat × Byte)) :=
  let es := elemBits o.y.fmt / 8
  ((chunksOf es cells.length cells).mapM fun (c : List (Nat × Byte)) =>
    (c.mapM fun b => s.tensorByte o.y (BitVec.ofNat 64 b.1)).map fun xs =>
      (c.map Prod.fst).zip (bytesOf es (raddElem o.y.fmt (ofBytes xs) (ofBytes (c.map Prod.snd))))).map List.flatten

/-- Chunk n of an operation is carried out: made, written and counted (R207–R212). -/
def State.chunkData (s : State) (o : CopyOp) (n : Nat) : State × CopyOp :=
  match s.makeChunk o n with
  | (s, o, some r) => s.putChunk o n r
  | (s, o, none) => (s, o)

end Sys2Proof.Machine
end

