-- ==== Sys2Proof/Machine/Publish.lean ====
section
/-! DEFINITION. Buffer pairs (R141): PUBLISH and PUBQ, and the publication that CPUB makes too. -/

namespace Sys2Proof.Machine

/-- The address that a handle's base word names in its space (R141, R199). -/
def State.pairVa (s : State) (h : Handle) : Word := (h.tensor 0).va s.cur.key.core h.w0

/-- The buffer pair that a handle names: the region that holds its base (R141); a reserved format code is refused (R46). DESIGN CHOICE:
a handle that names no pair is refused for PUBQ as for PUBLISH (log 124). -/
def State.pairOf (s : State) (h : Handle) : Chk Entry := do
  let va := s.pairVa h
  require (decide ((h.tensor 0).fmt < 9)) (fIllegal 4)
  require (h.tensor 0).pair (fIllegal 4)
  match findRegion s.tokens s.cur.bind.job va.toNat with
  | none => .error (flt 0x05 0 va)
  | some e =>
    require (decide (17 ≤ e.log2)) (fIllegal 4)
    require (decide (e.st ≠ .lost) && s.homeAlive e) (flt 0x07 0 va)
    return e

/-- The cores of a job's partition. -/
def State.jobCores (s : State) (job : Nat) : List CoreId :=
  ((findJob s.jobs job).elim [] fun j => j.dies).flatMap fun d => (List.range 16).map fun c => BitVec.ofNat 9 (16 * d + c)

/-- The publication of a pair by its owner: the flip and the count in one update, and the L1 lines of the region in
every core of the partition dropped; none while the thread's work in the region is in flight, or, for the scalar stream's
PUBLISH, an earlier write that it releases at .pkg is not performed (R116, R141, R258, R259). -/
def State.publish (s : State) (h : Handle) (scalar : Bool) : Chk (Option State) := do
  let e ← s.pairOf h
  let va := s.pairVa h
  require (decide (e.owner = s.cur.key.agent)) (flt 0x05 0 va)
  require (decide (e.st ≠ .window)) (flt 0x13 0 va)
  if s.cur.busyIn e.base (2 ^ e.log2) || (scalar && !s.cur.released .pkg true) then return none
  else
    let e' := { e with pair := !e.pair, paired := true, pubs := e.pubs + 1 }
    let s := { s with tokens := putEntry s.tokens e' }
    return some ((s.jobCores e.job).foldl (fun (s : State) (g : CoreId) => s.l1DropRegion g e.job e.base (2 ^ e.log2)) s)

/-- PUBLISH (R141). -/
def execPublish (ha : BitVec 4) (s : State) : Res :=
  outcome .scalar s ((s.publish (s.cur.getH ha) true).map fun r => match r with
    | none => s.interlock
    | some s' => s'.unhold.advance .scalar)

/-- PUBQ's check: a load of the pair's visible view (R141). -/
def State.pubqCheck (s : State) (e : Entry) : Chk Access :=
  let va := BitVec.ofNat 64 e.base
  if inPages e.base then s.pageAdmit va .load false else s.windowAdmit va 8 .load false

/-- PUBQ: the publish count, with the effect of LDA at .pkg (R141). -/
def execPubq (d : BitVec 5) (ha : BitVec 4) (s : State) : Res :=
  outcome .scalar s (do
    let e ← s.pairOf (s.cur.getH ha)
    let _ ← s.pubqCheck e
    return ((s.acquire .pkg).setS d e.pubs).advance .scalar)

end Sys2Proof.Machine
end

