-- ==== Sys2Proof/Machine/Copy.lean ====
section
/-! DEFINITION. The instructions of the copy stream (R196–R205, R213–R216) but COLL, and the events of its operations. -/

namespace Sys2Proof.Machine

/-! ### Operands -/

/-- The operands of an instruction that moves a tensor, whatever its format. -/
structure CopyReq where
  major : CopyMajor
  tr : Transform
  hs : BitVec 4
  hd : BitVec 4
  p : BitVec 5
  ch : BitVec 6
  tag : BitVec 6
  post : Bool
deriving DecidableEq, Repr

def ccReq (major : CopyMajor) (tr : Transform) (o : CcArgs) : CopyReq :=
  { major := major, tr := tr, hs := o.hs, hd := o.hd, p := o.p, ch := 0, tag := o.tag, post := o.r }
def ccCrcReq (major : CopyMajor) (o : CcCrcArgs) : CopyReq :=
  { major := major, tr := .crc, hs := o.hs, hd := o.hd, p := o.p, ch := 0, tag := o.tag, post := true }
def cxReq (major : CopyMajor) (tr : Transform) (o : CxArgs) : CopyReq :=
  { major := major, tr := tr, hs := o.hs, hd := o.hd, p := o.p, ch := o.ch, tag := 0, post := o.r }
def cxCrcReq (major : CopyMajor) (o : CxCrcArgs) : CopyReq :=
  { major := major, tr := .crc, hs := o.hs, hd := o.hd, p := o.p, ch := o.ch, tag := 0, post := true }

/-- Word i of the parameter block (R198). -/
def State.param (s : State) (p : BitVec 5) (i : Nat) : Word := s.getS (BitVec.ofNat 5 (p.toNat + i))

/-- Transforms with a transform word (R201). -/
def Transform.hasWord : Transform → Bool
  | .q4 => true | .deq => true | .gather => true | .scatter => true | .fill => true | _ => false

/-- The fields of the control word that a major marks zero are zero (R198). -/
def ctlOk (major : CopyMajor) (cw : Word) : Bool :=
  decide (wbits cw 36 28 = 0)
    && (major = .xcpy || major = .wput || decide (wbits cw 10 6 = 0))
    && (major = .lcpy || decide (wbits cw 16 20 = 0))

/-- The formats that a transform takes (R201). -/
def fmtsOk (tr : Transform) (a b : Tensor) : Bool :=
  let plain (f : Nat) : Bool := decide (f ∈ [0, 1, 2, 3, 5, 6])
  decide (b.fmt ≤ 8) && (tr = .fill || decide (a.fmt ≤ 8)) &&
  match tr with
  | .cvt => plain a.fmt && plain b.fmt
  | .tr2d => decide (a.fmt = b.fmt) && decide (a.fmt ≠ 4)
  | .rle => decide (a.fmt ∈ [0, 1, 6]) && decide (b.fmt = 7)
  | .unrle => decide (a.fmt = 7) && decide (b.fmt ∈ [0, 1, 6])
  | .q4 => decide (a.fmt ∈ [0, 1]) && decide (b.fmt = 4) && decide (b.hdr ≠ 0)
  | .deq => decide (a.fmt ∈ [4, 8]) && decide (b.fmt ∈ [0, 1])
  | .fill => plain b.fmt
  | .radd => decide (a.fmt = b.fmt) && decide (a.fmt ∈ [0, 1])
  | _ => decide (a.fmt = b.fmt)

/-- The spaces that a major reaches (R200, R201). -/
def spacesOk (major : CopyMajor) (tr : Transform) (a b : Tensor) : Bool :=
  (tr = .fill || decide (a.space < 2)) &&
  match major with
  | .cpy => decide (b.space < 3) && (tr ≠ .radd || decide (b.space < 2))
  | .wput => decide (b.space = 0) || decide (b.space = 2)
  | _ => decide (b.space = 0)

/-- The transform word of q4 and deq, and the block size against E0 (R52, R201). -/
def wordOk (tr : Transform) (tw : Word) (a b : Tensor) : Bool :=
  let lbs := wbits tw 0 3
  let size := decide (3 ≤ lbs) && decide (lbs ≤ 5)
  match tr with
  | .q4 => decide (tw.toNat / 8 = 0) && size && decide (b.e0 % 2 ^ lbs = 0)
  | .deq => decide (tw.toNat / 16 = 0) && size && (!tw.getLsbD 3 || decide (a.fmt = 4)) && decide (a.e0 % 2 ^ lbs = 0)
  | _ => true

/-- The values read at issue are legal (R160, R198–R201). -/
def CopyReq.valuesOk (q : CopyReq) (cw tw : Word) (a b : Tensor) : Bool :=
  ctlOk q.major cw && fmtsOk q.tr a b && spacesOk q.major q.tr a b && wordOk q.tr tw a b
    && (q.tr = .swz || decide (b.swz = 0)) && (q.tr = .fill || !a.swzBad) && !b.swzBad

/-- A write through a pair = 1 handle goes to the shadow view: the destination moved there (R141). -/
def State.toShadow (s : State) (h : Handle) (b : Tensor) : Chk Tensor :=
  if !b.pair then .ok b
  else match findRegion s.tokens s.cur.bind.job (s.pairVa h).toNat with
    | none => .ok b
    | some e =>
      let half := 2 ^ (e.log2 - 1)
      let a := (b.va s.cur.key.core b.base).toNat
      if e.log2 < 17 then .error (fIllegal 4)
      else if e.base ≤ a ∧ a < e.base + half then .ok { b with base := b.base + BitVec.ofNat 64 half } else .ok b

/-- The region of a pair is marked as one when its owner writes through a pair handle (R141). -/
def State.markPair (s : State) (h : Handle) (b : Tensor) : State :=
  if !b.pair then s
  else match findRegion s.tokens s.cur.bind.job (s.pairVa h).toNat with
    | some e => if e.owner = s.cur.key.agent then { s with tokens := putEntry s.tokens { e with paired := true } } else s
    | none => s

/-! ### Footprints and their checks -/

/-- The rows from row r on. -/
def Tensor.foots (x : Tensor) (g : CoreId) (r : Nat) : List (Nat × Nat) :=
  (List.range (x.e1 * x.e2 - r)).map fun i => x.rowFoot g ((r + i) % x.e1) ((r + i) / x.e1) x.e0

/-- The bytes read from row r on: the tensor, and the headers of deq (R197, R201). -/
def CopyOp.srcFoots (o : CopyOp) (g : CoreId) (r : Nat) : List (Nat × Nat) :=
  match o.tr with
  | .fill => []
  | .deq => o.x.foots g r ++ if o.x.hdr = 0 then [] else [o.x.hdrFoot g (twBlock o.tw)]
  | .tr2d => o.x.foots g 0
  | .gather => o.x.foots g 0
  | .scatter => o.x.foots g 0
  | _ => o.x.foots g r

/-- The bytes written from row r on: the tensor, and the headers of q4. -/
def CopyOp.dstFoots (o : CopyOp) (g : CoreId) (r : Nat) : List (Nat × Nat) :=
  match o.tr with
  | .q4 => o.y.foots g r ++ [o.y.hdrFoot g (twBlock o.tw)]
  | .scatter => o.y.foots g 0
  | _ => o.y.foots g r

/-- The index array of a gather or scatter (R201). -/
def CopyOp.idxFoots (o : CopyOp) : List (Nat × Nat) :=
  match o.tr with
  | .gather => [(o.tw.toNat, 4 * o.y.e1)]
  | .scatter => [(o.tw.toNat, 4 * o.x.e1)]
  | _ => []

/-- The lowest fault of a check over the 64 KiB granules of footprints. -/
def overGranules (fs : List (Nat × Nat)) (chk : Nat → Option SFault) : Option SFault :=
  fs.foldl (fun b f => (granules f.1 f.2).foldl (fun b a => lowerFault b (chk a)) b) none

/-- An address of the scratchpad windows, the holes between them aside. -/
def inSpads (a : Nat) : Bool := inWindows a && decide (windowOff a < 0x1800000)

/-- The home of a byte of the page range that is read by an operation of the issuing die (R200). -/
def State.localFault (s : State) (ch a : Nat) : Option SFault :=
  let va := BitVec.ofNat 64 a
  if !inPages a then some (flt 0x03 0 va)
  else match s.pageAdmit va .load false with
    | .error f => some f
    | .ok acc => if acc.home = dieOf s.cur.key.core then none else some (flt 0x0D (1 + ch * 256) va)

/-- A byte of space 1, in the order of R101: in the map, in the core's own scratchpad, under the window rules (R32, R33, R102,
R160, R200). -/
def State.spadFault (s : State) (kind : AccKind) (a : Nat) : Option SFault :=
  let va := BitVec.ofNat 64 a
  if unassigned a then some (flt 0x03 0 va)
  else if !inSpads a || decide (windowCore a ≠ s.cur.key.core) then some (flt 0x04 1 va)
  else match s.windowAdmit va 1 kind false with
    | .error f => some f
    | .ok _ => none

/-- A space 2 destination: of CPY within the cluster (R200). -/
def State.clusterFault (s : State) (a : Nat) : Option SFault :=
  let va := BitVec.ofNat 64 a
  if !inSpads a then some (flt 0x03 0 va)
  else if clusterOf (windowCore a) ≠ clusterOf s.cur.key.core then some (flt 0x04 1 va)
  else match s.windowAdmit va 1 .store false with
    | .error f => some f
    | .ok _ => none

/-- A destination byte of XCPY or WPUT, the circuit aside: its access or its fault (R200). -/
def State.farAdmit (s : State) (o : CopyOp) (a : Nat) : Chk Access :=
  let va := BitVec.ofNat 64 a
  let chk : Chk Access :=
    if o.y.space = 2 then (if inSpads a then s.windowAdmit va 1 .store false else .error (flt 0x03 0 va))
    else if inPages a then s.pageAdmit va .store false else .error (flt 0x03 0 va)
  match chk with
  | .error f => .error f
  | .ok acc => if o.major = .wput ∧ !acc.put then .error (flt 0x13 0 va) else .ok acc

/-- The die to which an XCPY or WPUT writes: the destination of its circuit, or its own die (R200). -/
def State.farDie (s : State) (o : CopyOp) (ch : Nat) : Option Nat :=
  if o.major = .wput ∧ ch = 0 then some (dieOf s.cur.key.core) else (findCircuit s.circuits ch).map fun c => (c.dsts.headD c.src).num

/-- The checks of a destination byte of XCPY or WPUT: R101–R103, and its home (R200). -/
def State.farFault (s : State) (o : CopyOp) (ch a : Nat) : Option SFault :=
  match s.farAdmit o a with
  | .error f => some f
  | .ok acc => if s.farDie o ch = some acc.home then none else some (flt 0x0D (1 + ch * 256) (BitVec.ofNat 64 a))

/-- An index array is read like the loads of its thread: in the page range or in a scratchpad window (R201). -/
def State.idxFault (s : State) (o : CopyOp) (ch a : Nat) : Option SFault :=
  let va := BitVec.ofNat 64 a
  if inPages a then (if o.major = .cpy then s.globalFault .load a else s.localFault ch a)
  else if inSpads a then
    (match s.windowAdmit va 1 .load false with | .error f => some f | .ok _ => none)
  else some (flt 0x03 0 va)

/-- The circuit that an XCPY or WPUT names is live, or is being re-routed under automatic retry (R200, R209). -/
def State.usable (s : State) (c : Circuit) : Bool := c.isLive || (c.isFaulted && (c.autoretry || s.launchFlag 4))

/-- Step 3 of R78 for the circuit that an XCPY or WPUT names (R200). DESIGN CHOICE: a multicast circuit is reported as one before its
source is looked at (log 131). -/
def State.namedCircuit (s : State) (major : CopyMajor) (ch : Nat) : Option SFault :=
  if (major ≠ .xcpy ∧ major ≠ .wput) ∨ (major = .wput ∧ ch = 0) then none
  else match findCircuit s.circuits ch with
    | none => some (flt 0x0D (ch * 256) 0)
    | some c =>
      if !s.usable c then some (flt 0x0D (ch * 256) 0)
      else if c.multicast then some (flt 0x0D (2 + ch * 256) 0)
      else if c.src.num ≠ dieOf s.cur.key.core then some (flt 0x0D (1 + ch * 256) 0) else none

/-- The live circuit from the thread's die to the Millstone of a link (R200). -/
def State.toMill (s : State) (link : Nat) : Option Circuit :=
  pickCircuit s.circuits fun c => c.carries (dieOf s.cur.key.core) (32 + link / 4) && c.isLive

/-- A job's torus uses a link: the link's dimension has an extent above 1 (R366). -/
def Job.usesLink (j : Job) (link : Nat) : Bool := decide (1 < j.extents[link / 4]?.getD 1)

/-- The checks of LCPY and of a remote CATOM on their way out (R200, R366). -/
def State.linkCheck (s : State) (link modl : Nat) : Option SFault :=
  match s.toMill link with
  | none => some (flt 0x0D (firstHandle s.launch? * 256) 0)
  | some _ =>
    match s.links.find? fun l => l.num = link with
    | some l => if l.peer.map Prod.fst = some modl ∧ s.job?.elim false (fun j => j.usesLink link) then none else some (flt 0x10 link 0)
    | none => some (flt 0x10 link 0)

/-- The checks on the bytes an operation touches from row r on (R197, R199, R200). -/
def State.copyFault (s : State) (o : CopyOp) (ch r : Nat) : Option SFault :=
  let g := s.cur.key.core
  let src := o.srcFoots g r
  let dst := o.dstFoots g r
  let chk1 : Option SFault :=
    if o.x.space = 1 then overGranules src (s.spadFault .load)
    else overGranules src fun a => if o.major = .cpy then s.globalFault .load a else s.localFault ch a
  let chk2 : Option SFault :=
    if !o.idxFoots.isEmpty && decide (o.tw.toNat % 4 ≠ 0) then some (flt 0x02 0 o.tw) else overGranules o.idxFoots (s.idxFault o ch)
  let kind : AccKind := if o.tr = .radd then .rmw else .store
  let chk3 : Option SFault :=
    match o.major with
    | .cpy =>
      if o.y.space = 1 then overGranules dst (s.spadFault kind)
      else if o.y.space = 0 then s.globalCheck kind dst
      else overGranules dst s.clusterFault
    | .lcpy => overGranules dst fun a => if inPages a then none else some (flt 0x03 0 (BitVec.ofNat 64 a))
    | _ => overGranules dst (s.farFault o ch)
  chk1.or (chk2.or chk3)

/-- The shape rules (R51, R201). DESIGN CHOICE: extents of hs and hd that do not agree are reported of hd (log 130). -/
def copyShape (tr : Transform) (a b : Tensor) : Option SFault :=
  let odd (x : Tensor) : Bool := decide (x.fmt = 4) && decide (x.e0 % 2 = 1)
  let same : Bool := match tr with
    | .fill => true
    | .tr2d => decide (b.e0 = a.e1) && decide (b.e1 = a.e0) && decide (b.e2 = a.e2)
    | .rle => decide (b.e1 = a.e1) && decide (b.e2 = a.e2)
    | .unrle => decide (b.e1 = a.e1) && decide (b.e2 = a.e2)
    | .gather => decide (b.e0 = a.e0) && decide (b.e2 = 1)
    | .scatter => decide (b.e0 = a.e0) && decide (b.e2 = 1)
    | _ => decide (b.e0 = a.e0) && decide (b.e1 = a.e1) && decide (b.e2 = a.e2)
  let indexed : Bool := decide (tr = .gather) || decide (tr = .scatter)
  if tr ≠ .fill ∧ odd a then some (flt 0x09 0 0)
  else if odd b then some (flt 0x09 1 0)
  else if indexed ∧ a.e2 ≠ 1 then some (flt 0x09 0 0)
  else if !same then some (flt 0x09 1 0) else none

/-! ### Issue -/

/-- The circuits that a CPY moves bytes over, chosen at issue (R342). -/
def State.engineCircuits (s : State) (kind : AccKind) (fs : List (Nat × Nat)) : List Nat :=
  let cs := s.circuits
  fs.foldl (fun (acc : List Nat) (f : Nat × Nat) => (granules f.1 f.2).foldl (fun (acc : List Nat) (a : Nat) =>
    if !inPages a then acc
    else match s.translate s.cur.key.core s.cur.bind.job a with
      | .error _ => acc
      | .ok m => (movesOf kind (dieOf s.cur.key.core) (homeDie m.pa)).foldl (fun (acc : List Nat) (mv : Nat × Nat) =>
        if mv.1 = mv.2 then acc
        else match pickCircuit cs fun c => c.carries mv.1 mv.2 && c.isLive with
          | some c => if acc.contains c.ch then acc else acc ++ [c.ch]
          | none => acc) acc) acc) []

/-- An operation with nothing chosen yet. -/
def CopyOp.fresh (major : CopyMajor) (tr : Transform) (x y : Tensor) : CopyOp :=
  { id := 0, major := major, tr := tr, x := x, y := y, ctl := 0, tw := 0, atom := .add, argB := 0, argC := 0, tag := 0,
    post := false, chs := [], chunks := 1, done := [], counted := [], rdSpans := [], wrSpans := [], acc := 0,
    poison := 0, parts := [], arrived := [], range := false, due := 0, retries := 0, phase := .running, failAddr := 0,
    fpc := 0, finsn := 0, recd := [], ops := IssueCopy.none }

/-- An operation joins those of the thread, and the copy stream goes on (R196). -/
def State.addOp (s : State) (o : CopyOp) : State :=
  let t := s.cur
  let o := { o with id := t.nextOp, fpc := pcWord t.copy.pc, finsn := s.insn, due := s.freeDue 4096 }
  ({ s with freeCtr := s.freeCtr + 1 }.upd fun t => { t with copies := t.copies ++ [o], nextOp := t.nextOp + 1 }).advance .copy

/-- The footprints, translations and circuits of an operation as they are now; those of an XCPY, WPUT or LCPY are the given
ones (R196, R299, R342). -/
def State.bindOp (s : State) (o : CopyOp) (chs : List Nat) : CopyOp :=
  let g := s.cur.key.core
  let src := o.srcFoots g 0
  let dst := if o.major = .lcpy then [] else o.dstFoots g 0
  { o with
    x := { o.x with pages := s.pagesOf (src ++ o.idxFoots) }, y := { o.y with pages := s.pagesOf dst }
    rdSpans := src ++ o.idxFoots, wrSpans := dst
    chs := if o.major = .cpy then
        ((if o.x.space = 0 then s.engineCircuits .load (src ++ o.idxFoots) else s.engineCircuits .load o.idxFoots)
          ++ (if o.y.space = 0 then s.engineCircuits .store dst else [])).eraseDups
      else chs }

/-- The term that an offset map adds to an address of the copy stream, where the control word selects it (R198). -/
def State.copyTerm (s : State) (on : Bool) (n : Nat) : Word := if on then offTerm (s.cur.getOm (BitVec.ofNat 4 n)) s.cur.copy else 0

/-- The operation an instruction makes: its tensors, words and footprints as they are at issue (R196, R198, R199). -/
def State.copyOp (s : State) (q : CopyReq) (x y : Tensor) (cw tw : Word) : CopyOp :=
  let far := decide (q.major = CopyMajor.xcpy) || decide (q.major = CopyMajor.wput)
  let o := { CopyOp.fresh q.major q.tr x y with
    ctl := cw, tw := tw, tag := if far then wbits cw 10 6 else q.tag.toNat
    argB := (s.cur.getH q.hd).w0, post := q.post
    ops := { a := if q.tr = Transform.fill then IssueCopy.none.a else s.cur.getH q.hs, b := s.cur.getH q.hd, ta := s.copyTerm (cw.getLsbD 8) (wbits cw 0 4), tb := s.copyTerm (cw.getLsbD 9) (wbits cw 4 4) } }
  s.bindOp { o with chunks := max 1 (chunkCount o.imageOf.imageLen) }
    (match q.major with
      | .lcpy => (s.toMill (wbits cw 32 4)).elim [] fun c => [c.ch]
      | .wput => if q.ch = 0 then [] else [q.ch.toNat]
      | _ => [q.ch.toNat])

/-- The source and destination of an instruction: handles and offset terms (R198, R199). -/
def State.copyTensors (s : State) (q : CopyReq) (cw : Word) : Tensor × Tensor :=
  let y := (s.cur.getH q.hd).tensor (s.copyTerm (cw.getLsbD 9) (wbits cw 4 4))
  (if q.tr = .fill then y else (s.cur.getH q.hs).tensor (s.copyTerm (cw.getLsbD 8) (wbits cw 0 4)), y)

/-- An instruction that moves a tensor: blocked while 32 operations are in flight; its checks; its operation (R196, R197).
DEDUCED: the circuit and link that an LCPY's control word names are checked once the word is legal, before any address (R78, log
104). -/
def copyIssue (q : CopyReq) (s : State) : Chk State := do
  if Config.copyLimit ≤ s.cur.copies.length then return s
  else
    failIf (s.namedCircuit q.major q.ch.toNat)
    let cw := s.param q.p 0
    let tw := if q.tr.hasWord then s.param q.p 1 else 0
    let (x, y) := s.copyTensors q cw
    require (q.valuesOk cw tw x y) (fIllegal 4)
    failIf (if q.major = .lcpy then s.linkCheck (wbits cw 32 4) (wbits cw 16 16) else none)
    let y ← if q.major = .lcpy then .ok y else s.toShadow (s.cur.getH q.hd) y
    let s := if q.major = .lcpy then s else s.markPair (s.cur.getH q.hd) y
    let o := s.copyOp q x y cw tw
    failIf (s.copyFault o q.ch.toNat 0)
    failIf (copyShape q.tr x y)
    return s.addOp o

def copyExec (q : CopyReq) (s : State) : Res := outcome .copy s (copyIssue q s)

/-- CPY (R201). -/
def execCpy (o : CcArgs) (s : State) : Res := copyExec (ccReq .cpy .none o) s
/-- CPY cvt (R201). -/
def execCpyCvt (o : CcArgs) (s : State) : Res := copyExec (ccReq .cpy .cvt o) s
/-- CPY tr2d (R201). -/
def execCpyTr2d (o : CcArgs) (s : State) : Res := copyExec (ccReq .cpy .tr2d o) s
/-- CPY swz (R201). -/
def execCpySwz (o : CcArgs) (s : State) : Res := copyExec (ccReq .cpy .swz o) s
/-- CPY rle (R202). -/
def execCpyRle (o : CcArgs) (s : State) : Res := copyExec (ccReq .cpy .rle o) s
/-- CPY unrle (R202). -/
def execCpyUnrle (o : CcArgs) (s : State) : Res := copyExec (ccReq .cpy .unrle o) s
/-- CPY q4 (R201). -/
def execCpyQ4 (o : CcArgs) (s : State) : Res := copyExec (ccReq .cpy .q4 o) s
/-- CPY deq (R201). -/
def execCpyDeq (o : CcArgs) (s : State) : Res := copyExec (ccReq .cpy .deq o) s
/-- CPY gather (R201). -/
def execCpyGather (o : CcArgs) (s : State) : Res := copyExec (ccReq .cpy .gather o) s
/-- CPY scatter (R201). -/
def execCpyScatter (o : CcArgs) (s : State) : Res := copyExec (ccReq .cpy .scatter o) s
/-- CPY fill (R201). -/
def execCpyFill (o : CdArgs) (s : State) : Res :=
  copyExec { major := .cpy, tr := .fill, hs := 0, hd := o.hd, p := o.p, ch := 0, tag := o.tag, post := o.r } s
/-- CPY radd (R203). -/
def execCpyRadd (o : CcArgs) (s : State) : Res := copyExec (ccReq .cpy .radd o) s
/-- CPY crc (R204). -/
def execCpyCrc (o : CcCrcArgs) (s : State) : Res := copyExec (ccCrcReq .cpy o) s
/-- XCPY (R200). -/
def execXcpy (o : CxArgs) (s : State) : Res := copyExec (cxReq .xcpy .none o) s
/-- XCPY cvt (R200). -/
def execXcpyCvt (o : CxArgs) (s : State) : Res := copyExec (cxReq .xcpy .cvt o) s
/-- XCPY rle (R200). -/
def execXcpyRle (o : CxArgs) (s : State) : Res := copyExec (cxReq .xcpy .rle o) s
/-- XCPY unrle (R200). -/
def execXcpyUnrle (o : CxArgs) (s : State) : Res := copyExec (cxReq .xcpy .unrle o) s
/-- XCPY crc (R200). -/
def execXcpyCrc (o : CxCrcArgs) (s : State) : Res := copyExec (cxCrcReq .xcpy o) s
/-- WPUT (R200). -/
def execWput (o : CxArgs) (s : State) : Res := copyExec (cxReq .wput .none o) s
/-- WPUT cvt (R200). -/
def execWputCvt (o : CxArgs) (s : State) : Res := copyExec (cxReq .wput .cvt o) s
/-- WPUT rle (R200). -/
def execWputRle (o : CxArgs) (s : State) : Res := copyExec (cxReq .wput .rle o) s
/-- WPUT unrle (R200). -/
def execWputUnrle (o : CxArgs) (s : State) : Res := copyExec (cxReq .wput .unrle o) s
/-- WPUT crc (R200). -/
def execWputCrc (o : CxCrcArgs) (s : State) : Res := copyExec (cxCrcReq .wput o) s
/-- LCPY (R200). -/
def execLcpy (o : CcArgs) (s : State) : Res := copyExec (ccReq .lcpy .none o) s
/-- LCPY cvt (R200). -/
def execLcpyCvt (o : CcArgs) (s : State) : Res := copyExec (ccReq .lcpy .cvt o) s
/-- LCPY rle (R200). -/
def execLcpyRle (o : CcArgs) (s : State) : Res := copyExec (ccReq .lcpy .rle o) s
/-- LCPY unrle (R200). -/
def execLcpyUnrle (o : CcArgs) (s : State) : Res := copyExec (ccReq .lcpy .unrle o) s
/-- LCPY crc (R200). -/
def execLcpyCrc (o : CcCrcArgs) (s : State) : Res := copyExec (ccCrcReq .lcpy o) s

/-! ### CATOM (R205) -/

/-- The target word is legal (R205). -/
def catomOk (tw : Word) (space : Nat) : Bool :=
  decide (2 ≤ wbits tw 0 2) && decide (wbits tw 3 5 = 0) && decide (wbits tw 12 4 = 0) && decide (wbits tw 32 32 = 0)
    && (if tw.getLsbD 2 then decide (space = 0) || decide (space = 2)
        else decide (wbits tw 8 4 = 0) && decide (wbits tw 16 16 = 0) && decide (space < 3))

/-- The check of a local CATOM's target: R101–R103 by its space, the circuit aside. -/
def State.catomAdmit (s : State) (y : Tensor) (va : Word) (size : Nat) : Chk Access :=
  if va.toNat % size ≠ 0 then .error (flt 0x02 0 va)
  else match y.space with
    | 0 => if inPages va.toNat then s.pageAdmit va .rmw false else .error (flt 0x03 0 va)
    | 1 => (failIf (s.spadFault .rmw va.toNat)).bind fun _ => s.windowAdmit va size .rmw false
    | _ => if inSpads va.toNat then s.windowAdmit va size .rmw false else .error (flt 0x03 0 va)

/-- The circuit that carries a local CATOM: none within the die, else the lowest live one that joins the dies (R101,
R342). -/
def State.catomCircuit (s : State) (home : Nat) (va : Word) : Chk (List Nat) :=
  if home = dieOf s.cur.key.core then .ok []
  else match pickCircuit s.circuits fun c => c.joins (dieOf s.cur.key.core) home && c.isLive with
    | some c => .ok [c.ch]
    | none => .error (flt 0x0D (firstHandle s.launch? * 256) va)

/-- CATOM: blocked while 32 operations are in flight; one read-modify-write at the home (R196, R205). DESIGN CHOICE: the alignment of a
remote target is tested before the circuit and the link (log 122). -/
def catomIssue (op : AtomOp) (a : CdArgs) (s : State) : Chk State := do
  if Config.copyLimit ≤ s.cur.copies.length then return s
  else
    let tw := s.param a.p 2
    let y := (s.cur.getH a.hd).tensor 0
    require (catomOk tw y.space) (fIllegal 4)
    let size := 4 * 2 ^ (wbits tw 0 2 - 2)
    let va := y.va s.cur.key.core y.base
    let o := { CopyOp.fresh .catom .none y y with
      tw := tw, atom := op, argB := s.param a.p 0, argC := s.param a.p 1, tag := a.tag.toNat, post := a.r
      ops := { IssueCopy.none with b := s.cur.getH a.hd } }
    if tw.getLsbD 2 then
      require (decide (va.toNat % size = 0)) (flt 0x02 0 va)
      failIf (s.linkCheck (wbits tw 8 4) (wbits tw 16 16))
      return s.addOp { o with chs := (s.toMill (wbits tw 8 4)).elim [] fun c => [c.ch] }
    else
      let acc ← s.catomAdmit y va size
      let chs ← s.catomCircuit acc.home va
      return s.addOp { o with chs := chs, wrSpans := [(va.toNat, size)], y := { y with pages := s.pagesOf [(va.toNat, size)] } }

def catomExec (op : AtomOp) (a : CdArgs) (s : State) : Res := outcome .copy s (catomIssue op a s)

/-- CATOM ADD (R205). -/
def execCatomAdd (o : CdArgs) (s : State) : Res := catomExec .add o s
/-- CATOM AND (R205). -/
def execCatomAnd (o : CdArgs) (s : State) : Res := catomExec .and o s
/-- CATOM OR (R205). -/
def execCatomOr (o : CdArgs) (s : State) : Res := catomExec .or o s
/-- CATOM XOR (R205). -/
def execCatomXor (o : CdArgs) (s : State) : Res := catomExec .xor o s
/-- CATOM MIN (R205). -/
def execCatomMin (o : CdArgs) (s : State) : Res := catomExec .min o s
/-- CATOM MAX (R205). -/
def execCatomMax (o : CdArgs) (s : State) : Res := catomExec .max o s
/-- CATOM MINU (R205). -/
def execCatomMinu (o : CdArgs) (s : State) : Res := catomExec .minu o s
/-- CATOM MAXU (R205). -/
def execCatomMaxu (o : CdArgs) (s : State) : Res := catomExec .maxu o s
/-- CATOM SWAP (R205). -/
def execCatomSwap (o : CdArgs) (s : State) : Res := catomExec .swap o s
/-- CATOM CAS (R205). -/
def execCatomCas (o : CdArgs) (s : State) : Res := catomExec .cas o s

/-! ### CCTL (R215) -/

/-- CPOST (R215). -/
def execCpost (k : BitVec 4) (imm : BitVec 16) (s : State) : Res :=
  outcome .copy s ((postK k imm.toNat s).map fun s => s.advance .copy)
/-- CWAIT (R215). -/
def execCwait (k : BitVec 4) (imm : BitVec 16) (s : State) : Res := waitK .copy k imm.toNat s

/-- Blocked until every earlier operation of the stream has completed (R215). -/
def onFence (s : State) (r : Res) : Res := if s.cur.copies.isEmpty then r else .next s

/-- CFENCE (R215). -/
def execCfence (s : State) : Res := onFence s (.next (s.advance .copy))
/-- CEND (R215). -/
def execCend (s : State) : Res := .next (s.updStr .copy StreamState.finish)

/-- A SIGNAL record (R213). -/
def signalRecord (tag : BitVec 16) : Record :=
  { kind := 8, status := 0, tag := tag.setWidth 32, count := 0, poison := 0, code := 0, retries := 0 }

/-- CREC (R213, R215). -/
def execCrec (imm : BitVec 16) (s : State) : Res :=
  onFence s (.next ((s.complete (.plain (signalRecord imm) none)).advance .copy))

/-- CPUB (R141, R215). -/
def execCpub (k : BitVec 4) (s : State) : Res :=
  onFence s (outcome .copy s ((s.publish (s.cur.getH k) false).map fun r => match r with
    | none => s
    | some s' => s'.advance .copy))

/-! ### The events of an operation -/

/-- The record of an operation that has ended (R213). DESIGN CHOICE: the CRC of a crc that stops short is a free value: R204
gives that of the whole image only (log 105). -/
def CopyOp.record (o : CopyOp) (status : Nat) (cause : BitVec 8) (detail : BitVec 16) (ctr : Nat) : Record :=
  { kind := if o.major = .coll then 3 else 1, status := BitVec.ofNat 16 status, tag := BitVec.ofNat 32 o.tag
    count := BitVec.ofNat 64 o.doneBytes
    poison := match o.tr with | .crc => if o.progress = o.chunks then ~~~ o.crcBefore o.chunks else Config.freeWord ctr | .q4 => o.poison | .deq => o.poison | _ => 0
    code := if status = 0 ∨ status = 4 then 0 else BitVec.ofNat 32 (cause.toNat + detail.toNat * 256)
    retries := BitVec.ofNat 16 (min o.retries 0xFFFF) }

/-- An operation of the thread. -/
def Slot.findOp (t : Slot) (n : Nat) : Option CopyOp := t.copies.find? fun o => o.id = n

/-- An operation's chunks go in frames on a circuit, seen from its own die (R343). DEDUCED: data goes from a circuit's source to its
destination (R342), so a CATOM whose circuit leads the other way has its request on the control wavelength (log 132). -/
def CopyOp.framedOn (o : CopyOp) (own : Nat) (c : Circuit) : Bool :=
  match o.major with
  | .coll => false
  | .catom => decide (c.src.num = own)
  | _ => true

/-- The operation crosses circuits in chunk frames (R343). -/
def State.framed (s : State) (o : CopyOp) : Bool :=
  o.chs.any fun ch => (findCircuit s.circuits ch).elim (decide (o.major ≠ .coll)) (o.framedOn (dieOf s.cur.key.core))

/-- The circuits an operation moves over are live (R209). -/
def State.opLive (s : State) (o : CopyOp) : Bool := o.chs.all fun ch => (findCircuit s.circuits ch).elim false Circuit.isLive

/-- An operation touches a scratchpad whose banks an MMA streams from: it waits (R184, R214). -/
def State.opHeld (s : State) (o : CopyOp) : Bool := (o.rdSpans ++ o.wrSpans).any fun f => s.banksHeld f.1

/-- Chunk n may be carried out now: the operation runs, and chunks that go in order do (R207). -/
def CopyOp.mayDo (o : CopyOp) (n : Nat) : Bool :=
  decide (o.phase = .running) && decide (n < o.chunks) && !o.done.contains n && (!o.tr.ordered || decide (n = o.progress))

/-- The first row of the image that a chunk at or above the progress point holds. -/
def CopyOp.firstRow (o : CopyOp) : Nat := match o.tr with
  | .tr2d => 0
  | _ => if o.imageOf.rowLen = 0 then 0 else 4096 * o.progress / o.imageOf.rowLen

/-- What is left of an operation that stops: the chunks below its progress point are performed (R208). -/
def CopyOp.toProgress (o : CopyOp) : CopyOp := { o with done := o.done.filter fun n => decide (n < o.progress), arrived := [] }

/-- What a restart does: the chunks from the progress point on are carried out again (R209). -/
def CopyOp.restart (o : CopyOp) : CopyOp := { o.toProgress with phase := .running, retries := o.retries + 1 }

/-- A resumed CPY: its remaining chunks are checked again, and it takes its translations and circuits afresh (R211, R299). -/
def State.recheckOp (s : State) (o : CopyOp) : CopyOp :=
  let check (o : CopyOp) : CopyOp := match s.copyFault o 0 o.firstRow with
    | some f => o.stop 2 f.cause f.detail (if f.addr = 0 then o.chunkVa s.cur.key.core o.progress else f.addr)
    | none => s.bindOp o []
  if o.major ≠ .cpy then o
  else match o.phase with
    | .running => check o
    | .awaitCircuit => check o.restart
    | _ => o

/-- The request of a CATOM as its chunk carries it, its two operands. DESIGN CHOICE: R343 gives no payload for it (log 132). -/
def State.catomRequest (s : State) (o : CopyOp) : ChunkOut :=
  { cells := (bytesOf 8 o.argB.toNat ++ bytesOf 8 o.argC.toNat).zipIdx.map fun b => ((o.y.va s.cur.key.core o.y.base).toNat + b.2 % 4, b.1)
    poison := 0, range := false, crc := 0, out := 0 }

/-- A CATOM with the operands that its request has brought. -/
def CopyOp.operands (o : CopyOp) (cells : List (Nat × Byte)) : CopyOp :=
  let word (bs : List (Nat × Byte)) : Word := BitVec.ofNat 64 (ofBytes ((bs.take 8).map Prod.snd))
  { o with argB := word cells, argC := word (cells.drop 8) }

/-- A CATOM at its home: the read, the store and the count in one update; the granule's tag where it writes (R109, R199,
R205). -/
def State.performCatom (s : State) (o : CopyOp) : State :=
  let va := o.y.va s.cur.key.core o.y.base
  let size := 4 * 2 ^ (wbits o.tw 0 2 - 2)
  let key := s.tensorKey o.y va.toNat
  match eccIn s.bad key size with
  | some (_, l) => s.putOp (o.stop 2 0x11 (BitVec.ofNat 16 l) va)
  | none =>
    let acc : Access := { key := key, kind := .unordered, put := s.putAt va.toNat, home := 0, held := none }
    let cn := o.argC.toNat % 2 ^ (8 * size)
    let (old, s) := (s.correct key size).atomAt o.atom va acc size (o.argB.toNat % 2 ^ (8 * size)) cn
    let s := if atomStores o.atom old cn then s.stampTags 0 [key] else s
    s.putOp { o with acc := BitVec.ofNat 64 old, done := [0], phase := .ended 0 0 0 }

/-- Chunk n of an operation of the acting thread that needs no frames is performed (R207–R212). -/
def State.performChunk (s : State) (o : CopyOp) (n : Nat) : State :=
  if s.framed o || o.remote || decide (o.major = .coll) || !s.opLive o || !o.mayDo n || s.opHeld o then s
  else if o.major = .catom then s.performCatom o
  else
    let (s, o) := s.chunkData o n
    s.putOp { (if o.phase = .running then o.markDone n else o) with due := s.freeDue 4096 }

/-- A chunk whose write must not be made twice is performed as its ACK reaches the sender: one of rle, unrle, scatter and radd, of which
none at or above the progress point has been performed, and the request of a CATOM (R205, R208, R344). DEDUCED (log 106). -/
def CopyOp.atAck (o : CopyOp) : Bool := o.tr.strict || decide (o.major = .catom)

/-- The chunk that such an operation of the acting thread has had acknowledged is performed at its home (R203, R205, R208). -/
def State.performAcked (s : State) (o : CopyOp) (n : Nat) (r : ChunkOut) : State :=
  if o.major = .catom then s.performCatom (o.operands r.cells)
  else
    let sums (v : State) : Chk (List (Nat × Byte)) := if o.tr = .radd then v.addCells o r.cells else .ok r.cells
    match sums s with
    | .error f => s.putOp (o.stop 2 f.cause f.detail f.addr)
    | .ok cells =>
      let (s, o) := (s.correctRead fun v => metEcc (sums v)).putChunk o n { r with cells := cells }
      s.putOp (o.markDone n)

/-- CHUNK_PERFORMED: a chunk of an operation is performed at its home (R207, R210). -/
def execChunkPerformed (s : State) : Res :=
  .next (s.onSlot s.ev.slot fun s' =>
    match s'.cur.findOp s.ev.num with
    | some o => s'.performChunk o s.ev.addr.toNat
    | none => s')

/-- An operation of the acting thread that has ended posts its record, or completes without one (R213). -/
def State.completeOp (s : State) (o : CopyOp) : State :=
  match o.phase with
  | .ended status cause detail =>
    let r := o.record status cause detail s.freeCtr
    let id := s.cur.opId o.id
    if status = 0 ∧ !o.post then s.finishOp (some id)
    else
      let s := { s with freeCtr := s.freeCtr + 1 }.putOp { o with phase := .posting }
      if status = 0 then s.complete (o.report r id)
      else s.deliver 1 (o.report r id) { cause := cause, detail := detail, stream := 3, fpc := o.fpc, finsn := o.finsn, addr := o.failAddr }
  | _ => s

/-- COPY_COMPLETE: an operation that has ended posts its record and completes (R213). -/
def execCopyComplete (s : State) : Res :=
  .next (s.onSlot s.ev.slot fun s' =>
    match s'.cur.findOp s.ev.num with
    | some o => s'.completeOp o
    | none => s')

/-- The link an operation uses. -/
def CopyOp.link (o : CopyOp) : Nat := if o.major = .catom then wbits o.tw 8 4 else wbits o.ctl 32 4

/-- The link of an operation carries flits. -/
def State.linkUp (s : State) (o : CopyOp) : Bool :=
  match s.links.find? fun l => l.num = o.link with
  | some l => decide (l.st = .up) || decide (l.st = .restripe)
  | none => false

/-- COPY_RESTART: an operation that waits under automatic retry restarts once its circuit is live or its link up
(R209). -/
def execCopyRestart (s : State) : Res :=
  .next (s.onSlot s.ev.slot fun s' =>
    match s'.cur.findOp s.ev.num with
    | some o =>
      if (decide (o.phase = .awaitCircuit) && s'.opLive o) || (decide (o.phase = .awaitLink) && s'.linkUp o) then
        s'.putOp o.restart
      else s'
    | none => s')

end Sys2Proof.Machine
end

