-- ==== Sys2Proof/Machine/Pages.lean ====
section
/-! DEFINITION. Corelo's page tables: building a mapping in every copy (R297, R298, R301), taking it away, the TLB (R299),
and the pages that Corelo keeps for itself (R13, R377). -/

namespace Sys2Proof.Machine

/-! ### The tables (R294, R297) -/

/-- Bytes written on every die of a job at a stack offset, as stores (R292). -/
def State.putAll (s : State) (j : Job) (off : Nat) (bs : List Byte) : State :=
  j.dies.foldl (fun (s : State) (d : Nat) => s.store (cellsAt (d * 2 ^ 43 + off) bs)) s

/-- Whole lines are zeroed: no error is left there (R248, R287, R292). -/
def State.zeroRange (s : State) (lo n : Nat) : State := { s with mem := memZero s.mem lo (lo + n) }.freshWords lo (lo + n)

/-- Zeros on every die of a job from a stack offset on. -/
def State.zeroAll (s : State) (j : Job) (off n : Nat) : State :=
  j.dies.foldl (fun (s : State) (d : Nat) => s.zeroRange (d * 2 ^ 43 + off) n) s

/-- Blocks of 4 KiB in a job's part of the reserved range. -/
def tableLimit : Nat := 256

/-- The stack offset of a partition's tables. -/
def tableRoot (part : Nat) : Nat := reservedBase + part * 2 ^ 20

/-- An entry put at a level for an address, tables made where they are missing: the job with its tables counted, or none
where its part of the reserved range is full. -/
def State.putPte (s : State) (j : Job) (va leaf : Nat) (pte : Word) : Nat → Nat → Nat → Option (State × Job)
  | 0, _, _ => none
  | fuel + 1, level, table =>
    let at_ := table + 8 * (va / 2 ^ (52 - 9 * level) % 512)
    if level = leaf then some (s.putAll j at_ (bytesOf 8 pte.toNat), j)
    else
      let p := pteOf (BitVec.ofNat 64 (memNat s.mem (j.dies.headD 0 * 2 ^ 43 + at_) 8))
      if p.v && !p.lf then State.putPte s j va leaf pte fuel (level + 1) (wbits p.raw 12 24 * 4096)
      else if tableLimit ≤ j.tables then none
      else
        let t := j.root + 4096 * j.tables
        State.putPte (s.putAll j at_ (bytesOf 8 (1 + t / 4096 * 4096))) { j with tables := j.tables + 1 } va leaf pte fuel (level + 1) t

/-- A job changed in the list of jobs. -/
def State.putJob (s : State) (j : Job) : State := { s with jobs := s.jobs.map fun x => if x.id = j.id then j else x }

/-- TLB entries of a page are invalidated on every core of the partition (R301). -/
def State.dropTlb (s : State) (j : Job) (va log2 : Nat) : State :=
  { s with cores := s.cores.map fun c => { c with tlb := c.tlb.filter fun e =>
      !(decide (e.job = j.id) && decide (e.base * 2 ^ e.log2 < va + 2 ^ log2) && decide (va < e.base * 2 ^ e.log2 + 2 ^ e.log2)) } }

/-- Steps 1 and 2 of a change: the entry in every copy, and the TLBs (R301). -/
def State.setPage (s : State) (j : Job) (va log2 : Nat) (pte : Word) : Option State :=
  match s.putPte j va (if log2 = 25 then 3 else 4) pte 4 1 j.root with
  | none => none
  | some (s', j') =>
    let rest := j'.maps.filter fun m => !(decide (m.1 = va) && decide (m.2.1 = log2))
    some ((s'.putJob { j' with maps := if pte.getLsbD 0 then rest ++ [(va, log2, pte)] else rest }).dropTlb j va log2)

/-! ### Pages that Corelo keeps (R13, R377) -/

/-- The address of Corelo's page i in every job: copies of launch records, and last the capability page. -/
def keptVa (i : Nat) : Nat := 0x000EFFFF00000000 + 65536 * i

/-- The stack offset of its frame. -/
def keptFrame (i : Nat) : Nat := reservedBase - 2 ^ 32 + 65536 * i

/-- An address of Corelo's pages, which no MAP may name. -/
def inKept (va : Nat) : Bool := decide (keptVa 0 ≤ va) && decide (va < keptVa 65536)

/-- A kept page made with its contents on every die: readable only (R13, R377). -/
def State.keepPage (s : State) (j : Job) (i : Nat) (loc : Bool) (bs : List Byte) : Option State :=
  let pa := j.dies.headD 0 * 2 ^ 43 + keptFrame i
  let s := s.zeroAll j (keptFrame i) 65536
  let s := if loc then s.putAll j (keptFrame i) bs else s.store (cellsAt pa bs)
  s.setPage j (keptVa i) 16 (BitVec.ofNat 64 (1 + 2 + 4 + 32 + (if loc then 256 else 0) + pa))

/-- A kept page taken away, its frame zeroed (R13, R248). -/
def State.dropPage (s : State) (job va : Nat) : State :=
  match findJob s.jobs job with
  | none => s
  | some j =>
    let s' := (s.setPage j va 16 0).getD s
    (s'.zeroAll j (keptFrame ((va - keptVa 0) / 65536)) 65536).l1Keep (j.dies.flatMap fun d => (List.range 16).map fun c => BitVec.ofNat 9 (16 * d + c))
      fun l => !(decide (l.job = job) && decide (va ≤ l.line * 128) && decide (l.line * 128 < va + 65536))

/-! ### PAGE_WALK (R299, R300) -/

/-- PAGE_WALK: a walk for a core ends; a page that it finds joins the TLB, one that faults does not (R299, R300). -/
def execPageWalk (s : State) : Res :=
  .next (
    let g : CoreId := BitVec.ofNat 9 s.ev.num
    let job := s.ev.word.toNat
    let va := s.ev.addr.toNat
    match findJob s.jobs job with
    | none => s
    | some j =>
      if !inPages va || (tlbFind (s.core g).tlb job va).isSome then s
      else match walkFrom s.mem s.bad (dieOf g) va 4 1 j.root with
        | .error _ => s
        | .ok (p, log2) => s.updCore g fun c => { c with
            tlb := ({ job := job, base := va / 2 ^ log2, log2 := log2, pte := p.raw, die := dieOf g } :: c.tlb).take Config.tlbSize })

/-! ### PATROL (R287) -/

/-- PATROL: the patrol engine has read a core's scratchpad: its single-bit errors are corrected and counted (R287). A core
number of no core is an access to memory that does not exist. -/
def execPatrol (s : State) : Res :=
  if 512 ≤ s.ev.num then .fault .noSuchMemory
  else
    let mine (a : Nat) : Bool := inWindows a && decide ((windowCore a).toNat = s.ev.num)
    .next { s with
      errors := { s.errors with soft := s.errors.soft + (s.soft.filter mine).length }
      soft := s.soft.filter fun a => !mine a }

end Sys2Proof.Machine
end

