-- ==== Sys2Proof/Machine/Image.lean ====
section
/-! DEFINITION. Context images: their bytes in HBM and the digest over them (R245), dirty units, chains of deltas, and what a
restore takes from each (R246). -/

namespace Sys2Proof.Machine

/-! ### Units (R245, R246) -/

/-- The 64 KiB granules of a half. -/
def Slot.halfGrans (t : Slot) : Nat := t.bind.spsize / 65536

/-- The scratchpad offset of a granule of the halves, group A first (R245). -/
def Slot.granOff (t : Slot) (i : Nat) : Nat :=
  if i < t.halfGrans then t.bind.spbaseA + 65536 * i else t.bind.spbaseB + 65536 * (i - t.halfGrans)

/-- An entry of a region in a slot's halves. -/
def Slot.inOwnHalves (t : Slot) (e : Entry) : Bool :=
  decide (e.job = t.bind.job) && inWindows e.base && decide (windowCore e.base = t.key.core) && t.inHalves (windowOff e.base)

/-- A buffer pair of the halves stands exchanged, so that a granule's bytes are those of another place (R141). -/
def State.flipped (s : State) : Bool := s.tokens.any fun e => s.cur.inOwnHalves e && e.pair

/-- The granules of the halves that an image writes: all in a base; the dirty ones in a delta (R246). -/
def State.dirtyGrans (s : State) (base : Bool) : List Nat :=
  let t := s.cur
  (List.range (2 * t.halfGrans)).filter fun i => base || s.flipped || t.dirtyG.contains (t.granOff i / 65536)

/-- A granule as the thread's views show it (R141, R245). -/
def State.granule (s : State) (i : Nat) : Granule :=
  let t := s.cur
  let o := t.granOff i
  let lo := windowAddr t.key.core o
  { num := i
    cells :=
      if s.flipped then
        (List.range 65536).filterMap fun n =>
          let b := s.byteAt (s.spadKey (lo + n))
          if b = 0 then none else some (n, b)
      else (s.mem.filter fun c => decide (lo ≤ c.1) && decide (c.1 < lo + 65536)).map fun c => (c.1 - lo, c.2)
    tags := (s.ownCore.tags.filter fun g => decide (o ≤ 2048 * g.1) && decide (2048 * g.1 < o + 65536)).map fun g => (g.1 - o / 2048, g.2) }

/-- The elements of a tile that lie in marked blocks of matrix register m, or in the others. -/
def tileBlocks (x : Tile) (m : Nat) (marks : List Nat) (keep : Bool) : Tile :=
  x.filter fun e => decide (marks.contains (8 * m + e.1 / 2048) = keep)

/-- Two tiles that share no element joined, in rising order. -/
def tileJoin (x y : Tile) : Tile := tileSets x y

/-- A slot with the units of run and matrix registers that its dirty maps do not mark left out (R246). -/
def Slot.marked (t : Slot) : Slot :=
  { t with
    v := Vector.ofFn fun i : Fin 32 => if t.dirtyV.contains i.val then t.v[i] else RunReg.reset
    m := Vector.ofFn fun i : Fin 8 => { t.m[i] with tile := tileBlocks t.m[i].tile i.val t.dirtyM true } }

/-- What a restore takes when an older image's units lie under a newer image: each unit from the newer one where its map marks
it, the fixed part from the newer one (R246). -/
def Image.over (new old : Image) : Image :=
  let t := new.ctx
  let o := old.ctx
  { new with
    ctx := { t with
      v := Vector.ofFn fun i : Fin 32 => if t.dirtyV.contains i.val then t.v[i] else o.v[i]
      m := Vector.ofFn fun i : Fin 8 =>
        { t.m[i] with tile := tileJoin (tileBlocks o.m[i].tile i.val t.dirtyM false) (tileBlocks t.m[i].tile i.val t.dirtyM true) } }
    grans := new.grans ++ old.grans.filter fun g => !(new.grans.any fun h => decide (h.num = g.num)) }

/-- The older image with a number. -/
def State.older (s : State) (n : Nat) : Option Image := s.archive.find? fun i => decide (i.num = n)

/-- The image with every unit of its chain, the newest first (R246): at most 15 deltas over a base. -/
def State.whole (s : State) : Nat → Image → Image
  | 0, i => i
  | fuel + 1, i => match i.prev.bind s.older with
    | some o => i.over (s.whole fuel o)
    | none => i

/-- The numbers of the images of a chain that starts at an older image. -/
def State.chainFrom (s : State) : Nat → Option Nat → List Nat
  | 0, _ => []
  | fuel + 1, n => match n.bind s.older with
    | some o => o.num :: s.chainFrom fuel o.prev
    | none => []

/-! ### Bytes (R245)

DESIGN CHOICE: R245 names the fields of the stream states, the progress entries and the granule tags, and not their places; they
stand in the order it names them, the tags of a granule in 16 bytes behind the last granule (log 108). -/

/-- Bytes brought to a length with zeros. -/
def pad (n : Nat) (bs : List Byte) : List Byte := (bs ++ List.replicate n 0).take n

/-- Numbers of n bytes each. -/
def bytesEach (n : Nat) (xs : List Nat) : List Byte := xs.flatMap (bytesOf n)

/-- A set of numbers below 8 n as n bytes of bits. -/
def bitmap (n : Nat) (xs : List Nat) : List Byte :=
  (List.range n).map fun b => BitVec.ofNat 8 ((List.range 8).foldl (fun v i => if xs.contains (8 * b + i) then v + 2 ^ i else v) 0)

def LoopLevel.bytes (l : LoopLevel) : List Byte :=
  bytesOf 8 ((if l.active then 1 else 0) + (if l.frozen then 2 else 0) + (pcWord l.first).toNat + ((pcWord l.last).toNat - (pcWord l.first).toNat) / 4 % 4096 * 2 ^ 52)
    ++ bytesOf 4 l.count

/-- A stream state (R245). -/
def StreamState.bytes (x : StreamState) (divert : Word) : List Byte :=
  let bit (b : Bool) (n : Nat) : Nat := if b then 2 ^ n else 0
  pad 128 (bytesEach 8 [(pcWord x.pc).toNat, divert.toNat, bit x.ended 0 + bit x.stopped 1 + bit x.blocked 2]
    ++ bytesEach 4 ((List.range 6).map fun i => (x.lc i).toNat) ++ x.loops.toList.flatMap LoopLevel.bytes)

/-- The pending fault of a stream as a FAULT record (R240, R245). -/
def Slot.faultBytes (t : Slot) (e : Stream) : List Byte :=
  match (t.str e).pending with
  | some p => (faultRecord t.key.agent p.fpc p.flt.addr p.flt.cause p.flt.detail e.num).bytes
  | none => List.replicate 32 0

/-- Handles and offset terms as they were at issue (R187, R211). -/
def IssueCopy.bytes (x : IssueCopy) : List Byte :=
  bytesEach 8 (([x.a, x.b].flatMap fun h => [h.w0, h.w1, h.w2, h.w3]) ++ [x.ta, x.tb] |>.map BitVec.toNat)

/-- The progress of an MMA: the issue-time copies, the entry, its register, z, f and the steps left, the steps done, its address
(R187). -/
def MLanding.bytes (l : MLanding) : List Byte :=
  l.ops.bytes ++ bytesEach 4 [l.entry.toNat, l.mreg.elim 8 BitVec.toNat + (if l.z then 16 else 0) + (if l.post then 32 else 0) + l.frames.length * 256]
    ++ bytesEach 8 [l.doneSteps, l.fpc.toNat]

/-- The progress of a copy operation: the issue-time copies, its words and parameters, its number and instruction, its progress point and
retries, its address and poison bits (R208, R211). -/
def CopyOp.bytes (o : CopyOp) : List Byte :=
  pad 128 (o.ops.bytes ++ bytesEach 8 [o.ctl.toNat, o.tw.toNat, o.id % 2 ^ 32 + o.finsn.toNat * 2 ^ 32, o.progress + o.retries % 2 ^ 32 * 2 ^ 32,
    o.fpc.toNat, o.poison.toNat])

/-- A run register: its header and its runs, value in [31:0] and count − 1 in [47:32] (R21, R245). -/
def RunReg.bytes (r : RunReg) (n : Nat) : List Byte :=
  match r with
  | .zero => bytesEach 4 [0, 1, n, 0] ++ bytesOf 8 ((n - 1) * 2 ^ 32)
  | .runs t rs =>
    bytesEach 4 [match t with | .f32 => 1 | .bf16 => 2 | .i32 => 3, rs.length, runsLen rs, 0]
      ++ bytesEach 8 (rs.map fun x => x.val.toNat + (x.count - 1) * 2 ^ 32)

/-- The bytes of a block of 16 rows of a matrix register, row-major. -/
def blockBytes (x : Tile) (b : Nat) : List Byte := (List.range 2048).flatMap fun i => bytesOf 10 (tileGet x (2048 * b + i)).toNat

/-- The fixed part from offset 0x80 up to 0x1FFF (R245). -/
def Slot.fixedBytes (t : Slot) (grans : List Nat) : List Byte :=
  pad 64 (bitmap 8 t.dirtyV ++ bitmap 8 t.dirtyM ++ bitmap 48 grans) ++ pad 64 []
    ++ bytesEach 8 (t.s.toList.map BitVec.toNat)
    ++ (t.h.toList.flatMap fun h => bytesEach 8 [h.w0.toNat, h.w1.toNat, h.w2.toNat, h.w3.toNat])
    ++ bytesEach 8 (t.e.toList.map BitVec.toNat) ++ bytesEach 2 (t.k.toList.map BitVec.toNat) ++ bytesEach 4 (t.ft.toList.map BitVec.toNat)
    ++ pad 384 (t.om.toList.flatMap fun o => bytesEach 4 (o.toList.map BitVec.toNat))
    ++ (allStreams.flatMap fun e => (t.str e).bytes (if e = .scalar then t.divert else 0))
    ++ pad 128 (bytesEach 8 [t.vcsr.word.toNat, t.ftoff.toNat, t.fscratch0.toNat, t.fscratch1.toNat, t.tvec.toNat, t.fcause.toNat,
        t.fstream.toNat, t.fpc.toNat, t.finsn.toNat, t.faddr.toNat, t.tstatus.toNat, t.rows + t.cols * 2 ^ 32])
    ++ (allStreams.flatMap t.faultBytes)
    ++ (t.m.toList.flatMap fun m => bytesOf 2 (if m.full then 1 else 0) ++ bytesOf 8 m.pmask.toNat ++ bytesOf 4 m.nsteps.toNat ++ bytesOf 10 m.ts.toNat ++ pad 8 [])
    ++ pad 128 (t.mfly.flatMap MLanding.bytes) ++ pad 4096 (t.copies.flatMap CopyOp.bytes) ++ pad 1376 []

/-- A number rounded up to a multiple of 4 KiB. -/
def up4k (n : Nat) : Nat := (n + 4095) / 4096 * 4096

/-- The offsets of the matrix registers and of the scratchpad granules in an image (R245). -/
def Slot.imageM (t : Slot) : Nat := up4k (0x2000 + 32 * (16 + 8 * t.bind.vcap))
def Slot.imageS (t : Slot) : Nat := up4k (t.imageM + t.bind.mregs * 163840)
def Slot.imageLen (t : Slot) : Nat := t.imageS + 2 * t.bind.spsize + 32 * t.halfGrans

/-- The granules of an image, rising. -/
def Image.risingGrans (i : Image) : List Granule :=
  (List.range (2 * i.ctx.halfGrans)).filterMap fun n => i.grans.find? fun g => decide (g.num = n)

/-- What an image writes above its digest, in the order of its offsets: the fixed part; of the run registers, the matrix blocks, the
granules and their tags those that its maps mark, each with the zeros behind it; the zeros up to the next 4 KiB (R245, R246). -/
def Image.parts (i : Image) : List (Nat × List Byte) :=
  let t := i.ctx
  let n := t.rows * t.cols
  let unit := 16 + 8 * t.bind.vcap
  let gap (lo hi : Nat) : Nat × List Byte := (lo, List.replicate (hi - lo) 0)
  let vs := (List.range 32).filter t.dirtyV.contains
  let ms := (List.range (8 * t.bind.mregs)).filter t.dirtyM.contains
  let tags (g : Granule) : List Byte := (List.range 16).map fun n =>
    let tag (k : Nat) : Nat := ((g.tags.find? fun x => x.1 = k).elim (0 : BitVec 3) Prod.snd).toNat
    BitVec.ofNat 8 (tag (2 * n) + tag (2 * n + 1) * 16)
  [(0x80, t.fixedBytes (i.grans.map fun g => g.num))]
    ++ (vs.map fun v => (0x2000 + v * unit, pad unit ((t.v[v]?.getD RunReg.reset).bytes n)))
    ++ [gap (0x2000 + 32 * unit) t.imageM]
    ++ (ms.map fun b => (t.imageM + b * 20480, blockBytes (t.m[b / 8]?.getD MatReg.reset).tile (b % 8)))
    ++ [gap (t.imageM + t.bind.mregs * 163840) t.imageS]
    ++ (i.risingGrans.map fun g => (t.imageS + 65536 * g.num, (List.range 65536).map fun n => memRead g.cells n))
    ++ (i.risingGrans.map fun g => (t.imageS + 2 * t.bind.spsize + 16 * g.num, tags g))

/-- The digest of what an image writes, from 0x80 to the end (R245). -/
def Image.digest (i : Image) : List Byte := sha3 (i.parts.flatMap Prod.snd)

/-- The header (R245). -/
def Image.header (i : Image) (prev : Nat) : List Byte :=
  pad 64 (bytesOf 2 1 ++ bytesOf 6 (if i.depth = 0 then 0 else 1) ++ bytesOf 4 i.launch ++ bytesOf 4 i.agent.toNat ++ bytesOf 8 i.num
    ++ bytesOf 8 prev ++ bytesOf 2 i.ctx.bind.vcap ++ bytesOf 1 i.ctx.bind.mregs ++ bytesOf 1 i.depth ++ bytesOf 4 (i.ctx.bind.spsize / 65536)
    ++ bytesOf 8 i.ctx.imageLen)

/-! ### The images' place in HBM (R245) -/

/-- What Corelo sets aside for an image: 32 MiB hold the longest. -/
def imageSize : Nat := 2 ^ 25

/-- Two ranges of addresses overlap. -/
def rangesMeet (a la b lb : Nat) : Bool := decide (a < b + lb) && decide (b < a + la)

/-- A page of a job lies in a range of physical addresses: a page with LOC = 1 in its copy on each die (R298). -/
def Job.pageMeets (j : Job) (m : Nat × Nat × Word) (lo len : Nat) : Bool :=
  let p := pteOf m.2.2
  let f := wbits p.raw 12 36 * 4096
  if p.loc then j.dies.any fun d => rangesMeet (d * 2 ^ 43 + f % 2 ^ 43) (2 ^ m.2.1) lo len else rangesMeet f (2 ^ m.2.1) lo len

/-- A frame that a MAP in progress takes out of use lies in a range of physical addresses: it is free once the change is complete
(R301). -/
def State.leavingMeets (s : State) (lo len : Nat) : Bool :=
  s.host.waiting.elim false fun p =>
    decide (p.code = 3 ∧ p.old ≠ 0) && (findJob s.jobs p.job).elim false fun j => j.pageMeets (0, p.arg % 64, p.old) lo len

/-- A range of physical addresses meets the place of an image. -/
def State.meetsImage (s : State) (lo len : Nat) : Bool := (s.images ++ s.archive).any fun i => rangesMeet i.addr imageSize lo len

/-- The place of a new image on a die: below the frames of Corelo's own pages, the highest that is free. DESIGN CHOICE: R245 leaves
it to Corelo (log 108). -/
def State.imagePlace (s : State) (die : Nat) : Nat :=
  let at_ (k : Nat) : Nat := die * 2 ^ 43 + keptFrame 0 - (k + 1) * imageSize
  at_ (((List.range 1920).find? fun k =>
    !s.meetsImage (at_ k) imageSize && !s.leavingMeets (at_ k) imageSize && !(s.jobs.any fun j => j.maps.any fun m => j.pageMeets m (at_ k) imageSize)).getD 0)

/-- An image's bytes are written, and a chain that a base makes useless goes with its frames (R245, R246). -/
def State.writeImage (s : State) (i : Image) : State :=
  let prev := (i.prev.bind s.older).elim 0 fun o => o.addr
  let put (m : List Host.Cell) (p : Nat × List Byte) : List Host.Cell := memWrites m (cellsAt (i.addr + p.1) p.2)
  let s := s.zeroRange i.addr imageSize
  { s with mem := (((0, i.header prev) :: (0x40, i.digest) :: i.parts).foldl put s.mem) }

/-- Frames of images that Corelo frees are zeroed (R248, R293). -/
def State.zeroImages (s : State) (is : List Image) : State :=
  is.foldl (fun (s : State) (i : Image) => s.zeroRange i.addr imageSize) s

/-- Older images leave the archive. -/
def State.dropOlder (s : State) (ns : List Nat) : State :=
  ({ s with archive := s.archive.filter fun i => !ns.contains i.num }).zeroImages (s.archive.filter fun i => ns.contains i.num)

/-- An image that is not needed any more goes, with those of its chain. -/
def State.dropImage (s : State) (i : Image) : State :=
  (({ s with images := s.images.filter fun x => x.num ≠ i.num }).zeroImages [i]).dropOlder (s.chainFrom 16 i.prev)

/-- The bytes that stand where an image wrote them, none under an uncorrectable error, match the stored digest (R245). -/
def State.imageGood (s : State) (i : Image) : Bool :=
  let bytes := i.parts.flatMap fun p => memBytesAt s.mem (i.addr + p.1) p.2.length
  !((s.bad.any fun e => rangesMeet e.1 1 i.addr i.ctx.imageLen)) && decide (sha3 bytes = memBytesAt s.mem (i.addr + 0x40) 64)

/-- An image and those of its chain match their digests. -/
def State.chainGood (s : State) (i : Image) : Bool :=
  s.imageGood i && (s.chainFrom 16 i.prev).all fun n => (s.older n).elim false s.imageGood

end Sys2Proof.Machine
end

