-- ==== Sys2Proof/Machine/Sched.lean ====
section
/-! DEFINITION. Binding (R314–R320), release and scrubbing (R247–R249, R277), the LAUNCH record (R323), pre-emption and
resumption (R241–R246, R321, R322), YIELD (R128) and the ending of a thread by Corelo (R238, R247). -/

namespace Sys2Proof.Machine

/-! ### Room on a core (R314, R317) -/

def slotIds (g : CoreId) : List SlotId := (List.range 4).map fun i => { core := g, slot := BitVec.ofNat 2 i }

/-- The slots of a core. -/
def State.coreSlots (s : State) (g : CoreId) : List Slot := (slotIds g).map s.slotAt

/-- The lowest 64 KiB-aligned range of a bank group that overlaps no half given (R314). -/
def freeHalf (base size : Nat) (used : List (Nat × Nat)) : Option Nat :=
  ((List.range 192).map fun i => base + 65536 * i).find? fun a =>
    decide (a + size ≤ base + 0xC00000) && !(used.any fun u => rangesMeet a size u.1 u.2)

/-- A place on a core: slot and the two half offsets. -/
structure Place where
  key : SlotId
  a : Nat
  b : Nat
deriving DecidableEq, Repr

/-- The cores of the cluster of a core. -/
def clusterCores (g : CoreId) : List CoreId := (List.range 4).map fun q => BitVec.ofNat 9 (g.toNat / 4 * 4 + q)

/-- No slot counts as free that is not. -/
def noSlot (_ : Slot) : Bool := false

/-- No thread is in a core's cluster, with some slots counted as free. -/
def State.clusterEmpty (s : State) (g : CoreId) (freed : Slot → Bool) : Bool :=
  (clusterCores g).all fun c => (s.coreSlots c).all fun t => freed t || !t.holds

/-- The cluster's L1 mode admits a launch: that of an empty cluster is open (R289, R317). -/
def State.l1Admits (s : State) (l : Launch) (g : CoreId) (freed : Slot → Bool) : Bool :=
  decide ((s.core g).fused = l.flag 1) || s.clusterEmpty g freed

/-- The place that a thread of a launch takes on a core, if it fits, with some slots counted as free (R128, R314, R322). -/
def State.placeOn (s : State) (l : Launch) (g : CoreId) (freed : Slot → Bool) : Option Place :=
  let ts := (s.coreSlots g).map fun t => if freed t then Slot.reset t.key else t
  let held := ts.filter Slot.holds
  let size := l.num8 8 8
  if (s.core g).failed ∨ s.deadDies.contains (dieOf g) then none
  else if l.byte 5 ≤ (held.filter fun t => t.bind.launch = l.num).length then none
  else if !s.l1Admits l g freed then none
  else match ts.find? fun t => decide (t.status = .free), freeHalf 0 size (held.map fun t => (t.bind.spbaseA, t.bind.spsize)),
      freeHalf 0xC00000 size (held.map fun t => (t.bind.spbaseB, t.bind.spsize)) with
    | some t, some a, some b => some { key := t.key, a := a, b := b }
    | _, _, _ => none

/-- The first place among cores, those of clusters already fused for the job first when the launch fuses (R315, R317). -/
def State.placeIn (s : State) (l : Launch) (gs : List CoreId) : Option Place :=
  let pref := if l.flag 1 then gs.filter (fun g => (s.core g).fused && decide ((s.core g).fusedJob = l.job)) ++ gs else gs
  pref.findSome? fun g => s.placeOn l g noSlot

def dieCores (d : Nat) : List CoreId := (List.range 16).map fun c => BitVec.ofNat 9 (16 * d + c)

/-! ### Candidates (R315, R316) -/

/-- A candidate: an unbound instance of a launch, or a saved thread that is ready to resume. -/
inductive Cand
  | inst (l : Launch) (lin : Nat)
  | image (l : Launch) (i : Image)
deriving DecidableEq, Repr

def Cand.launch : Cand → Launch
  | .inst l _ => l
  | .image l _ => l

/-- The candidate stands for a GANG launch. -/
def Cand.gang : Cand → Bool
  | .inst l _ => l.flag 0
  | .image .. => false

/-- The pre-emption of R322 is no longer in force: the saved ring holds a record, or the child's instances on the die
have all bound. -/
def State.imageReady (s : State) (i : Image) : Bool :=
  i.restoring.isNone && i.ending.isNone && match i.blockedOn with
  | none => true
  | some (child, die) => decide (i.ctx.cqCount ≠ 0) || !i.ctx.waitRecs.isEmpty
      || !((findLaunch s.launches child).elim false fun l => l.unbound.any fun lin => decide (s.dieOfLin l lin = die))

/-- One instance for each die of a launch: the unbound one with the lowest number (R315). -/
def State.firstInsts (s : State) (l : Launch) : List Nat :=
  (l.unbound.foldl (fun (acc : List Nat × List Nat) (lin : Nat) =>
    let d := s.dieOfLin l lin
    if acc.2.contains d then acc else (acc.1 ++ [lin], d :: acc.2)) ([], [])).1

/-- The candidates of one priority class, in order. -/
def State.candsOf (s : State) (cls : Nat) : List Cand :=
  (s.images.filterMap fun i => match findLaunch s.launches i.launch with
    | some l => if l.byte 4 = cls ∧ s.imageReady i then some (.image l i) else none
    | none => none)
  ++ (s.launches.filter fun l => decide (l.byte 4 = cls)).flatMap fun l => (s.firstInsts l).map fun lin => .inst l lin

/-- All candidates, highest class first. -/
def State.cands (s : State) : List Cand := (List.range 8).reverse.flatMap s.candsOf

/-- The dies on which a candidate may bind. -/
def State.candDies (s : State) : Cand → List Nat
  | .inst l lin => [s.dieOfLin l lin]
  | .image l _ => s.launchDies l

/-- The place of a candidate outside the dies that are held (R315, R316). -/
def State.candPlace (s : State) (c : Cand) (held : List Nat) : Option Place :=
  s.placeIn c.launch (((s.candDies c).filter fun d => !held.contains d).flatMap dieCores)

/-! ### Binding (R318) -/

/-- The largest naturally aligned power-of-two regions that tile a half, from the lowest address (R34). -/
def tileHalf : Nat → Nat → Nat → List (Nat × Nat)
  | 0, _, _ => []
  | fuel + 1, a, size =>
    if size = 0 then []
    else
      let n := ((List.range 9).reverse.find? fun k => decide (a % 2 ^ (16 + k) = 0) && decide (2 ^ (16 + k) ≤ size)).getD 0
      (a, 16 + n) :: tileHalf fuel (a + 2 ^ (16 + n)) (size - 2 ^ (16 + n))

/-- The half tokens of a thread: EXCL, owned and homed by it (R34). -/
def halfEntries (job : Nat) (part : BitVec 16) (k : SlotId) (off size : Nat) : List Entry :=
  (tileHalf 192 off size).map fun r =>
    { job := job, base := windowAddr k.core r.1, log2 := r.2, die := BitVec.ofNat 5 (dieOf k.core), owner := k.agent,
      homeAgent := k.agent, st := .excl, pair := false, paired := false, shares := [], writers := 0, counter := 0, pubs := 0,
      grant := 0, partition := part, forwards := [], closing := false }

/-- The half tokens of a slot's thread. -/
def Slot.halfTokens (t : Slot) : List Entry :=
  halfEntries t.bind.job t.bind.partition t.key t.bind.spbaseA t.bind.spsize ++ halfEntries t.bind.job t.bind.partition t.key t.bind.spbaseB t.bind.spsize

/-- The cluster of a core fuses for a launch with L1FUSE; a change of mode empties its L1s (R289). -/
def State.fuseFor (s : State) (l : Launch) (g : CoreId) : State :=
  if l.flag 1 && !(s.core g).fused then
    (clusterCores g).foldl (fun (s : State) (c : CoreId) =>
      s.updCore c fun x => { x with fused := true, fusedJob := l.job, l1 := [] }) s
  else s

/-- A cluster without threads is no longer fused (R289). -/
def State.unfuse (s : State) (g : CoreId) : State :=
  if (s.core g).fused && s.clusterEmpty g noSlot then
    (clusterCores g).foldl (fun (s : State) (c : CoreId) => s.updCore c fun x => { x with fused := false, fusedJob := 0, l1 := [] }) s
  else s

/-- The slot of a new thread: reset values, s2 and s3, identity, entry points and the initial format table (R12, R13,
R318, R320). -/
def State.newSlot (s : State) (l : Launch) (lin : Nat) (p : Place) : Slot :=
  let j := findJob s.jobs l.job
  let ls := loopLevels l.recd
  let t := Slot.reset p.key
  let size := l.num8 8 8
  let entry (e : Stream) : StreamState := { StreamState.reset with pc := toPc (BitVec.ofNat 64 (l.num8 (0x10 + 8 * e.num) 8)) }
  let t := (t.setS 2 (BitVec.ofNat 64 (windowAddr p.key.core (p.a + size)))).setS 3 l.recordAddr
  { t with
    status := .binding
    bind :=
      { supervisor := l.supervisor, job := l.job, partition := (j.elim 0 fun j => j.partition), launch := l.num, lin := lin,
        moduleId := (j.elim 0 fun j => j.moduleId), idx := Vector.ofFn fun i : Fin 6 => BitVec.ofNat 64 ((indicesOf ls lin).1[i.val]?.getD 0),
        role := BitVec.ofNat 2 (l.byte 0x70 / 4 ^ (lin % l.byte 5)), vcap := 2 ^ l.byte 7, mregs := l.byte 6, spsize := size,
        spbaseA := p.a, spbaseB := p.b, recordCopy := l.copyAddr, image := 0 }
    ft := Vector.ofFn fun i : Fin 16 => BitVec.ofNat 32 (l.num8 (0x1C0 + 4 * i.val) 4)
    scalar := entry .scalar, vector := entry .vector, matrix := entry .matrix, copy := entry .copy }

/-- A slot put in its place. -/
def State.setSlot (s : State) (t : Slot) : State := if s.cur.key = t.key then { s with cur := t } else { s with others := swapSlot s.others t.key t }

/-- A grant's region passes from the management agent to the thread (R276). -/
def State.takeGrant (s : State) (k : SlotId) (job : Nat) (r : Nat × Nat) : State :=
  match findEntry s.tokens job r.1 r.2 with
  | some e =>
    let s := { s with tokens := putEntry s.tokens { e with owner := k.agent, homeAgent := k.agent, st := .excl } }
    (s.l1DropRegion k.core job r.1 (2 ^ r.2)).wakeRegion job r.1 (2 ^ r.2)
  | none => s

/-- When a bind or a restore that begins now is over: at a free time (R318). -/
def State.readyTime (s : State) : Nat := s.cycle + 1 + Config.freeNat s.freeCtr

/-- Steps 1–4 of the bind of an instance: its slot, its tokens, its place in the launch; it is over at a given time (R276, R313,
R318). -/
def State.bindInst (s : State) (l : Launch) (lin : Nat) (p : Place) (ready : Nat) : State :=
  let t := { s.newSlot l lin p with readyAt := ready }
  let s := (s.fuseFor l p.key.core).setSlot t
  let s := { s with tokens := s.tokens ++ t.halfTokens }
  let s := (List.range (recNat l.recd 0x71 1)).foldl (fun (s : State) (g : Nat) => s.takeGrant p.key l.job (grantRegion l.recd g lin)) s
  let rest := l.unbound.filter fun x => x ≠ lin
  { s with launches := putLaunch s.launches { l with unbound := rest, inPool := l.inPool && !rest.isEmpty, live := l.live + 1 } }

/-- A GANG launch binds all of its instances, or none (R316). -/
def State.bindGang (s : State) (n ready : Nat) : Nat → Option State
  | 0 => none
  | fuel + 1 =>
    match findLaunch s.launches n with
    | none => none
    | some l => match l.unbound with
      | [] => some s
      | lin :: _ => match s.placeIn l (dieCores (s.dieOfLin l lin)) with
        | some p => State.bindGang (s.bindInst l lin p ready) n ready fuel
        | none => none

/-- The dies that a GANG launch has held, and those on which it is the first candidate that does not bind (R316). -/
def State.gangDies (s : State) (l : Launch) (seen : List Nat) : List Nat :=
  (s.gangHolds.filter fun h => h.1 = l.num).map Prod.snd ++ ((s.firstInsts l).map (s.dieOfLin l)).filter fun d => !seen.contains d

/-- The next bind: of the candidates in order, the first that fits. `held` are dies held for a GANG launch before it, `seen` those
on which a candidate was passed over (R315, R316). -/
def State.pickCand (s : State) : List Cand → List Nat → List Nat → Option (Cand × Option Place)
  | [], _, _ => none
  | c :: rest, held, seen =>
    let l := c.launch
    if c.gang then
      if !((l.unbound.map (s.dieOfLin l)).any held.contains) && (s.bindGang l.num 0 (l.unbound.length + 1)).isSome then some (c, none)
      else State.pickCand s rest (held ++ s.gangDies l seen) (seen ++ (s.firstInsts l).map (s.dieOfLin l))
    else match s.candPlace c held with
      | some p => some (c, some p)
      | none => State.pickCand s rest held (seen ++ s.candDies c)

/-- What Corelo binds next, if anything. -/
def State.nextBind (s : State) : Option (Cand × Option Place) := s.pickCand s.cands [] []

/-- Dies that the GANG launches among candidates hold, none of which binds. -/
def State.holdsOf (s : State) : List Cand → List Nat → List (Nat × Nat)
  | [], _ => []
  | c :: rest, seen =>
    if c.gang then
      let l := c.launch
      ((s.gangDies l seen).eraseDups.map fun d => (l.num, d)) ++ s.holdsOf rest (seen ++ (s.firstInsts l).map (s.dieOfLin l))
    else s.holdsOf rest (seen ++ s.candDies c)

/-- The dies that GANG launches hold from now on, noted once nothing more binds; a hold lasts until its launch binds or is cancelled
(R316). -/
def State.noteHolds (s : State) : State :=
  if s.nextBind.isSome then { s with gangHolds := s.gangHolds.filter fun h => (findLaunch s.launches h.1).elim false fun l => !l.unbound.isEmpty }
  else { s with gangHolds := s.holdsOf s.cands [] }

/-- Step 5 of a bind: the streams of the acting thread start, with the acquire side of its LAUNCH pair; the first thread of a launch
sets launch step 0, whose fabric step the sequencer runs; records held for a designated handler thread are posted (R234, R318,
R319). -/
def State.startThread (s : State) : State :=
  let t := s.cur
  let s := (s.upd fun t => { t with status := .bound }).acquire .pkg
  let s := if t.ending.isSome then s.haltAll else s
  match s.launch? with
  | none => s
  | some l =>
    let mine := decide (t.bind.lin = l.num8 0x74 4)
    let l' := { l with step0 := l.step0.or (some (s.cycle / Config.fabricStep)), heldRecs := if mine then [] else l.heldRecs }
    let s := { s with
      launches := putLaunch s.launches l'
      agenda := if l.step0.isNone then .event .fabricStep { EvArgs.none with num := l.num } :: s.agenda else s.agenda }
    (if mine then l.heldRecs else []).foldl State.post s

/-- BIND: Corelo begins to bind the first candidate that fits (number 0), or a bind that has begun is over and the streams start
(number 1) (R315–R319). -/
def execBind (s : State) : Res :=
  .next (if s.ev.num = 1 then
      s.onSlot s.ev.slot fun s => if s.cur.status = .binding ∧ s.cur.readyAt ≤ s.cycle then s.startThread else s
    else
      let s' := { s with freeCtr := s.freeCtr + 1 }
      match s.nextBind with
      | some (.inst l lin, some p) => s'.bindInst l lin p s.readyTime
      | some (.inst l _, none) => (s'.bindGang l.num s.readyTime (l.unbound.length + 1)).getD s
      | _ => s)

/-! ### Release (R247, R248, R277) -/

/-- A token entry after an agent is released (R277). -/
def Entry.handBack (e : Entry) (a : AgentId) : Entry :=
  let e := { e with shares := e.shares.filter fun x => x.1 ≠ a }
  let e := if e.st = .shared ∧ e.shares.isEmpty then { e with st := e.settled } else e
  let e := if e.owner = a ∧ e.st = .window then e.close else e
  let e := if e.owner = a ∧ e.homeAgent ≠ a then { e with owner := e.homeAgent } else e
  let e := if e.homeAgent = a then { e with homeAgent := mgmtAgent, owner := if e.owner = a then mgmtAgent else e.owner } else e
  if e.st = .excl ∨ e.st = .lent then { e with st := e.settled } else e

/-- An agent's name in a token entry. -/
def Entry.names (e : Entry) (a : AgentId) : Bool :=
  decide (e.owner = a) || decide (e.homeAgent = a) || decide (e.sharesOf a ≠ 0)

/-- What an agent's transfer of a region does outside the entry: at a thread that gives, the region's lines go from its L1; at one that
receives, every line, since its first access acquires; monitors of the region wake (R105, R123, R127, R259). -/
def State.passed (s : State) (e : Entry) (giver receiver : AgentId) : State :=
  let size := 2 ^ e.log2
  let s := if agentKind giver = 1 then s.l1DropRegion (agentSlot giver).core e.job e.base size else s
  let s := if agentKind receiver = 1 ∧ receiver ≠ giver then s.l1Clear (agentSlot receiver).core else s
  s.wakeRegion e.job e.base size

/-- Every token of an agent is handed back, as transfers (R123, R277). -/
def State.handBackAll (s : State) (a : AgentId) (job : Nat) : State :=
  s.tokens.foldl (fun (s : State) (e : Entry) =>
    if e.job = job ∧ e.names a then
      let e' := e.handBack a
      { s with tokens := putEntry s.tokens e' }.passed e' a e'.owner
    else s) s

/-- A window of an agent (R125). -/
def Entry.windowOf (e : Entry) (a : AgentId) (job : Nat) : Bool := decide (e.job = job) && decide (e.owner = a) && decide (e.st = .window)

/-- Puts into a window of an agent have passed their check and are not performed: its close waits for them (R125, R248). -/
def State.putsOpen (s : State) (a : AgentId) (job : Nat) : Bool :=
  s.tokens.any fun e => e.windowOf a job && s.slots.any fun t => t.putsIn e.job e.base (2 ^ e.log2)

/-- The windows of an agent admit no new put (R125, R248). -/
def State.closeWindows (s : State) (a : AgentId) (job : Nat) : State :=
  { s with tokens := s.tokens.map fun e => if e.windowOf a job then { e with closing := true } else e }

/-- Every region of the halves is back in the thread's name (R248). -/
def State.halvesBack (s : State) : Bool :=
  s.tokens.all fun e => !s.cur.inOwnHalves e || (decide (e.owner = s.cur.key.agent) && e.shares.isEmpty && decide (e.st ≠ .lost))

/-- Every region of the halves is EXCL and the thread's (R241). -/
def State.halvesExcl (s : State) : Bool :=
  s.tokens.all fun e => !s.cur.inOwnHalves e || (decide (e.owner = s.cur.key.agent) && decide (e.st = .excl))

/-- All four streams have ended and all copies have completed; everything issued has landed and been performed (R138). -/
def Slot.allOver (t : Slot) : Bool :=
  t.scalar.ended && t.vector.ended && t.matrix.ended && t.copy.ended && t.copies.isEmpty && t.stores.isEmpty && t.vfly.isEmpty
    && t.mfly.isEmpty && t.orphans.isEmpty

/-- Both halves of a slot with zeros and tags 0, and their token entries removed (R248, R277, R287). -/
def State.scrubHalves (s : State) : State :=
  let t := s.cur
  let lo (b : Nat) : Nat := windowAddr t.key.core b
  let zap (s : State) (b : Nat) : State :=
    { s with mem := memZero s.mem (lo b) (lo b + t.bind.spsize) }.freshWords (lo b) (lo b + t.bind.spsize)
  let s := zap (zap s t.bind.spbaseA) t.bind.spbaseB
  let s := s.updCore t.key.core fun c => { c with tags := c.tags.filter fun g => !t.inHalves (2048 * g.1) }
  { s with tokens := s.tokens.filter fun e => !t.inOwnHalves e }

/-- A core's L1 once a thread of a job has left it: emptied when no thread of the job is left (R248). -/
def State.leaveL1 (s : State) (g : CoreId) (job : Nat) : State :=
  if (s.coreSlots g).any fun t => t.holds && decide (t.bind.job = job) then s else s.l1Clear g

/-- The slot goes to scrubbing: its registers take their reset values and held records are discarded; its halves are scrubbed and
its core left (R248, R289). The slot itself is free when the scrub is over. -/
def State.startScrub (s : State) (launch : Nat) : State :=
  let t := s.cur
  let s := s.scrubHalves.upd fun t => { Slot.reset t.key with
    status := .scrubbing
    bind := { BindRec.reset with job := t.bind.job, partition := t.bind.partition, launch := launch, spsize := t.bind.spsize
                                 spbaseA := t.bind.spbaseA, spbaseB := t.bind.spbaseB }
    readyAt := s.cycle + 2 * t.bind.spsize / 4096 }
  (s.leaveL1 t.key.core t.bind.job).unfuse t.key.core

/-- A thread of a launch is in a slot, or saved. -/
def State.anyThread (s : State) (launch : Nat) (on : Nat → Bool) : Bool :=
  (s.slots.any fun t => t.holds && decide (t.bind.launch = launch) && on (dieOf t.key.core))
    || s.images.any fun i => decide (i.launch = launch) && on (dieOf i.ctx.key.core)

/-- After a thread of a launch has left a die: with the last of them the launch's deques there are scrubbed to empty
(R135). -/
def State.scrubDeques (s : State) (launch die : Nat) : State :=
  if s.anyThread launch fun d => decide (d = die) then s
  else (dieCores die).foldl (fun (s : State) (g : CoreId) =>
    if (s.core g).dequeLaunch = launch ∧ (s.core g).deque ≠ [] then s.updCore g fun c => { c with deque := [] } else s) s

/-- The launch's last thread has gone and none is to bind: its circuits are torn down and its program stops (R340). -/
def State.endProgram (s : State) (launch : Nat) : State :=
  match findLaunch s.launches launch with
  | some l =>
    if l.unbound.isEmpty && !(s.anyThread launch fun _ => true) then
      { s with launches := putLaunch s.launches { l with circuits := [], reroutes := [], hold := .none, progOver := true } }
    else s
  | none => s

/-- What follows when a thread of a launch has left a core for good: deques, circuits (R135, R340). -/
def State.leftLaunch (s : State) (launch die : Nat) : State := (s.scrubDeques launch die).endProgram launch

/-- A thread's chain of older images goes with it (R246). -/
def State.dropChain (s : State) (t : Slot) : State := s.dropOlder (s.chainFrom 16 (t.chain.map Prod.fst))

/-- Steps 2–5 of R248 for the acting thread, its launch changed by `f`; records of others that wait for its ring go to Corelo
(R234). -/
def State.release (s : State) (f : Launch → Launch) : State :=
  let t := s.cur
  let s := ((s.handBackAll t.key.agent t.bind.job).passRecords t).dropChain t
  let s := match s.launch? with
    | some l => { s with launches := putLaunch s.launches (f l) }
    | none => s
  (s.startScrub t.bind.launch).leftLaunch t.bind.launch (dieOf t.key.core)

/-- RETIREMENT: the thread in a slot retires once the puts into its windows are performed (R125, R138, R248, R277). -/
def execRetirement (s : State) : Res :=
  .next (s.onSlot s.ev.slot fun s =>
    if decide (s.cur.status = .bound) && s.cur.allOver && s.halvesBack then
      if s.putsOpen s.cur.key.agent s.cur.bind.job then s.closeWindows s.cur.key.agent s.cur.bind.job
      else s.release fun l => { l with retired := l.retired + 1 }
    else s)

/-- SCRUB_COMPLETE: the scrub of a slot ends and the slot is free (R248). -/
def execScrubComplete (s : State) : Res :=
  .next (s.onSlot s.ev.slot fun s =>
    let t := s.cur
    if t.status = .scrubbing ∧ t.readyAt ≤ s.cycle then
      let s := s.upd fun t => Slot.reset t.key
      match findLaunch s.launches t.bind.launch with
        | some l => { s with launches := putLaunch s.launches { l with live := l.live - 1 } }
        | none => s
    else s)

/-! ### Ending by Corelo (R238, R247, R388) -/

/-- Every result in flight lands and every store is performed, and the copies stop with no record (R92, R248). -/
def State.landAll (s : State) : State :=
  let s := s.cur.vfly.foldl (fun (s : State) (l : VLanding) => s.landV l.id) s
  let s := s.cur.mfly.foldl (fun (s : State) (l : MLanding) => s.performAll l.stores) s
  let s := s.performAll s.cur.stores
  s.upd fun t => { t with
    stores := [], vfly := [], mfly := [], copies := [], waiting := .none, heldOn := none, locked := false
    scop := t.scop.filter fun x => match x.phase with | .waiting _ => false | _ => true }

/-- The regions of the acting thread's halves that others hold are taken back. DESIGN CHOICE: R277 removes them after the scrub; they
admit no access of another thread from here on, so that the scrub comes after every write (R249, log 134). -/
def State.recallHalves (s : State) : State :=
  let a := s.cur.key.agent
  s.tokens.foldl (fun (s : State) (e : Entry) =>
    if s.cur.inOwnHalves e ∧ (e.owner ≠ a ∨ e.shares ≠ []) then
      let holders := e.owner :: e.shares.map Prod.fst
      holders.foldl (fun (s : State) (h : AgentId) => s.passed e h a)
        { s with tokens := putEntry s.tokens { e with owner := a, homeAgent := a, shares := [], st := .excl } }
    else s) s

/-- The buffers of the COLLs of an ended thread that have not reached their unit go back to their homes: the contribution never arrives
(R248, R279; DESIGN CHOICE, log 140). -/
def State.recallColls (s : State) (t : Slot) : State :=
  let spans := t.copies.flatMap fun o => match o.phase with
    | .toUnit | .hit .. => if o.major = .coll then o.rdSpans ++ o.wrSpans else []
    | _ => []
  (s.tokens.filter fun e => decide (e.job = t.bind.job) && decide (agentKind e.owner = 2) && spans.contains (e.base, 2 ^ e.log2)).foldl
    (fun (s : State) (e : Entry) => { s with tokens := putEntry s.tokens e.ret }.passed e.ret e.owner e.ret.owner) s

/-- Writes of others into the halves of the acting thread that have passed their check are not performed (R249). -/
def State.writesOpen (s : State) : Bool :=
  let t := s.cur
  s.others.any fun o => [t.bind.spbaseA, t.bind.spbaseB].any fun b => o.writesIn t.bind.job (windowAddr t.key.core b) t.bind.spsize

/-- Corelo ends the acting thread: it stops, what it issued lands and its copies stop; the release follows once the puts into its
windows and the writes of others into its halves are performed and its SCOP is back (R125, R247–R249). -/
def State.endThread (s : State) (cause : BitVec 8) : State :=
  let s := (((s.recallColls s.cur).haltAll.landAll).upd fun t => { t with ending := some (t.ending.getD cause) }).recallHalves
  if s.putsOpen s.cur.key.agent s.cur.bind.job || s.writesOpen || s.cur.scop.isSome || !s.cur.orphans.isEmpty then
    s.closeWindows s.cur.key.agent s.cur.bind.job
  else s.release fun l => l.kill (s.cur.ending.getD cause) 1

/-- The suspension mark of an image (R269). -/
def imageMark (n : Nat) : AgentId := BitVec.ofNat 32 (15 * 2 ^ 28 + n % 2 ^ 28)

/-- A saved thread is ended: once the puts into its windows are performed its tokens are handed back and its image goes; records of
others that wait for its ring go to Corelo (R125, R234, R247, R248). -/
def State.endImage (s : State) (i : Image) (cause : BitVec 8) : State :=
  let a := imageMark i.num
  let job := i.ctx.bind.job
  let cause := i.ending.getD cause
  if s.putsOpen a job then
    { s.closeWindows a job with images := s.images.map fun x => if x.num = i.num then { x with ending := some cause } else x }
  else
    let s := ((s.recallColls i.ctx).handBackAll a job).passRecords i.ctx
    let s := match findLaunch s.launches i.launch with
      | some l => { s with launches := putLaunch s.launches { l.kill cause 1 with live := l.live - 1 } }
      | none => s
    (s.dropImage i).leftLaunch i.launch (dieOf i.ctx.key.core)

/-- THREAD_END_BY_CORELO: a thread with a fault that Corelo may not resume, or one that Corelo ends (word 0); or the end of a saved
thread whose windows close (word 1 and the image's number) (R238, R247). -/
def execThreadEndByCorelo (s : State) : Res :=
  .next (if s.ev.word = 1 then
      match s.images.find? fun i => decide (i.num = s.ev.num) && i.ending.isSome with
      | some i => s.endImage i 0
      | none => s
    else s.onSlot s.ev.slot fun s =>
      if s.cur.live then
        match s.cur.ending, s.cur.corelo with
        | some c, _ => s.endThread c
        | none, some c => s.endThread c.cause
        | none, none => s
      else s)

/-! ### The end of a launch (R323, R340) -/

/-- The LAUNCH record (R323). -/
def Launch.endRecord (l : Launch) : Record :=
  { kind := 7, status := if l.cancelled then 3 else if l.killed ≠ 0 then 2 else 0, tag := BitVec.ofNat 32 (l.num8 0x84 4)
    count := BitVec.ofNat 64 (l.num + l.retired * 2 ^ 32), poison := BitVec.ofNat 64 l.killed
    code := l.killCause.setWidth 32, retries := 0 }

/-- A LAUNCH record goes to the parent thread's ring, to its saved ring, or to Corelo, which forwards it to the host
(R323). -/
def State.toSubmitter (s : State) (l : Launch) (r : Record) : State :=
  match l.submitter with
  | .thread _ launch lin =>
    (match s.slotOfLin launch lin with
    | some k => s.onSlot k fun s => s.post (.plain r none)
    | none => if s.images.any fun i => i.isThread launch lin then s.holdInImage launch lin (.plain r none) else s.toCorelo l.job r true)
  | .host => s.toCorelo l.job r true
  | .corelo => s.toCorelo l.job r false

/-- The launch has ended: no thread of it is left and none is to bind. -/
def Launch.over (l : Launch) : Bool := decide (l.live = 0) && l.unbound.isEmpty

/-- A launch that a thread of the module submitted: a child (R322). -/
def Launch.isChild (l : Launch) : Bool := match l.submitter with | .thread .. => true | _ => false

/-- Corelo keeps a page with the launch's record: it did not come from a LAUNCH (R13). -/
def Launch.keepsPage (l : Launch) : Bool := !l.isChild

/-- LAUNCH_RECORD: a launch without threads ends; its entry and the copy of its record go, and its record is posted (R13, R323). -/
def execLaunchRecord (s : State) : Res :=
  .next (match findLaunch s.launches s.ev.num with
    | none => s
    | some l =>
      if l.over then
        let s : State := { s with
          launches := s.launches.filter fun x => x.num ≠ l.num
          colls := s.colls.map fun (c : Coll) => if c.job = l.job then { c with ended := c.ended ++ s.instanceDies l } else c }
        let s := if l.keepsPage then s.dropPage l.job l.recordAddr.toNat else s
        l.heldRecs.foldl (fun (s : State) (w : WaitRecord) => (s.finishOp w.op).toCorelo l.job w.rcd true) (s.toSubmitter l l.endRecord)
      else s)

/-! ### Pre-emption (R241–R243) -/

/-- The scalar stream stands at a boundary: no instruction in progress interlocks it (R242). -/
def Slot.atBoundary (t : Slot) : Bool := t.scop.isNone && !t.locked

/-- The pre-emption begins: every stream stops, blocked instructions are left unissued, MMAs stop at their next K-step (R117,
R242). -/
def State.beginSave (s : State) : State :=
  s.upd fun t => allStreams.foldl (fun (t : Slot) (e : Stream) => t.setStr e { t.str e with heldRead := none })
    ({ t with status := .saving, preemptReq := false, waiting := .none, heldOn := none }.stopMmas s.cycle)

/-- A copy operation that pre-emption does not wait for: a CPY that runs or waits for its circuit, a COLL, an operation whose record
waits for the thread's own ring (R211). -/
def Slot.maySave (t : Slot) (o : CopyOp) : Bool :=
  match o.phase with
  | .running | .awaitCircuit => decide (o.major = .cpy)
  | .toUnit | .atUnit | .hit .. => decide (o.major = .coll)
  | .posting => t.waitRecs.any fun w => decide (w.op = some (t.opId o.id))
  | _ => false

/-- Everything that the pre-emption waits for is over: results landed but for MMAs stopped at a K-step and what waits behind them,
stores performed, SCOPs answered, operations other than CPY and COLL completed (R211, R242, R243). -/
def Slot.drained (t : Slot) : Bool :=
  t.vfly.isEmpty && t.stores.isEmpty && t.orphans.isEmpty && t.atBoundary && (t.copies.all t.maySave)
    && (allStreams.all fun e => (t.str e).holdUntil.isNone) && t.mfly.all fun l => decide (l.run = .stopped)

/-- Frames of copies of the acting thread are on their way (R208, R343). -/
def State.framesOut (s : State) : Bool :=
  s.circuits.any fun c => c.frames.any fun f => s.cur.copies.any fun o => decide (o.major ≠ .coll) && decide (f.op = some (s.cur.opId o.id))

/-- A stream's state as it is saved: no age, no loop buffer (R228, R244, R245). -/
def StreamState.saved (x : StreamState) : StreamState := { x with age := 0, buf := none }

/-- One agent's name replaced by another's in a token entry: owner, home, sharer, kind-0 writer (R243). -/
def Entry.rename (e : Entry) (a b : AgentId) : Entry :=
  let sub (x : AgentId) : AgentId := if x = a then b else x
  { e with
    owner := sub e.owner, homeAgent := sub e.homeAgent, shares := e.shares.map fun x => (sub x.1, x.2)
    writers := if e.st = .window ∧ wbits e.writers 0 4 = 0 ∧ e.writers.toNat / 2 ^ 32 = a.toNat then BitVec.ofNat 64 (b.toNat * 2 ^ 32)
      else e.writers }

/-- Stores that wait behind a stopped MMA are performed before the halves move. -/
def State.flushMatrix (s : State) : State :=
  (s.cur.mfly.foldl (fun (s : State) (l : MLanding) => s.performAll l.stores) s).upd fun t => { t with mfly := t.mfly.map fun l => { l with stores := [] } }

/-- The slot as the image's fixed part holds it: streams without ages and buffers, copies at their progress points, the dirty maps of
what the image writes (R211, R244–R246). -/
def Slot.fixedPart (t : Slot) (base : Bool) (grans : List Nat) : Slot :=
  { t with
    scalar := t.scalar.saved, vector := t.vector.saved, matrix := t.matrix.saved, copy := t.copy.saved
    copies := t.copies.map fun o => if o.major = .cpy then o.toProgress else o
    dirtyV := if base then List.range 32 else t.dirtyV
    dirtyM := if base then List.range (8 * t.bind.mregs) else t.dirtyM
    dirtyG := grans }

/-- The image of the acting thread: a delta over the one it was restored from, or after 15 deltas a base (R245, R246). -/
def State.imageOf (s : State) (blocked : Option (Nat × Nat)) : Image :=
  let t := s.cur
  let depth := match t.chain with | some (_, d) => if d < 15 then d + 1 else 0 | none => 0
  let grans := s.dirtyGrans (decide (depth = 0))
  { num := s.nextImage, depth := depth, prev := if depth = 0 then none else t.chain.map Prod.fst, launch := t.bind.launch
    agent := t.key.agent, addr := s.imagePlace (dieOf t.key.core), ctx := (t.fixedPart (decide (depth = 0)) grans).marked
    grans := grans.map s.granule, blockedOn := blocked, restoring := none, ending := none }

/-- The thread's context image is written, its tokens take the suspension mark and its slot goes to scrubbing (R211,
R242, R243, R245, R246). -/
def State.save (s : State) (blocked : Option (Nat × Nat)) : State :=
  let s := s.flushMatrix
  let t := s.cur
  let img := s.imageOf blocked
  let s := s.writeImage img
  let s := if img.depth = 0 then s.dropChain t else s
  let toks := (s.tokens.filter fun e => !t.inOwnHalves e).map fun e => e.rename t.key.agent (imageMark img.num)
  { s with tokens := toks, images := s.images ++ [img], nextImage := s.nextImage + 1 }.startScrub 0

/-- A thread is blocked in CQWAITY and its launch has YIELDABLE (R134, R241, R322). -/
def State.yields (s : State) (t : Slot) : Bool :=
  decide (t.status = .bound) && decide (t.waiting = .yielded) && (findLaunch s.launches t.bind.launch).elim false fun x => x.flag 3

/-- The cores where an instance of a launch fits, if it fits no core of its die and would fit one where the threads of its partition
that wait in CQWAITY gave up their slots (R322). -/
def State.yieldFor (s : State) (l : Launch) (lin : Nat) : List CoreId :=
  let gs := dieCores (s.dieOfLin l lin)
  let part := (findJob s.jobs l.job).elim 0 fun j => j.partition
  if (s.placeIn l gs).isSome then []
  else gs.filter fun g => (s.placeOn l g fun t => s.yields t && decide (t.bind.partition = part)).isSome

/-- The same for the instances of a GANG launch, once those that fit are placed (R316, R322). -/
def State.gangYield (s : State) (n : Nat) : Nat → List Nat → List CoreId
  | 0, _ => []
  | _, [] => []
  | fuel + 1, lin :: rest =>
    match findLaunch s.launches n with
    | none => []
    | some l => match s.placeIn l (dieCores (s.dieOfLin l lin)) with
      | some p => (s.bindInst l lin p 0).gangYield n fuel rest
      | none => s.yieldFor l lin ++ s.gangYield n fuel rest

/-- The cores where a child would find room in the place of threads that wait in CQWAITY (R322). -/
def State.yieldCores (s : State) (c : Cand) : List CoreId :=
  match c with
  | .inst l lin =>
    if !l.isChild then []
    else if c.gang then s.gangYield l.num (l.unbound.length + 1) l.unbound else s.yieldFor l lin
  | .image .. => []

/-- The case of R322 for the acting thread: the child and the die. -/
def State.waitedChild (s : State) : Option (Nat × Nat) :=
  if s.yields s.cur then
    s.cands.findSome? fun c => if (s.yieldCores c).contains s.cur.key.core then some (c.launch.num, dieOf s.cur.key.core) else none
  else none

/-- A request may still pre-empt the acting thread: its launch has PREEMPTIBLE set, or it is blocked in CQWAITY and its
launch has YIELDABLE set (R241). -/
def State.mayPreempt (s : State) : Bool := s.launchFlag 2 || (s.launchFlag 3 && decide (s.cur.waiting = .yielded))

/-- PREEMPTION: a requested pre-emption begins where R241 lets it and lapses when the thread may no longer be pre-empted,
or one that has begun saves the thread (R241–R246). -/
def execPreemption (s : State) : Res :=
  .next (s.onSlot s.ev.slot fun s =>
    let t := s.cur
    if decide (t.status = .bound) && t.preemptReq && !s.mayPreempt then s.upd fun t => { t with preemptReq := false }
    else if decide (t.status = .bound) && t.preemptReq && t.atBoundary && s.halvesExcl then
      s.beginSave.upd fun t => { t with waitsFor := s.waitedChild }
    else if decide (t.status = .saving) && t.ending.isNone && t.drained && !s.framesOut && s.halvesExcl then s.save t.waitsFor
    else s)

/-! ### YIELD (R128) -/

/-- A candidate waits for the acting thread's slot (R128). -/
def State.slotWanted (s : State) : Bool :=
  let d := dieOf s.cur.key.core
  let cls := s.launch?.elim 0 fun l => l.byte 4
  s.cands.any fun c =>
    decide (cls ≤ c.launch.byte 4) && (s.candDies c).contains d && (s.placeIn c.launch (dieCores d)).isNone
      && (s.placeOn c.launch s.cur.key.core fun t => decide (t.key = s.cur.key)).isSome

/-- YIELD: a NOP, or the thread is pre-empted and resumes at the next instruction (R128, R241). -/
def execYield (s : State) : Res :=
  if s.launchFlag 3 && s.slotWanted && s.halvesExcl then .next (s.advance .scalar).beginSave else .next (s.advance .scalar)

/-! ### Requests for pre-emption (R321, R322) -/

/-- The place of a launch in the order of acceptance (R312). -/
def State.acceptedAt (s : State) (n : Nat) : Nat := (s.launches.findIdx? fun l => decide (l.num = n)).getD 0

/-- The thread that Corelo asks to give way among those a test admits: lowest class, launch accepted last, highest lin (R321);
without `byClass`, the youngest launch first (R322). One that has been asked already is not asked again. -/
def State.victim (s : State) (byClass : Bool) (ok : Slot → Launch → Bool) : Option SlotId :=
  let ts := s.slots.filterMap fun t =>
    match findLaunch s.launches t.bind.launch with
    | some x => if decide (t.status = .bound) && !t.preemptReq && ok t x then some (t, x) else none
    | none => none
  let age (x : Launch) : Nat := s.acceptedAt x.num
  let better (a b : Slot × Launch) : Bool :=
    (byClass && decide (a.2.byte 4 < b.2.byte 4)) || ((!byClass || decide (a.2.byte 4 = b.2.byte 4)) &&
      (decide (age b.2 < age a.2) || (decide (age a.2 = age b.2) && decide (b.1.bind.lin < a.1.bind.lin))))
  (ts.foldl (fun (b : Option (Slot × Launch)) (x : Slot × Launch) =>
    match b with
    | none => some x
    | some y => if better x y then some x else b) none).map fun x => x.1.key

/-- A slot of a die is on its way to be free: no other is asked for meanwhile. -/
def State.freeing (s : State) (d : Nat) : Bool :=
  s.slots.any fun t => decide (dieOf t.key.core = d) && (decide (t.status = .saving) || decide (t.status = .scrubbing)
    || (decide (t.status = .bound) && t.preemptReq && (s.focus t.key).halvesExcl))

/-- The dies on which a GANG launch lacks room, once the instances that fit are placed (R316, R321). -/
def State.gangLacks (s : State) (n : Nat) : Nat → List Nat → List Nat
  | 0, _ => []
  | _, [] => []
  | fuel + 1, lin :: rest =>
    match findLaunch s.launches n with
    | none => []
    | some l =>
      let d := s.dieOfLin l lin
      match s.placeIn l (dieCores d) with
      | some p => (s.bindInst l lin p 0).gangLacks n fuel rest
      | none => d :: s.gangLacks n fuel rest

/-- The dies on which a candidate waits for a slot that no free one there gives it: it fits nowhere (R316, R321). -/
def State.waitDies (s : State) (c : Cand) : List Nat :=
  if c.gang then (s.gangLacks c.launch.num (c.launch.unbound.length + 1) c.launch.unbound).eraseDups
  else if (s.placeIn c.launch ((s.candDies c).flatMap dieCores)).isSome then [] else s.candDies c

/-- The thread whose pre-emption Corelo requests: one of a PREEMPTIBLE launch of a lower class than a candidate that waits for a slot
on its die, or one that waits in CQWAITY where an instance of a child would fit in its place (R321, R322). -/
def State.wanted (s : State) : Option SlotId :=
  s.cands.findSome? fun c =>
    ((s.waitDies c).filter fun d => !s.freeing d).findSome? fun d =>
      (s.victim true fun t x => decide (dieOf t.key.core = d) && x.flag 2 && decide (x.byte 4 < c.launch.byte 4)).or
        (s.victim false fun t _ => s.yields t && decide (dieOf t.key.core = d) && (s.yieldCores c).contains t.key.core)

/-! ### Resumption (R244) -/

/-- A tensor of space 1 moved with the half it lies in (R187, R211). -/
def Tensor.move (x : Tensor) (oldA oldB size newA newB : Nat) : Tensor :=
  if x.space = 1 then
    (if oldA ≤ x.base.toNat ∧ x.base.toNat < oldA + size then { x with base := x.base + BitVec.ofNat 64 newA - BitVec.ofNat 64 oldA }
    else if oldB ≤ x.base.toNat ∧ x.base.toNat < oldB + size then { x with base := x.base + BitVec.ofNat 64 newB - BitVec.ofNat 64 oldB }
    else x)
  else x

/-- The issue-time copy of a handle, its base moved with the half it lies in (R187, R211). -/
def Handle.move (h : Handle) (term : Word) (old new : BindRec) : Handle :=
  let x := h.tensor term
  { h with w0 := h.w0 + ((x.move old.spbaseA old.spbaseB old.spsize new.spbaseA new.spbaseB).base - x.base) }

def IssueCopy.moved (c : IssueCopy) (old new : BindRec) : IssueCopy :=
  { c with a := c.a.move c.ta old new, b := c.b.move c.tb old new }

/-- A saved CPY in its new place (R211). -/
def CopyOp.moved (o : CopyOp) (old new : BindRec) : CopyOp :=
  { o with
    ops := o.ops.moved old new
    x := o.x.move old.spbaseA old.spbaseB old.spsize new.spbaseA new.spbaseB, y := o.y.move old.spbaseA old.spbaseB old.spsize new.spbaseA new.spbaseB }

/-- The slot that a restore occupies until it is over (R320). -/
def Image.slot (i : Image) (p : Place) (ready : Nat) : Slot :=
  { Slot.reset p.key with
    status := .restoring, readyAt := ready
    bind := { i.ctx.bind with spbaseA := p.a, spbaseB := p.b, image := BitVec.ofNat 64 i.addr } }

/-- The restored slot: registers and streams as saved, identity and bases of the new place, no dirty unit (R244, R246). -/
def Image.restored (i : Image) (at_ : Slot) : Slot :=
  { i.ctx with
    key := at_.key, status := .bound, ending := at_.ending
    bind := { i.ctx.bind with spbaseA := at_.bind.spbaseA, spbaseB := at_.bind.spbaseB, image := 0 }
    copies := i.ctx.copies.map fun o => o.moved i.ctx.bind at_.bind
    mfly := i.ctx.mfly.map fun l => { l with ops := l.ops.moved i.ctx.bind at_.bind }
    dirtyV := [], dirtyM := [], dirtyG := [], chain := some (i.num, i.depth), waitsFor := none }

/-- The granules of an image put in the halves of the acting slot, with their tags (R244, R245). -/
def State.putGranules (s : State) (gs : List Granule) : State :=
  let t := s.cur
  let cells (g : Granule) : List (Nat × Byte) := g.cells.map fun c => (windowAddr t.key.core (t.granOff g.num) + c.1, c.2)
  let tags (g : Granule) : List (Nat × BitVec 3) := g.tags.map fun x => (t.granOff g.num / 2048 + x.1, x.2)
  let lo (g : Granule) : Nat := windowAddr t.key.core (t.granOff g.num)
  (gs.foldl (fun (s : State) (g : Granule) => s.freshWords (lo g) (lo g + 65536)) { s with mem := memWrites s.mem (gs.flatMap cells) }).updCore t.key.core fun c => { c with
    tags := (gs.flatMap tags).foldl (fun (ts : List (Nat × BitVec 3)) (x : Nat × BitVec 3) => setTag ts x.1 x.2) c.tags }

/-- A restore begins: the slot and its halves are taken (R244, R320). -/
def State.beginRestore (s : State) (l : Launch) (i : Image) (p : Place) : State :=
  let s := { (s.fuseFor l p.key.core).setSlot (i.slot p s.readyTime) with freeCtr := s.freeCtr + 1 }
  { s with images := s.images.map fun x => if x.num = i.num then { x with restoring := some p.key } else x }

/-- A restore into the acting slot is over: each unit from the newest image of the chain that holds it, the thread's tokens and new
halves, an acquire, what is left of its copies checked again; then held records are posted, pending faults entered and MMAs go on
(R211, R234, R243–R246). The image joins the archive, under the deltas to come. -/
def State.restore (s : State) (i : Image) : State :=
  let w := s.whole 16 i
  let t := w.restored s.cur
  let s := ({ s with cur := t }.putGranules w.grans).acquire .pkg
  let s := { s with
    tokens := s.tokens.map (fun (e : Entry) => e.rename (imageMark i.num) t.key.agent) ++ t.halfTokens
    images := s.images.filter (fun x => x.num ≠ i.num)
    archive := s.archive ++ [{ i with restoring := none }] }
  let s := s.upd fun t => { t with copies := t.copies.map s.recheckOp }
  let s := if t.ending.isSome then s.haltAll else s
  (s.postWaiting.takeFault).resumeMmas

/-- RESUMPTION: the first candidate that fits is a saved thread, whose restore begins, but an image whose digest does not match
ends with F_ECC, detail 2 (number 0); or a restore that has begun is over (number 1) (R244, R245, R315). -/
def execResumption (s : State) : Res :=
  .next (if s.ev.num = 1 then
      s.onSlot s.ev.slot fun s =>
        if s.cur.status = .restoring ∧ s.cur.readyAt ≤ s.cycle then
          (s.images.find? fun i => decide (i.restoring = some s.cur.key)).elim s s.restore
        else s
    else match s.nextBind with
      | some (.image l i, some p) => if s.chainGood i then s.beginRestore l i p else s.endImage i 0x11
      | _ => s)

end Sys2Proof.Machine
end

