-- ==== Sys2Proof/Machine/Remote.lean ====
section
/-! DEFINITION. Chunks and requests of another module at their home die: the receiving module's checks, the shadow view of a pair, and
what goes back (R141, R205, R280, R358); the basics of module links that they need. -/

namespace Sys2Proof.Machine

/-! ### Links -/

/-- Sequence numbers count modulo 2^24 (R356). -/
def seqMod : Nat := 2 ^ 24

/-- The distance from a to b. -/
def seqDist (a b : Nat) : Nat := (b + seqMod - a % seqMod) % seqMod

def findLink (ls : List Link) (n : Nat) : Option Link := ls.find? fun l => l.num = n

/-- A change to a link. -/
def State.updLink (s : State) (n : Nat) (f : Link → Link) : State :=
  { s with links := s.links.map fun l => if l.num = n then f l else l }

/-- The job that a link serves: the first whose torus uses it (R366). -/
def State.linkJob (s : State) (n : Nat) : Option Job := s.jobs.find? fun j => j.usesLink n

/-- The remote-module agent of a link's peer (R30). -/
def Link.peerAgent (l : Link) : AgentId := BitVec.ofNat 32 (0x30000000 + (l.peer.elim 0 Prod.fst) % 65536)

/-- A job virtual address that the remote module touches: its access and home, or the cause and detail of the refusal
(R199, R205, R280). -/
def State.remoteAdmit (s : State) (j : Job) (agent : AgentId) (va space : Nat) (kind : AccKind) : Except (BitVec 8 × Nat) Access :=
  let g : CoreId := BitVec.ofNat 9 (16 * j.dies.headD 0)
  let byToken (key home : Nat) (k : PageKind) : Except (BitVec 8 × Nat) Access :=
    match findRegion s.tokens j.id va with
    | none => .error (0x05, 0)
    | some e => match s.tokenCheck e agent va kind false with
      | .error (c, d) => .error (BitVec.ofNat 8 c, d)
      | .ok put => .ok { key := key, kind := k, put := put, home := home, held := none }
  if space = 0 then
    if !inPages va then .error (0x03, 0)
    else match s.translate g j.id ((findRegion s.tokens j.id va).elim va fun e => e.behind va) with
      | .error f => .error (f.cause, f.detail.toNat)
      | .ok m =>
        if !m.pte.w || (decide (kind = .rmw) && !m.pte.r) then .error (0x04, 0) else byToken m.pa (homeDie m.pa) m.kind
  else if !inSpads va then .error (0x03, 0)
  else byToken ((findRegion s.tokens j.id va).elim va fun e => e.behind va) (dieOf (windowCore va)) .release

/-- The first refusal among the bytes of a message, one in each granule. -/
def State.remoteFault (s : State) (j : Job) (agent : AgentId) (cells : List (Nat × Byte)) : Option (BitVec 8 × Nat) :=
  (cells.foldl (fun (p : Option (BitVec 8 × Nat) × Option Nat) (c : Nat × Byte) =>
    if p.1.isSome || p.2 = some (c.1 / 65536) then p
    else match s.remoteAdmit j agent c.1 0 .store with
      | .error f => (some f, p.2)
      | .ok _ => (none, some (c.1 / 65536))) (none, none)).1

/-- The die that homes a message's target; none where the address has no page (R358). -/
def State.msgHome (s : State) (j : Job) (m : LinkMsg) : Option Nat :=
  let at_ (va space : Nat) : Option Nat :=
    if space = 0 then (match s.translate (BitVec.ofNat 9 (16 * j.dies.headD 0)) j.id va with | .ok p => some (homeDie p.pa) | .error _ => none)
    else if inSpads va then some (dieOf (windowCore va)) else none
  match m with
  | .chunk _ _ _ cells => at_ (cells.headD (0, 0)).1 0
  | .catom _ va _ space _ _ _ => at_ va.toNat space
  | _ => none

/-- A remote CATOM at its home; the granule's tag where it writes (R109, R199, R205). -/
def State.remoteAtom (s : State) (j : Job) (a : Access) (r : OpRef) (va size : Nat) (code : AtomOp) (b c : Word) : LinkMsg × State :=
  match eccIn s.bad a.key size with
  | some (_, l) => (.refused r 0x11 (BitVec.ofNat 16 l), s)
  | none =>
    let old := memNat s.mem a.key size
    let bn := b.toNat % 2 ^ (8 * size)
    let cn := c.toNat % 2 ^ (8 * size)
    let cells := if atomStores code old cn then cellsAt a.key (bytesOf size (atomNew code size old bn cn)) else []
    let s := (s.correct a.key size).perform j.id (BitVec.ofNat 9 (16 * a.home)) (BitVec.ofNat 64 va) cells (if a.put then size else 0)
    let s := s.stampTags 0 (cells.map Prod.fst)
    (.response r (BitVec.ofNat 64 old), s.wakeAll (cellsAt a.key (List.replicate size 0)))

/-- A chunk at its home: the bytes of each granule are written as one store, and a window counts them once (R104, R210, R292). -/
def State.remoteChunk (s : State) (j : Job) (l : Link) (r : OpRef) (n : Nat) (cells : List (Nat × Byte)) : State :=
  let again := l.counted.contains (r, n)
  let s := (cells.map fun c => c.1 / 65536).eraseDups.foldl (fun (s : State) (gr : Nat) =>
    let cs := cells.filter fun c => decide (c.1 / 65536 = gr)
    let va := (cs.headD (0, 0)).1
    match s.remoteAdmit j l.peerAgent va 0 .store with
    | .error _ => s
    | .ok a => s.performAt j.id (BitVec.ofNat 9 (16 * a.home)) (BitVec.ofNat 64 va) (cs.map fun c => (a.key + c.1 - va, c.2))
        (if a.put && !again then cs.length else 0) (cs.foldr (fun c ls => addLine ls c.1) [])) s
  s.updLink l.num fun l => { l with counted := if again then l.counted else (r, n) :: l.counted }

/-- A chunk from a pair = 1 handle: where it goes when the handle's w0 names a pair, the shadow view (R141). -/
def State.remoteShadow (s : State) (j : Job) (pair : Option (Nat × Nat)) (cells : List (Nat × Byte)) : Except (BitVec 8 × Nat) (List (Nat × Byte)) :=
  match pair.bind fun p => (findRegion s.tokens j.id p.1).map fun e => (e, p.2) with
  | none => .ok cells
  | some (e, base) =>
    let half := 2 ^ (e.log2 - 1)
    if e.log2 < 17 then .error (0x01, 4)
    else if e.base ≤ base ∧ base < e.base + half then .ok (cells.map fun c => (c.1 + half, c.2)) else .ok cells

/-- The region of a pair is marked as one when its owner, the peer's agent, writes through a pair handle (R141). -/
def State.remotePair (s : State) (j : Job) (agent : AgentId) (pair : Option (Nat × Nat)) : State :=
  match pair.bind fun p => findRegion s.tokens j.id p.1 with
  | some e => if e.owner = agent then { s with tokens := putEntry s.tokens { e with paired := true } } else s
  | none => s

/-- A chunk or request from the peer at its home die: checked and performed, and what goes back over the link (R205, R358). -/
def State.forward (s : State) (j : Job) (l : Link) (m : LinkMsg) : Option LinkMsg × State :=
  match m with
  | .chunk r n pair cells =>
    (match s.remoteShadow j pair cells with
    | .error (c, d) => (some (.refused r c (BitVec.ofNat 16 d)), s)
    | .ok cells => match s.remoteFault j l.peerAgent cells with
      | some (c, d) => (some (.refused r c (BitVec.ofNat 16 d)), s)
      | none => (some (.performed r n), (s.remoteChunk j l r n cells).remotePair j l.peerAgent pair))
  | .catom r va size space code b c =>
    (match s.remoteAdmit j l.peerAgent va.toNat space .rmw with
    | .error (c, d) => (some (.refused r c (BitVec.ofNat 16 d)), s)
    | .ok a => let (ans, s') := s.remoteAtom j a r va.toNat size code b c; (some ans, s'))
  | _ => (none, s)

/-! ### What a Millstone holds (R358) -/

/-- A change to the message of a link that ends with a flit. -/
def State.updHeld (s : State) (link last : Nat) (f : HeldMsg → HeldMsg) : State :=
  { s with held := s.held.map fun h => if h.link = link ∧ h.last = last then f h else h }

/-- What the chunk frame of a held message carries: the chunk's bytes, or the request's two operands (R343; DESIGN CHOICE for the latter,
log 132). -/
def State.heldCells (s : State) (j : Job) (m : LinkMsg) : List (Nat × Byte) :=
  match m with
  | .chunk _ _ _ cells => cells
  | .catom _ va _ _ _ b c => (bytesOf 8 b.toNat ++ bytesOf 8 c.toNat).zipIdx.map fun x =>
      ((findRegion s.tokens j.id va.toNat).elim va.toNat (fun e => e.behind va.toNat) + x.2 % 4, x.1)
  | _ => []

/-- The chunk number of a message (R343). -/
def LinkMsg.num (m : LinkMsg) : Nat := match m with | .chunk _ n _ _ => n | _ => 0

/-- A message with the bytes that its frame has brought. -/
def LinkMsg.carried (m : LinkMsg) (cells : List (Nat × Byte)) : LinkMsg :=
  let word (bs : List (Nat × Byte)) : Word := BitVec.ofNat 64 (ofBytes ((bs.take 8).map Prod.snd))
  match m with
  | .chunk r n pair _ => .chunk r n pair cells
  | .catom r va size space code _ _ => .catom r va size space code (word cells) (word (cells.drop 8))
  | m => m

/-- A held message reaches its home die: it is performed, and its answer waits to go back over its circuit (R358). -/
def State.deliverHeld (s : State) (link last : Nat) (cells : List (Nat × Byte)) : State :=
  match s.held.find? fun h => decide (h.link = link) && decide (h.last = last) && h.answer.isNone, findLink s.links link, s.linkJob link with
  | some h, some l, some j =>
    let (ans, s) := s.forward j l (h.msg.carried cells)
    s.updHeld link last fun h => { h with answer := ans }
  | _, _, _ => s

end Sys2Proof.Machine
end

