-- ==== Sys2Proof/Machine/Fabric.lean ====
section
/-! DEFINITION. The Huzil fabric: ports and light (R335, R336, R347), the sequencer (R339, R340), framing (R343–R345),
faults and re-routing (R346–R349), and its events. -/

namespace Sys2Proof.Machine

/-! ### Ports and wavelengths -/

/-- Usable ports of an endpoint (R347). -/
def portCount (num : Nat) : Nat := if num < 32 then 8 else 12

/-- The half of the module that an endpoint lies in (R336). -/
def halfOf (num : Nat) : Nat := if num < 32 then num / 16 else (num - 32) / 2

/-- The data wavelengths that reach an endpoint (R336). -/
def State.wavesAt (s : State) (num : Nat) : BitVec 16 :=
  (List.range 16).foldl (fun (m : BitVec 16) (w : Nat) =>
    if s.badLasers.contains (2 * w + halfOf num) then m else m ||| (1#16 <<< w)) 0

/-- Both sources of the control wavelength have failed (R336). -/
def State.controlLost (s : State) : Bool := s.badLasers.contains 32 && s.badLasers.contains 33

/-- The endpoints of a circuit's path: the source first (R346). -/
def Circuit.path (c : Circuit) : List Endpoint := c.src :: c.dsts

/-- The data wavelengths that survive on a path. -/
def State.pathWaves (s : State) (es : List Endpoint) : BitVec 16 :=
  es.foldl (fun (m : BitVec 16) (e : Endpoint) => m &&& s.wavesAt e.num) (BitVec.allOnes 16)

/-- A circuit occupies a port in a direction: outgoing at its source, incoming at its destinations (R335). -/
def Circuit.uses (c : Circuit) (e : Endpoint) (out : Bool) : Bool := if out then decide (c.src = e) else c.dsts.contains e

/-- The launch whose circuit occupies a port in a direction. -/
def State.portUser (s : State) (e : Endpoint) (out : Bool) : Option Nat :=
  (s.launches.find? fun l => l.circuits.any fun c => c.uses e out).map fun l => l.num

/-- The partition may use a port: any die port, and the Millstone ports assigned to it (R347, R350). -/
def State.portOf (s : State) (part : BitVec 16) (e : Endpoint) : Bool := decide (e.num < 32) || s.millPorts.contains (e, part)

/-- The ports that a search for a failed port tries, in order (R347). -/
def searchPorts (e : Endpoint) : List Endpoint :=
  (List.range (portCount e.num - 1)).map fun i => { e with port := (e.port + 1 + i) % portCount e.num }

/-- The port search of R347. -/
def State.portSearch (s : State) (part : BitVec 16) (e : Endpoint) (out : Bool) : Option Endpoint :=
  (searchPorts e).find? fun x => s.portOf part x && !s.badPorts.contains x && (s.portUser x out).isNone

/-- A change to a launch. -/
def State.updLaunch (s : State) (n : Nat) (f : Launch → Launch) : State :=
  { s with launches := s.launches.map fun l => if l.num = n then f l else l }

/-- A change to a circuit of a launch. -/
def State.updCircuit (s : State) (n ch : Nat) (f : Circuit → Circuit) : State :=
  s.updLaunch n fun l => { l with circuits := l.circuits.map fun c => if c.ch = ch then f c else c }

/-! ### FABRIC records (R346) -/

/-- Wavelengths lost at a port: 16 data bits and the control bit. -/
def lostAll : Nat := 0x1FFFF

/-- A FABRIC record. -/
def fabricRecord (status ch : Nat) (e : Endpoint) (detect establish lost : Nat) (cause : BitVec 8) (retries : Nat) : Record :=
  { kind := 6, status := BitVec.ofNat 16 status, tag := BitVec.ofNat 32 (ch + e.num * 256 + e.port * 65536)
    count := BitVec.ofNat 64 (detect + establish * 2 ^ 32), poison := BitVec.ofNat 64 lost
    code := BitVec.ofNat 32 (cause.toNat + ch * 256), retries := BitVec.ofNat 16 (min retries 0xFFFF) }

/-- The operation of a thread that is in flight on a circuit. -/
def Slot.onCircuit (t : Slot) (launch ch : Nat) : Option CopyOp :=
  if t.bind.launch = launch then
    t.copies.find? fun o => o.chs.contains ch && (match o.phase with | .ended .. => false | .posting => false | .hit .. => false | _ => true)
  else none

/-- The asynchronous entry that goes with a FABRIC record of an operation (R237). -/
def fabricEntry (cause : BitVec 8) (ch : Nat) (g : CoreId) (o : CopyOp) : AsyncFault :=
  { cause := cause, detail := BitVec.ofNat 16 ch, stream := 3, fpc := o.fpc, finsn := o.finsn, addr := o.chunkVa g o.progress }

/-- A FABRIC record goes to every thread of the launch with an operation in flight on the circuit, a saved thread's COLL among them,
or else where its route says with destinations 0 and 1 acting as 2 (R211, R234, R237). -/
def State.fabricNotice (s : State) (l : Launch) (ch : Nat) (r : Record) : State :=
  let cause : BitVec 8 := r.code.setWidth 8
  let ks := s.slots.filterMap fun t => if t.live then (t.onCircuit l.num ch).map fun o => (t.key, o) else none
  let is := s.images.filterMap fun i => match i.ctx.onCircuit l.num ch with
    | some o => if o.major = .coll then some (i, o) else none
    | none => none
  if ks.isEmpty && is.isEmpty then
    (match l.byte 0x7A % 8 with
    | 3 => s.toCorelo l.job r false
    | 4 => s.toCorelo l.job r true
    | _ => s.toHandlerThread l (.plain r none))
  else
    let s := ks.foldl (fun (s : State) (k : SlotId × CopyOp) => s.onSlot k.1 fun s => s.deliver 2 (.plain r none) (fabricEntry cause ch k.1.core k.2)) s
    is.foldl (fun (s : State) (i : Image × CopyOp) => s.deliverSaved i.1 2 (.plain r none) (fabricEntry cause ch i.1.ctx.key.core i.2)) s

/-! ### Operations on a circuit that stops (R208, R209, R340) -/

/-- A change to every operation of a launch on a circuit; of a saved thread only its COLLs run on (R211). -/
def State.mapOps (s : State) (launch ch : Nat) (f : CoreId → CopyOp → CopyOp) : State :=
  let g (t : Slot) : Slot :=
    if t.bind.launch = launch then
      { t with copies := t.copies.map fun o => if o.chs.contains ch then f t.key.core o else o }
    else t
  let h (t : Slot) : Slot :=
    if t.bind.launch = launch then
      { t with copies := t.copies.map fun o => if o.chs.contains ch && decide (o.major = .coll) then f t.key.core o else o }
    else t
  { s with cur := g s.cur, others := s.others.map g, images := s.images.map fun i => { i with ctx := h i.ctx } }

/-- Frames of operations that have stopped: what they carry is performed nowhere, and what waits to be sent goes. -/
def Circuit.void (c : Circuit) (p : OpId → Bool) : Circuit :=
  { c with
    frames := c.frames.map fun f => if f.op.elim false p then { f with op := none } else f
    outbox := c.outbox.filter fun x => !p x.1 }

/-- The frames of some operations of a launch are void on every circuit. -/
def State.voidFrames (s : State) (launch : Nat) (p : OpId → Bool) : State :=
  s.updLaunch launch fun l => { l with circuits := l.circuits.map fun c => c.void p }

/-- The copies of a launch on a circuit that are under way. -/
def State.opsOn (s : State) (launch ch : Nat) : List OpId :=
  s.slots.flatMap fun t =>
    if t.bind.launch = launch then (t.copies.filter fun o => o.chs.contains ch && decide (o.major ≠ .coll)).map fun o => t.opId o.id else []

/-- An operation that has not ended ends at its progress point with a status; a CPY may have more chunks done. -/
def CopyOp.endAt (o : CopyOp) (g : CoreId) (status : Nat) (cause : BitVec 8) (detail : Nat) : CopyOp :=
  match o.phase with
  | .ended .. => o
  | .posting => o
  | _ => o.toProgress.stop status cause (BitVec.ofNat 16 detail) (o.chunkVa g o.progress)

/-- A collective in which a thread of the launch uses the circuit ends for every member (R331). -/
def State.stopColls (s : State) (launch ch : Nat) (cause : BitVec 8) (detail : Nat) : State :=
  let e : Ending := { status := 2, cause := cause, detail := BitVec.ofNat 16 detail, count := 0, undef := true }
  { s with colls := s.colls.map fun c =>
      if c.got.any fun x => x.here && decide (x.launch = launch) && x.chs.contains ch then { c with ending := c.ending.or (some e) } else c }

/-- What a circuit's failure makes of a COLL on it: under automatic retry one more retry; else one on its way fails, and one at its
unit ends with the collective (R331). -/
def CopyOp.collHit (o : CopyOp) (retry : Bool) (cause : BitVec 8) (detail : Nat) : CopyOp :=
  match o.phase with
  | .toUnit => if retry then { o.toProgress with retries := o.retries + 1 } else { o with phase := .hit cause (BitVec.ofNat 16 detail) }
  | .atUnit => if retry then { o with retries := o.retries + 1 } else o
  | _ => o

/-- The COLL that a notice completes. -/
def Notice.ends (x : Notice) (o : CopyOp) : CopyOp := { o with acc := BitVec.ofNat 64 x.count, phase := .ended x.status x.cause x.detail }

/-- A saved thread's COLL is over: its record joins those that its saved context holds, in order of arrival (R211, R213). -/
def State.completeColl (s : State) (i : Image) (o : CopyOp) (x : Notice) : State :=
  let id := i.ctx.opId o.id
  if x.status = 0 ∧ !o.post then s.finishOp (some id)
  else
    let r := (x.ends o).record x.status x.cause x.detail s.freeCtr
    let s : State := { s with freeCtr := s.freeCtr + 1, images := s.images.map fun (y : Image) => if y.num = i.num then
      { y with ctx := { y.ctx with copies := y.ctx.copies.map fun (p : CopyOp) => if p.id = o.id then { x.ends o with phase := .posting } else p } } else y }
    if x.status = 0 then s.completeSaved i (o.report r id)
    else s.deliverSaved i 1 (o.report r id) { cause := x.cause, detail := x.detail, stream := 3, fpc := o.fpc, finsn := o.finsn, addr := o.failAddr }

/-- A COLL of the slot's thread by its number. -/
def Slot.findColl (t : Slot) (n : Nat) : Option CopyOp := t.copies.find? fun o => decide (o.id = n) && decide (o.major = .coll)

/-- A COLL is over for a member: its operation has ended, in its slot or in its saved context (R211, R331). -/
def State.collDone (s : State) (launch : Nat) (x : Notice) : State :=
  match s.slotOfLin launch x.lin with
  | some k => s.onSlot k fun s => match s.cur.findColl x.op with
    | some o => s.putOp (x.ends o)
    | none => s
  | none => match s.images.find? fun i => i.isThread launch x.lin with
    | some i => (i.ctx.findColl x.op).elim s fun o => s.completeColl i o x
    | none => s

/-- The completed stores that crossed a circuit which is torn down are discarded, and what a matrix instruction still had to move over
it moves no more (R349; DESIGN CHOICE for the latter, log 133). -/
def Slot.dropStores (t : Slot) (launch ch : Nat) : Slot :=
  if t.bind.launch = launch then
    let keep (ps : List PendStore) : List PendStore := ps.filter fun p => p.ch ≠ some ch
    { t with stores := keep t.stores, vfly := t.vfly.map fun l => { l with stores := keep l.stores }
             mfly := t.mfly.map fun l => { l with stores := keep l.stores, loads := keep l.loads } }
  else t

/-- Requests of a launch's threads that are held on a circuit, or cross it, are lost with it (R340, R349). -/
def Slot.loseReads (t : Slot) (launch ch : Nat) : Slot :=
  let lose (r : Option HeldReq) : Option HeldReq := r.map fun r => if r.ch = ch then { r with gone := true } else r
  if t.bind.launch = launch then
    allStreams.foldl (fun (t : Slot) (e : Stream) => t.setStr e { t.str e with heldRead := lose (t.str e).heldRead }) { t with heldOn := lose t.heldOn }
  else t

/-- What waits in the scalar streams of a launch for a reply on a circuit that goes raises F_NOCIRC (R349). -/
def State.dropWaits (s : State) (launch ch : Nat) : State :=
  (s.slots.filter fun t => t.live && decide (t.bind.launch = launch)).foldl
    (fun (s : State) (t : Slot) => s.onSlot t.key fun s => (s.dropScop ch).dropMonitor ch) s

/-- A circuit goes: its ports are free, its operations end, its stores are discarded, requests on it fail (R340, R349). -/
def State.dropCircuit (s : State) (launch ch : Nat) (cause : BitVec 8) (detail : Nat) : State :=
  match findLaunch s.launches launch with
  | none => s
  | some l =>
    match findCircuit l.circuits ch with
    | none => s
    | some c =>
      let s := c.notices.foldl (fun (s : State) (x : Notice) => s.collDone launch x) s
      let s := s.updLaunch launch fun l => { l with circuits := l.circuits.filter fun c => c.ch ≠ ch }
      let s := s.voidFrames launch (s.opsOn launch ch).contains
      let s := s.stopColls launch ch cause detail
      let s : State := s.mapOps launch ch fun (g : CoreId) (o : CopyOp) => if o.major = .coll then o.collHit false cause detail else o.endAt g 2 cause detail
      let cut (t : Slot) : Slot := (t.dropStores launch ch).loseReads launch ch
      { s with cur := cut s.cur, others := s.others.map cut : State }.dropWaits launch ch

/-- TEARDOWN of a handle by the program (R209, R340). -/
def State.tearDown (s : State) (launch ch : Nat) : State := s.dropCircuit launch ch 0x0D (3 + ch * 256)

/-! ### ESTABLISH (R340) -/

/-- What one port of an ESTABLISH comes to: a port to use, a wait, or a failure with its cause. -/
inductive PortAnswer
  | use (e : Endpoint)
  | wait
  | fail (cause : BitVec 8)
deriving DecidableEq, Repr

/-- One port that a circuit needs (R340, R347). -/
def State.askPort (s : State) (l : Launch) (part : BitVec 16) (e : Endpoint) (out : Bool) : PortAnswer :=
  if s.badPorts.contains e then
    match s.portSearch part e out with
    | some x => .use x
    | none =>
      if (e :: searchPorts e).any fun x => s.portOf part x && !s.badPorts.contains x
          && (s.portUser x out).elim false fun n => decide (n ≠ l.num) then .wait
      else .fail 0x0E
  else match s.portUser e out with
    | none => .use e
    | some n => if n = l.num then .fail 0x01 else .wait

/-- What keeps an ESTABLISH from its ports: a port held by its own launch before a wait, a wait before a port that has failed (R340). -/
def firstBad (as : List (Endpoint × PortAnswer)) : Option (Endpoint × PortAnswer) :=
  (as.find? fun a => decide (a.2 = .fail 0x01)).or ((as.find? fun a => decide (a.2 = .wait)).or (as.find? fun a => decide (a.2 = .fail 0x0E)))

def PortAnswer.port (a : PortAnswer) (e : Endpoint) : Endpoint := match a with | .use x => x | _ => e

/-- The first endpoint of a path whose port lost a wavelength, and what it lost (R346). -/
def State.lostAt (s : State) (es : List Endpoint) : Endpoint × Nat :=
  let e := (es.find? fun e => decide (s.wavesAt e.num ≠ BitVec.allOnes 16)).getD (es.headD { num := 0, port := 0 })
  (e, (~~~ s.wavesAt e.num).toNat + if s.controlLost then 65536 else 0)

/-- The result of an ESTABLISH. -/
inductive EstResult
  | done (s : State)
  | wait (s : State)

/-- The number of re-routes of a handle so far. -/
def Launch.rerouted (l : Launch) (ch : Nat) : Nat := (l.reroutes.find? fun r => r.1 = ch).elim 0 Prod.snd

/-- An ESTABLISH of a launch in launch step t (R340). -/
def State.establish (s : State) (launch t ch : Nat) (auto multi : Bool) (src : Endpoint) (dsts : List Endpoint) : EstResult :=
  let s := s.tearDown launch ch
  match findLaunch s.launches launch with
  | none => .done s
  | some l =>
    let part := (findJob s.jobs l.job).elim 0 fun j => j.partition
    let asks := (src, s.askPort l part src true) :: dsts.map fun d => (d, s.askPort l part d false)
    let refuse (e : Endpoint) (lost : Nat) (cause : BitVec 8) : EstResult :=
      .done (s.fabricNotice l ch (fabricRecord 2 ch e t 0xFFFFFFFF lost cause (l.rerouted ch)))
    match firstBad asks with
    | some (e, .fail c) => refuse e (if c = 0x0E then lostAll else 0) c
    | some _ => .wait s
    | none =>
      let ports := asks.map fun a => a.2.port a.1
      let waves := s.pathWaves ports
      if waves = 0 ∨ s.controlLost then
        let (e, lost) := s.lostAt ports
        refuse e lost 0x0F
      else
        let c : Circuit :=
          { ch := ch, src := ports.headD src, dsts := ports.drop 1, autoretry := auto, multicast := multi,
            st := .settling (t + Config.settleSteps), waves := waves, nextSeq := 0, rxSeq := 0, frames := [], outbox := [], notices := [] }
        .done { s with launches := putLaunch s.launches { l with circuits := l.circuits ++ [c] } }

/-! ### The sequencer (R339) -/

/-- The index of the first entry of a program whose step is at least a value. -/
def firstAt (ps : List ProgEntry) (step : Nat) : Nat := (ps.findIdx? fun e => decide (step ≤ e.step)).getD ps.length

/-- The entries of a launch's program that are due in launch step t (R339). -/
def State.progLoop (s : State) (n t : Nat) : Nat → State
  | 0 => s
  | fuel + 1 =>
    match findLaunch s.launches n with
    | none => s
    | some l =>
      if l.progOver then s
      else match l.prog[l.progNext]? with
        | none => s.updLaunch n fun l => { l with progOver := true }
        | some e =>
          if l.progStep < e.step then s.updLaunch n fun l => { l with progStep := l.progStep + 1 }
          else
            let next (s : State) : State := s.updLaunch n fun l => { l with progNext := l.progNext + 1, hold := .none }
            match e.op with
            | .fin => s.updLaunch n fun l => { l with progOver := true }
            | .teardown ch => State.progLoop (next (s.tearDown n ch)) n t fuel
            | .holdUntil k =>
              if k ≤ l.stage.toNat then State.progLoop (next s) n t fuel
              else (next s).updLaunch n fun l => { l with hold := .stage k }
            | .jump target => s.updLaunch n fun l => { l with progStep := target, progNext := firstAt l.prog target }
            | .establish ch auto multi src dsts =>
              match s.establish n t ch auto multi src dsts with
              | .done s' => State.progLoop (next s') n t fuel
              | .wait s' => s'.updLaunch n fun l => { l with hold := .port }

/-- The program of a launch in launch step t, holds first (R339). -/
def State.runProg (s : State) (n t : Nat) : State :=
  match findLaunch s.launches n with
  | none => s
  | some l => match l.hold with
    | .stage k => if k ≤ l.stage.toNat then (s.updLaunch n fun l => { l with hold := .none }).progLoop n t 1100 else s
    | _ => s.progLoop n t 1100

/-- Circuits that were faulted in an earlier step are established again (R348). -/
def Circuit.resettle (c : Circuit) (t : Nat) : Circuit :=
  match c.st with
  | .faulted d _ _ _ => if d < t then { c with st := .resettling (t + Config.settleSteps) } else c
  | _ => c

/-- The launch step of the present cycle (R339). -/
def State.launchStep (s : State) (l : Launch) : Option Nat := l.step0.map fun z => s.cycle / Config.fabricStep - z

/-- FABRIC_STEP: the sequencer's work for a launch in a fabric step, once in each (R339, R348). -/
def execFabricStep (s : State) : Res :=
  .next (match findLaunch s.launches s.ev.num with
    | none => s
    | some l => match s.launchStep l with
      | none => s
      | some t =>
        if l.ran = some t then s
        else (s.updLaunch l.num fun l => { l with ran := some t, circuits := l.circuits.map fun c => c.resettle t }).runProg l.num t)

/-- A circuit whose settle time is over becomes live. -/
def Circuit.settle (c : Circuit) (t : Nat) : Circuit :=
  match c.st with
  | .settling n => if n ≤ t then { c with st := .live } else c
  | .resettling n => if n ≤ t then { c with st := .live } else c
  | _ => c

/-- CIRCUIT_LIVE: a handle of a launch becomes live at the start of its launch step (R340). -/
def execCircuitLive (s : State) : Res :=
  .next (match findLaunch s.launches s.ev.num with
    | none => s
    | some l => match s.launchStep l with
      | none => s
      | some t => s.updLaunch l.num fun l => { l with circuits := l.circuits.map fun c => if c.ch = s.ev.word.toNat then c.settle t else c })

/-! ### Faults (R346–R348) -/

/-- The path of a circuit after a fault, if it can be re-routed: failed ports replaced by the search, and the surviving
wavelengths (R348). -/
def State.reroute (s : State) (l : Launch) (c : Circuit) : Option Circuit :=
  let part := (findJob s.jobs l.job).elim 0 fun j => j.partition
  let fix (e : Endpoint) (out : Bool) : Option Endpoint := if s.badPorts.contains e then s.portSearch part e out else some e
  match fix c.src true, c.dsts.mapM fun d => fix d false with
  | some src, some dsts =>
    let waves := s.pathWaves (src :: dsts)
    if waves = 0 ∨ s.controlLost then none else some { c with src := src, dsts := dsts, waves := waves }
  | _, _ => none

/-- A circuit of a launch is hit by a fault: it stops being live, its operations stop, and it is re-routed or torn down,
with its FABRIC record (R209, R346, R348). Under automatic retry a remote CATOM whose request has left for its link goes on (DEDUCED, log 135). -/
def State.faultCircuit (s : State) (n ch : Nat) (cause : BitVec 8) (e : Endpoint) (lost : Nat) : State :=
  match findLaunch s.launches n with
  | none => s
  | some l => match findCircuit l.circuits ch, s.launchStep l with
    | some c, some t =>
      (match s.reroute l c with
      | none =>
        let s := s.fabricNotice l ch (fabricRecord 2 ch e t 0xFFFFFFFF lost cause (l.rerouted ch))
        s.dropCircuit n ch cause ch
      | some c' =>
        let k := l.rerouted ch + 1
        let s := s.fabricNotice l ch (fabricRecord 1 ch e t (t + 1) lost cause k)
        let auto := c.autoretry || l.flag 4
        let again := c.frames.filterMap fun f => f.op.map fun id => (id, f.chunk, f.out)
        let c' := { c' with
          st := .faulted t cause e lost, nextSeq := 0, rxSeq := 0, frames := []
          outbox := if auto && decide (32 ≤ c.src.num) then again ++ c.outbox else []
          notices := c.notices.map fun x => { x with seq := 0 } }
        let s := s.updLaunch n fun l => { l with
          circuits := l.circuits.map fun x => if x.ch = ch then c' else x
          reroutes := (ch, k) :: l.reroutes.filter fun r => r.1 ≠ ch }
        let s := s.voidFrames n (s.opsOn n ch).contains
        let s := if auto then s else s.stopColls n ch cause ch
        s.mapOps n ch fun g o =>
          if o.major = .coll then o.collHit auto cause ch
          else if auto then (match o.phase with
            | .running => if o.major = .catom ∧ o.arrived ≠ [] then { o with retries := o.retries + 1 } else { o.toProgress with phase := .awaitCircuit }
            | _ => o)
          else o.endAt g 1 cause ch)
    | _, _ => s

/-- The circuits, as launch and handle, that a test takes; those already faulted or being re-routed aside only when the
fault does not touch their path. -/
def State.circuitsWith (s : State) (p : Circuit → Bool) : List (Nat × Nat) :=
  s.launches.flatMap fun l => (l.circuits.filter p).map fun c => (l.num, c.ch)

/-- A port has failed: ring tuning lost, or the ninth CRC failure (R344, R346). -/
def State.loseRing (s : State) (e : Endpoint) : State :=
  if s.badPorts.contains e then s
  else
    let s := { s with badPorts := s.badPorts ++ [e], errors := { s.errors with fabric := s.errors.fabric + 1 } }
    (s.circuitsWith fun c => c.path.contains e).foldl (fun (s : State) (x : Nat × Nat) => s.faultCircuit x.1 x.2 0x0E e lostAll) s

/-- The endpoint and port that an event names. -/
def evEndpoint (n : Nat) : Endpoint := { num := n / 16, port := n % 16 }

/-- RING_TUNING_LOSS at a port (R346). -/
def execRingTuningLoss (s : State) : Res := .next (s.loseRing (evEndpoint s.ev.num))

/-- The fault touches the wavelengths that a circuit uses. -/
def State.laserHits (s : State) (src : Nat) (c : Circuit) : Bool :=
  if src < 32 then c.waves.getLsbD (src / 2) && c.path.any fun e => decide (halfOf e.num = src % 2) else s.controlLost

/-- The wavelengths lost at the ports of an endpoint, the control wavelength with them (R336, R346). -/
def State.lostWaves (s : State) (e : Endpoint) : Nat := (~~~ s.wavesAt e.num).toNat + if s.controlLost then 65536 else 0

/-- The endpoint whose port lost a wavelength that a circuit used (R346). -/
def laserEndpoint (src : Nat) (c : Circuit) : Endpoint :=
  if src < 32 then (c.path.find? fun e => decide (halfOf e.num = src % 2)).getD c.src else c.src

/-- LASER_FAILURE of a source (R336, R346). -/
def execLaserFailure (s : State) : Res :=
  .next (
    let src := s.ev.num
    if 33 < src ∨ s.badLasers.contains src then s
    else
      let s := { s with badLasers := s.badLasers ++ [src], errors := { s.errors with fabric := s.errors.fabric + 1 } }
      s.launches.foldl (fun (s : State) (l : Launch) => (l.circuits.filter (s.laserHits src)).foldl (fun (s : State) (c : Circuit) =>
        s.faultCircuit l.num c.ch 0x0F (laserEndpoint src c) (s.lostWaves (laserEndpoint src c))) s) s)

/-- PORT_RETUNE: Corelo retunes a failed port that no circuit names (R347). -/
def execPortRetune (s : State) : Res :=
  .next (
    let e := evEndpoint s.ev.num
    if (s.circuitsWith fun c => c.path.contains e).isEmpty then { s with badPorts := s.badPorts.filter fun x => x ≠ e } else s)

/-! ### Chunk frames (R343–R345) -/

/-- The first address, on the way of a unit, of the bytes of a collective's buffer: by the translations that its tensor holds
(R141, R299). -/
def State.unitKey (s : State) (g : CoreId) (job : Nat) (x : Tensor) (va : Nat) : Nat :=
  let a := (findRegion s.tokens job va).elim va fun e => e.behind va
  if inPages a then (x.page a).getD (match s.translate g job a with | .ok m => m.pa | .error _ => 0) else a

/-- Bytes that a unit writes into a buffer, at their homes (R104). -/
def State.unitWrite (s : State) (g : CoreId) (job : Nat) (y : Tensor) (cells : List (Nat × Byte)) : State :=
  match cells with
  | [] => s
  | c :: _ => s.performAt job g (BitVec.ofNat 64 c.1) (cells.map fun b => (s.unitKey g job y b.1, b.2)) 0
      (cells.foldr (fun b ls => addLine ls b.1) [])

/-- A thread's context by launch and linear instance number, in its slot or saved. -/
def State.context (s : State) (launch lin : Nat) : Option Slot :=
  match s.slotOfLin launch lin with
  | some k => some (s.slotAt k)
  | none => (s.images.find? fun i => i.isThread launch lin).map fun i => i.ctx

/-- The bytes of chunk n of a COLL's contribution (R329). -/
def State.collPayload (s : State) (t : Slot) (o : CopyOp) (n : Nat) : ChunkOut :=
  let g : CoreId := o.argC.setWidth 9
  { cells := (List.range (min 4096 (o.x.imageLen - 4096 * n))).map fun i =>
      let va := o.x.imageVa g (4096 * n + i)
      (va, s.byteAt (s.unitKey g t.bind.job o.x va))
    poison := 0, range := false, crc := 0, out := 0 }

/-- The place of a circuit on the way of an operation's chunks: behind the source first (R342). -/
def CopyOp.leg (o : CopyOp) (ch : Nat) : Nat := o.chs.findIdx fun c => c = ch

/-- A circuit is the last on the way of an operation's chunks. -/
def CopyOp.lastLeg (o : CopyOp) (ch : Nat) : Bool := decide (o.chs.getLast? = some ch)

/-- Chunk n of an operation may go on a circuit: it is not there yet, and it has come over the one before (R207, R342). -/
def CopyOp.mayGo (o : CopyOp) (c : Circuit) (id : OpId) (n : Nat) : Bool :=
  let sent (m : Nat) : Bool := c.frames.any fun f => decide (f.op = some id) && decide (f.chunk = m)
  !o.done.contains n && !sent n && !o.arrived.contains (c.ch, n)
    && (decide (o.leg c.ch = 0) || o.arrived.contains (o.chs[o.leg c.ch - 1]?.getD 0, n))
    && (!o.tr.ordered || (List.range n).all fun m => o.done.contains m || sent m || o.arrived.contains (c.ch, m))

/-- The chunk of an operation of a die that goes next on a circuit. -/
def CopyOp.nextFrame (o : CopyOp) (own : Nat) (c : Circuit) (id : OpId) : Option Nat :=
  let goes := match o.phase with
    | .running => o.framedOn own c && o.chs.contains c.ch
    | .toUnit => decide (o.chs.head? = some c.ch)
    | _ => false
  if goes then (List.range o.chunks).find? (o.mayGo c id) else none

/-- The Millstone takes the chunk of an LCPY or a remote CATOM: its link is up, does not drain, and has room (R356, R367). -/
def State.linkTakes (s : State) (o : CopyOp) : Bool :=
  match s.links.find? fun l => l.num = o.link with
  | some l => (decide (l.st = .up) || decide (l.st = .restripe)) && !l.draining && decide (l.queue.length < 2)
  | none => false

/-- A copy of the acting thread sends chunk n on a circuit of its way: what it carries, or the operation ends with the fault found
in its data (R207, R212, R343). -/
def State.loadFrame (s : State) (c : Circuit) (o : CopyOp) (n : Nat) : State × Option ChunkOut :=
  if o.major = .catom then (s, some (s.catomRequest o))
  else match s.makeChunk o.carried n with
  | (s, o', some r) => (if o.lastLeg c.ch then s.putOp { o' with tr := o.tr } else s, some r)
  | (s, o', none) => (s.putOp { o' with tr := o.tr }, none)

/-- The next chunk of a bound thread's copies on a circuit. -/
def State.copyFrame (s : State) (l : Launch) (c : Circuit) : Option (Slot × CopyOp × Nat) :=
  s.slots.findSome? fun t =>
    if t.status = .bound ∧ t.bind.launch = l.num then
      t.copies.findSome? fun o =>
        if decide (o.major = .coll) || s.opHeld o || (o.remote && !s.linkTakes o) then none
        else (o.nextFrame (dieOf t.key.core) c (t.opId o.id)).map fun n => (t, o, n)
    else none

/-- The next chunk that a matrix instruction of the launch moves over a circuit: its landing and its bytes (R342, R343). -/
def State.matrixFrame (s : State) (l : Launch) (c : Circuit) : Option (OpId × PendStore) :=
  s.slots.findSome? fun t =>
    if t.live && decide (t.bind.launch = l.num) then
      t.mfly.findSome? fun m =>
        ((m.loads ++ m.stores).find? fun p => decide (p.ch = some c.ch) && !(p.bytes.any fun b => s.banksHeld b.1)
          && !c.frames.any fun f => decide (f.op = some (t.opId m.id)) && decide (f.chunk = p.due)).map fun p => (t.opId m.id, p)
    else none

/-- The next chunk of a contribution on a circuit, once the banks it lies in are free; of a saved thread's too (R184, R211, R329). -/
def State.collFrame (s : State) (l : Launch) (c : Circuit) : Option (Slot × CopyOp × Nat) :=
  ((s.slots.filter fun t => t.live) ++ s.images.map fun i => i.ctx).findSome? fun t =>
    if t.bind.launch = l.num then
      t.copies.findSome? fun o => if decide (o.major = .coll) && !s.opHeld o then (o.nextFrame (dieOf t.key.core) c (t.opId o.id)).map fun n => (t, o, n) else none
    else none

/-- A frame goes on its way under the next sequence number (R343). -/
def Circuit.pushFrame (c : Circuit) (op : Option OpId) (held : Option (Nat × Nat)) (chunk : Nat) (out : ChunkOut) : Circuit :=
  { c with
    frames := c.frames ++ [{ seq := c.nextSeq, op := op, chunk := chunk, fails := 0, st := .flying, out := out, held := held }]
    nextSeq := (c.nextSeq + 1) % 2 ^ 32 }

/-- A frame of an operation of this module. -/
def Circuit.push (c : Circuit) (op : OpId) (chunk : Nat) (out : ChunkOut) : Circuit := c.pushFrame (some op) none chunk out

/-- The next chunk or request of another module that its Millstone carries on over a circuit (R358). -/
def State.heldFrame (s : State) (l : Launch) (c : Circuit) : Option (HeldMsg × ChunkOut) :=
  (s.held.find? fun h => decide (h.via = some (l.num, c.ch)) && h.answer.isNone && !c.frames.any fun f => decide (f.held = some (h.link, h.last))).bind
    fun h => (s.linkJob h.link).map fun j => (h, { cells := s.heldCells j h.msg, poison := 0, range := false, crc := 0, out := 0 })

/-- Every chunk of a copy has been sent on a circuit: the notice that completes it at the receiver follows (R345;
DEDUCED that nothing at the receiver waits for it, log 144). -/
def Circuit.noteDone (c : Circuit) (id : OpId) (o : CopyOp) : Circuit :=
  if o.lastLeg c.ch && (List.range o.chunks).all fun n =>
      o.done.contains n || o.arrived.contains (c.ch, n) || c.frames.any fun f => decide (f.op = some id) && decide (f.chunk = n) then
    { c with notices := c.notices ++ [{ seq := c.nextSeq, lin := id.lin, op := id.op, status := 0, cause := 0, detail := 0, count := 0 }] }
  else c

/-- Nothing but bytes. -/
def ChunkOut.plain (cells : List (Nat × Byte)) : ChunkOut := { cells := cells, poison := 0, range := false, crc := 0, out := 0 }

/-- A sender puts the next chunk frame on a live circuit: at most 64 are unacknowledged (R343, R344). -/
def State.sendFrame (s : State) (l : Launch) (c : Circuit) : State :=
  if c.isLive && decide (c.frames.length < 64) then
    match c.outbox with
    | (id, n, out) :: rest => s.updCircuit l.num c.ch fun c => { c.push id n out with outbox := rest }
    | [] => match s.heldFrame l c, s.copyFrame l c with
      | some (h, out), _ => s.updCircuit l.num c.ch fun c => c.pushFrame none (some (h.link, h.last)) h.msg.num out
      | none, some (t, o, n) =>
        (match (s.focus t.key).loadFrame c o n with
        | (s', some out) => (s'.focus s.cur.key).updCircuit l.num c.ch fun c => (c.push (t.opId o.id) n out).noteDone (t.opId o.id) o
        | (s', none) => s'.focus s.cur.key)
      | none, none => match s.matrixFrame l c, s.collFrame l c with
        | some (id, p), _ => s.updCircuit l.num c.ch fun c => c.push id p.due (.plain p.bytes)
        | none, some (t, o, n) => s.updCircuit l.num c.ch fun c => c.push (t.opId o.id) n (s.collPayload t o n)
        | none, none => s
  else s

/-- The launch and circuit that a fabric event names. -/
def State.evCircuit (s : State) : Option (Launch × Circuit) :=
  match findLaunch s.launches s.ev.num with
  | none => none
  | some l => (findCircuit l.circuits s.ev.word.toNat).map fun c => (l, c)

/-- A change to one frame of a circuit. -/
def Circuit.updFrame (c : Circuit) (seq : Nat) (g : Frame → Frame) : Circuit :=
  { c with frames := c.frames.map fun f => if f.seq = seq then g f else f }

/-- A frame's bytes: header, payload, and the CRC-64 over both (R343). -/
def Frame.bytes (f : Frame) (ch : Nat) : List Byte :=
  let payload := f.out.cells.map Prod.snd
  let head := bytesOf 4 f.seq ++ bytesOf 2 ch ++ bytesOf 2 (payload.length - 1) ++ bytesOf 2 (f.op.elim 0 fun o => o.op) ++ bytesOf 4 f.chunk ++ bytesOf 2 0
  head ++ payload ++ bytesOf 8 (crc64 (head ++ payload)).toNat

/-- Bytes as they arrive: whole, or with any of them changed on the way, which the manual leaves open. -/
def garble (ctr : Nat) (bs : List Byte) : List Byte :=
  if Config.freeBool ctr then bs else bs.zipIdx.map fun b => b.1 ^^^ BitVec.ofNat 8 (Config.freeNat (ctr + 1 + b.2))

/-- The CRC of bytes that arrive is good (R344). -/
def frameGood (bs : List Byte) : Bool :=
  decide (bytesOf 8 (crc64 (bs.take (bs.length - 8))).toNat = bs.drop (bs.length - 8))

/-- A frame with the payload that arrived. -/
def Frame.arrive (f : Frame) (bs : List Byte) : Frame :=
  { f with st := .here, out := { f.out with cells := f.out.cells.zip ((bs.drop 16).take f.out.cells.length) |>.map fun c => (c.1.1, c.2) } }

/-- What an LCPY or a remote CATOM puts on its link: a chunk, through a pair = 1 handle with w0 and the base by which the home module
finds the shadow view (R141), or a request (R205, R356). -/
def State.linkMsg (s : State) (o : CopyOp) (n : Nat) (cells : List (Nat × Byte)) : LinkMsg :=
  let r : OpRef := { key := s.cur.key, launch := s.cur.bind.launch, lin := s.cur.bind.lin, op := o.id }
  if o.major = .catom then
    let o := o.operands cells
    .catom r o.y.base (4 * 2 ^ (wbits o.tw 0 2 - 2)) o.y.space o.atom o.argB o.argC
  else .chunk r n (if o.y.pair then some (o.argB.toNat, o.y.base.toNat) else none) cells

/-- A chunk or request passes from its Millstone to the link (R205, R356). -/
def State.handToLink (s : State) (o : CopyOp) (n : Nat) (cells : List (Nat × Byte)) : State :=
  let m := s.linkMsg o n cells
  { s with links := s.links.map fun k => if k.num = o.link then { k with queue := k.queue ++ [m] } else k }

/-- A chunk of a copy of the acting thread is checked in behind a circuit: on its last one it is performed, or handed to the link, or it
is performed as its ACK reaches the sender (R207, R208, R344). -/
def State.checkInOp (s : State) (c : Circuit) (o : CopyOp) (f : Frame) : State :=
  if o.phase ≠ .running then s
  else if !o.lastLeg c.ch then s.putOp { o with arrived := (c.ch, f.chunk) :: o.arrived }
  else if o.remote then
    (s.handToLink o f.chunk f.out.cells).putOp { o with arrived := (c.ch, f.chunk) :: o.arrived }
  else if o.atAck then s
  else
    let (s, o) := s.putChunk o f.chunk f.out
    s.putOp o

/-- The matrix landing of a thread with a number. -/
def Slot.landing (t : Slot) (n : Nat) : Option MLanding := t.mfly.find? fun l => decide (l.id = n)

/-- A change to the chunks of a matrix landing. -/
def Slot.updChunks (t : Slot) (n : Nat) (f : List PendStore → List PendStore) : Slot :=
  { t with mfly := t.mfly.map fun l => if l.id = n then { l with loads := f l.loads, stores := f l.stores } else l }

/-- A chunk that a matrix instruction stores is performed at its home; a window counts it once (R192, R210, R343). -/
def State.performMatrix (s : State) (c : Circuit) (l : MLanding) (f : Frame) : State :=
  match l.stores.find? fun p => decide (p.ch = some c.ch) && decide (p.due = f.chunk) with
  | none => s
  | some p =>
    (s.performAt s.cur.bind.job s.cur.key.core p.va f.out.cells p.count p.lines).upd fun t =>
      t.updChunks l.id fun ps => ps.map fun q => if q.due = f.chunk then { q with count := 0 } else q

/-- The chunk of a frame is performed where it goes: a result chunk in its member's destination, a copy's chunk at its home or on the
way there, a matrix store's chunk at its home, another module's at its home (R207, R329, R343, R344, R358). -/
def State.performFrame (s : State) (c : Circuit) (f : Frame) : State :=
  match f.op with
  | none => f.held.elim s fun h => s.deliverHeld h.1 h.2 f.out.cells
  | some id => match s.context id.launch id.lin with
    | none => s
    | some t => match t.findOp id.op with
      | none => (t.landing id.op).elim s fun m => s.onSlot t.key fun s => s.performMatrix c m f
      | some o =>
        if o.major = .coll then
          (if 32 ≤ c.src.num then s.unitWrite (o.argC.setWidth 9) t.bind.job o.y f.out.cells else s)
        else s.onSlot t.key fun s => s.checkInOp c o f

/-- A frame's chunk goes to a scratchpad whose banks an MMA streams from (R184). -/
def State.frameHeld (s : State) (f : Frame) : Bool := f.out.cells.any fun c => s.banksHeld c.1

/-- Frames that have arrived are checked in while none below them is missing (R344). -/
def State.checkIn (s : State) (n ch : Nat) : Nat → State
  | 0 => s
  | fuel + 1 =>
    match (findLaunch s.launches n).bind fun l => findCircuit l.circuits ch with
    | none => s
    | some c => match c.frames.find? fun f => decide (f.seq = c.rxSeq) && decide (f.st = .here) with
      | none => s
      | some f =>
        if s.frameHeld f then s
        else ((s.performFrame c f).updCircuit n ch fun c =>
          { c.updFrame f.seq (fun f => { f with st := .done }) with rxSeq := (c.rxSeq + 1) % 2 ^ 32 }).checkIn n ch fuel

/-- The port at which a frame arrives: on a multicast circuit, that of the die of the member that it is for (R344, R348). -/
def State.receivingPort (s : State) (c : Circuit) (f : Frame) : Endpoint :=
  ((f.op.bind fun id => s.context id.launch id.lin).bind fun t => c.dsts.find? fun d => decide (d.num = dieOf t.key.core)).getD (c.dsts.headD c.src)

/-- CHUNK_FRAME: a frame reaches its receiver. A frame whose CRC is good is checked in once every lower one has been; a bad one is
dropped, and its ninth failure loses the port (R344). -/
def execChunkFrame (s : State) : Res :=
  .next (match s.evCircuit with
    | none => s
    | some (l, c) =>
      match c.frames.find? fun f => f.seq = s.ev.addr.toNat with
      | none => s
      | some f =>
        if !c.isLive then s
        else if f.st = .here then s.checkIn l.num c.ch 64
        else if f.st ≠ .flying then s
        else
          let sent := f.bytes c.ch
          let bs := garble s.freeCtr sent
          let s := { s with freeCtr := s.freeCtr + 1 + sent.length }
          if frameGood bs then (s.updCircuit l.num c.ch fun c => c.updFrame f.seq fun f => f.arrive bs).checkIn l.num c.ch 64
          else if 8 ≤ f.fails then s.loseRing (s.receivingPort c f)
          else s.updCircuit l.num c.ch fun c => c.updFrame f.seq fun f => { f with fails := f.fails + 1, st := .bad })

/-- The frames that an ACK covers: checked in, with every lower one, and performed, or about to be in banks that are free (R184, R344). -/
def State.ackedFrames (s : State) (fs : List Frame) : List Frame := fs.takeWhile fun f => decide (f.st = .done) && !s.frameHeld f

/-- The sender's view of an acknowledged chunk: performed, for a copy behind its last circuit; on the Millstone, for a contribution
(R208, R344). -/
def CopyOp.acked (o : CopyOp) (ch n : Nat) : CopyOp :=
  match o.phase with
  | .running => if o.lastLeg ch && !o.remote then o.markDone n else o
  | .toUnit => { o with done := if o.done.contains n then o.done else n :: o.done }
  | _ => o

/-- An acknowledged chunk of the acting thread: of a copy, or of a matrix instruction, which has moved it (R208, R343, R344). -/
def State.ackChunk (s : State) (ch n : Nat) (f : Frame) : State :=
  match s.cur.findOp n with
  | some o =>
    if decide (o.phase = .running) && o.lastLeg ch && !o.remote && o.atAck then s.performAcked o f.chunk f.out
    else s.putOp (o.acked ch f.chunk)
  | none => s.upd fun t => t.updChunks n fun ps => ps.filter fun p => p.due ≠ f.chunk ∨ p.ch ≠ some ch

/-- An acknowledged frame at its sender; a saved thread has only collectives (R208, R211, R344). -/
def State.markFrame (ch : Nat) (s : State) (f : Frame) : State :=
  match f.op with
  | none => s
  | some id => match s.slotOfLin id.launch id.lin with
    | some k => s.onSlot k fun s => s.ackChunk ch id.op f
    | none =>
      { s with images := s.images.map fun i =>
          if i.isThread id.launch id.lin then
            { i with ctx := { i.ctx with copies := i.ctx.copies.map fun o => if o.id = id.op then o.acked ch f.chunk else o } } else i }

/-- ACK: the coalesced acknowledgement of a circuit reaches the sender (R344). -/
def execAck (s : State) : Res :=
  .next (match s.evCircuit with
    | none => s
    | some (l, c) =>
      if c.isLive then
        (s.ackedFrames c.frames).foldl (State.markFrame c.ch)
          (s.updCircuit l.num c.ch fun x => { x with frames := x.frames.drop (s.ackedFrames c.frames).length })
      else s)

/-- NACK: the sender sends a chunk whose CRC failed again, under the same sequence number (R344). -/
def execNack (s : State) : Res :=
  .next (match s.evCircuit with
    | none => s
    | some (l, c) =>
      if c.isLive then
        s.updCircuit l.num c.ch fun c => c.updFrame s.ev.addr.toNat fun f => if f.st = .bad then { f with st := .flying } else f
      else s)

/-- EXPRESS_FRAME: the scalar request of a slot crosses its circuit, which is live, ahead of any chunk frame (R342, R345, R349). -/
def execExpressFrame (s : State) : Res :=
  .next (
    let t := s.slotAt s.ev.slot
    match t.heldOn with
    | none => s
    | some r =>
      let live := ((findLaunch s.launches t.bind.launch).elim [] fun l => l.circuits).any fun c => decide (c.ch = r.ch) && c.isLive
      if live && decide (t.status = .bound) then { s with agenda := .issue s.ev.slot .scalar :: s.agenda } else s)

end Sys2Proof.Machine
end

