-- ==== Sys2Proof/Machine/Collectives.lean ====
section
/-! DEFINITION. Collectives on the Millstones: COLL (R206, R325–R327), matching (R328), the default form (R304, R329), the
walker form (R330), endings (R279, R331) and notices (R345). -/

namespace Sys2Proof.Machine

/-! ### The record (R325, R326, R330) -/

/-- A level entry: bound, byte strides, peer dimension, a, b and STEP (R330). -/
structure WalkLevel where
  bound : Nat
  ss : Int
  ds : Int
  dim : Nat
  a : Int
  b : Int
  step : Bool
deriving DecidableEq, Repr

def walkLevel (r : List Byte) (n : Nat) : WalkLevel :=
  let o := 0x20 + 16 * n
  { bound := recNat r o 4, ss := signedOf 32 (recNat r (o + 4) 4), ds := signedOf 32 (recNat r (o + 8) 4), dim := recNat r (o + 12) 1,
    a := signedOf 8 (recNat r (o + 13) 1), b := signedOf 8 (recNat r (o + 14) 1), step := decide (recNat r (o + 15) 1 % 2 = 1) }

def walkLevels (r : List Byte) : List WalkLevel := (List.range 6).map (walkLevel r)

/-- The present levels, level 0 outermost. -/
def presentLevels (r : List Byte) : List WalkLevel := (walkLevels r).filter fun l => decide (l.bound ≠ 0)

/-- The record is in the walker form. -/
def isWalk (r : List Byte) : Bool := !(presentLevels r).isEmpty

def collOp (r : List Byte) : Nat := recNat r 0 1
def collType (r : List Byte) : Nat := recNat r 1 1
def collTree (r : List Byte) : Bool := decide (recNat r 2 1 = 0)
def collKeep (r : List Byte) : Bool := decide (recNat r 3 1 % 2 = 1)
def collElems (r : List Byte) : Nat := recNat r 8 4
def collChunk (r : List Byte) : Nat := recNat r 12 4
def collKey (r : List Byte) : Nat := recNat r 0x18 4

/-- The unit of a record: Millstone and unit. -/
def collUnit (r : List Byte) : Nat × Nat := (recNat r 4 1, recNat r 5 1)

/-- Bytes of an element of a data type. -/
def collSize (r : List Byte) : Nat := match collType r with | 1 => 2 | 3 => 1 | _ => 4

/-- The torus dimensions a record spans, in order. -/
def collDims (r : List Byte) : List Nat := (List.range 4).filter fun k => decide (recNat r 0x10 4 / 2 ^ (4 + k) % 2 = 1)

/-- The local member dies, in order (R326). -/
def collDies (j : Job) (r : List Byte) : List Nat :=
  (List.range 32).filter fun d =>
    if recNat r 0x10 4 % 4 = 0 then j.dies.contains d else decide (recNat r 0x14 4 / 2 ^ d % 2 = 1)

/-- The extents of the spanned dimensions. -/
def collExtents (j : Job) (r : List Byte) : List Nat := (collDims r).map fun k => j.extents[k]?.getD 1

/-- The number of this module among the modules of a collective: c_k0 + E_k0 (c_k1 + …) (R326). -/
def moduleNum (j : Job) (r : List Byte) : Nat :=
  (collDims r).foldr (fun (k n : Nat) => j.coords[k]?.getD 0 + j.extents[k]?.getD 1 * n) 0

/-- The number of members (R326). -/
def collCount (j : Job) (r : List Byte) : Nat := (collDies j r).length * (collExtents j r).foldl (· * ·) 1

/-- The member index of a die of this module (R326). -/
def memberOf (j : Job) (r : List Byte) (die : Nat) : Nat :=
  (collDies j r).findIdx (fun d => d = die) + (collDies j r).length * moduleNum j r

/-- The handle image at an offset of the record (R15, R325). -/
def collHandle (r : List Byte) (o : Nat) : Handle :=
  let w (i : Nat) : Word := BitVec.ofNat 64 (recNat r (o + 8 * i) 8)
  { w0 := w 0, w1 := w 1, w2 := w 2, w3 := w 3 }

/-- The level entries are legal (R330). -/
def levelsOk (j : Job) (r : List Byte) : Bool :=
  let ls := walkLevels r
  let n := (presentLevels r).length
  (ls.zipIdx.all fun p => decide (p.2 < n) == decide (p.1.bound ≠ 0))
    && decide (((presentLevels r).foldl (fun (n : Nat) (l : WalkLevel) => n * l.bound) 1) ≤ 2 ^ 24)
    && (ls.all fun l => decide (l.dim < 2) || (decide (l.dim < 6) && (collDims r).contains (l.dim - 2)))
    && (List.range 6).all fun i => decide (recNat r (0x2F + 16 * i) 1 < 2)
    && (collDims r).all fun k => decide (k < j.extents.length)

/-- The formats that a data type takes (R327). -/
def collFmtOk (r : List Byte) (x : Tensor) : Bool :=
  decide (x.space < 2) && !x.swzBad && match collType r with
    | 0 => decide (x.fmt = 0) | 1 => decide (x.fmt = 1) | 2 => decide (x.fmt = 6) | _ => decide (x.fmt < 9)

/-- The fields of a collective record issued on a die (R325–R327). -/
def collOk (j : Job) (r : List Byte) (die : Nat) : Bool :=
  let op := collOp r
  let copyRoot := decide (op = 3) && !isWalk r
  let chunk := collChunk r
  let word := recNat r 0x10 4
  decide (op < 4) && decide (collType r < 4) && (decide (collType r ≠ 3) || decide (op = 3)) && decide (recNat r 2 1 < 2)
    && decide (recNat r 3 1 < 2) && decide (recNat r 4 1 < 4) && decide (recNat r 5 1 < 16)
    && (if copyRoot then decide (recNat r 6 2 < collCount j r) else decide (recNat r 6 2 = 0))
    && decide (1 ≤ collElems r ∧ collElems r ≤ 2 ^ 28)
    && decide (4096 ≤ chunk ∧ chunk ≤ 2 ^ 20 ∧ chunk = 2 ^ chunk.log2)
    && decide (word % 4 < 2) && decide (word / 4 % 4 = 0) && decide (word / 256 = 0)
    && (if word % 4 = 0 then decide (recNat r 0x14 4 = 0) else (collDies j r).all j.dies.contains)
    && recZero r 0x1C 4 && recZero r 0xC0 64 && levelsOk j r && (collDies j r).contains die && decide (collCount j r ≤ 65536)

/-! ### The buffers (R327) -/

/-- A byte at an address that a collective reaches: its space's range and its page (R199, R296). -/
def State.reachFault (s : State) (x : Tensor) (a : Nat) : Option SFault :=
  if x.space = 1 then (if inSpads a then none else some (flt 0x03 0 (BitVec.ofNat 64 a)))
  else if !inPages a then some (flt 0x03 0 (BitVec.ofNat 64 a))
  else match s.translate s.cur.key.core s.cur.bind.job a with
    | .error f => some f
    | .ok _ => none

/-- The lowest and the first free byte offset of a tensor from its base. -/
def Tensor.extent (x : Tensor) : Int × Int :=
  let d1 := ((x.e1 : Int) - 1) * x.str1
  let d2 := ((x.e2 : Int) - 1) * x.str2
  (min 0 d1 + min 0 d2, max 0 d1 + max 0 d2 + (x.rowLen : Int))

/-- The addresses of a tensor's extent: base, and the first and one past the last address. -/
def Tensor.range (x : Tensor) (g : CoreId) : Int × Int × Nat :=
  let b : Int := ((x.va g x.base).toNat : Int)
  (b, b + x.extent.1, (x.extent.2 - x.extent.1).toNat)

/-- The bytes that a collective may touch through a handle: its rows, and in the walker form all of its extent (R330). -/
def collFoots (r : List Byte) (g : CoreId) (x : Tensor) : List (Nat × Nat) :=
  x.foots g 0 ++ if isWalk r then [((x.range g).2.1.toNat, (x.range g).2.2)] else []

/-- The buffer region of a handle: the one that holds all its bytes (R327). -/
def State.bufferRegion (s : State) (r : List Byte) (x : Tensor) : Chk Entry :=
  let fs := collFoots r s.cur.key.core x
  match overGranules fs (s.reachFault x) with
  | some f => .error f
  | none =>
    let first := (fs.headD (0, 0)).1
    match findRegion s.tokens s.cur.bind.job first with
    | none => regionFault 0x05 0 first
    | some e =>
      match fs.find? fun f => decide (f.1 < e.base) || decide (e.base + 2 ^ e.log2 < f.1 + f.2) with
      | some f => regionFault 0x05 0 (if f.1 < e.base then f.1 else max f.1 (e.base + 2 ^ e.log2))
      | none => if s.homeAlive e then .ok e else regionFault 0x07 0 e.base

/-- The lowest and highest offset that the levels reach with given strides. -/
def walkReach (ls : List WalkLevel) (f : WalkLevel → Int) : Int × Int :=
  ls.foldl (fun (p : Int × Int) (l : WalkLevel) => let d := ((l.bound : Int) - 1) * f l; (p.1 + min 0 d, p.2 + max 0 d)) (0, 0)

/-- A handle fits: its element count in the default form, every transfer of the walk in the walker form (R327, R330).
DESIGN CHOICE: R327 names no check for bytes of INT4 elements with an odd extent 0; a row then counts whole bytes (log 94). -/
def collFits (r : List Byte) (x : Tensor) (f : WalkLevel → Int) : Bool :=
  if isWalk r then
    let (lo, hi) := walkReach (presentLevels r) f
    let (a, b) := x.extent
    decide (a ≤ lo) && decide (hi + (collChunk r : Int) ≤ b)
  else if collType r = 3 then decide (x.imageLen = collElems r)
  else decide (x.e0 * x.e1 * x.e2 = collElems r)

/-- The agent of a Millstone unit (R30). -/
def unitAgent (mill unit : Nat) : AgentId := BitVec.ofNat 32 (0x20000000 + mill * 2 ^ 26 + unit * 2 ^ 20)

/-- The circuits of a collective: a live one to the Millstone, an established one back (R327). -/
def State.collCircuits (s : State) (mill : Nat) : Option (Nat × Nat) :=
  let own := dieOf s.cur.key.core
  match pickCircuit s.circuits fun c => c.carries own (32 + mill) && c.isLive,
      pickCircuit s.circuits fun c => decide (c.src.num = 32 + mill) && c.dsts.any fun d => d.num = own with
  | some a, some b => some (a.ch, b.ch)
  | _, _ => none

/-- A member's source is read: not under a default-form copy that has another root (R329). -/
def readsSource (r : List Byte) (member : Nat) : Bool := isWalk r || decide (collOp r ≠ 3) || decide (recNat r 6 2 = member)

/-! ### COLL (R206, R327) -/

/-- A region lent to a unit as a transfer (R123, R279). -/
def State.lendUnit (s : State) (e : Entry) (u : AgentId) : State :=
  let e' := e.lendTo u
  { s with tokens := putEntry s.tokens e' }.transferred e' u

/-- The bytes of a record at checked accesses, from their homes (R104, R206). -/
def State.recordBytes (s : State) (va : Word) : List Access → Chk (List Byte)
  | [] => .ok []
  | a :: as =>
    match eccIn s.bad a.key 8 with
    | some (_, l) => .error (flt 0x11 l va)
    | none => (State.recordBytes s (va + 8) as).map fun bs => memBytesAt s.mem a.key 8 ++ bs

/-- The span of a region. -/
def Entry.span (e : Entry) : Nat × Nat := (e.base, 2 ^ e.log2)

/-- The operation of a COLL on its way to its unit: its contribution travels in chunks, and its buffer regions are in use until its
record has been posted (R206, R329, R332). -/
def State.newColl (s : State) (o : CollArgs) (r : List Byte) (x y : Tensor) (ex ey : Entry) (chs : List Nat) (member : Nat) : CopyOp :=
  let g := s.cur.key.core
  { CopyOp.fresh .coll .none { x with pages := s.pagesOf (collFoots r g x) } { y with pages := s.pagesOf (collFoots r g y) } with
    tag := o.tag.toNat, post := o.r, chs := chs, phase := .toUnit, recd := r
    chunks := if readsSource r member then chunkCount x.imageLen else 0, rdSpans := [ex.span], wrSpans := [ey.span]
    argB := BitVec.ofNat 64 member, argC := g.setWidth 64 }

/-- COLL with its record read; none while the work of R116 in its buffers is in flight (R116, R279, R327). -/
def collWith (o : CollArgs) (r : List Byte) (s : State) : Chk (Option State) :=
  match s.job? with
  | none => .error (fIllegal 4)
  | some j => do
    let me := s.cur.key.agent
    let x := (collHandle r 0x80).tensor 0
    let y := (collHandle r 0xA0).tensor 0
    require (collOk j r (dieOf s.cur.key.core) && collFmtOk r x && collFmtOk r y) (fIllegal 4)
    let ex ← s.bufferRegion r x
    let ey ← s.bufferRegion r y
    ownerCheck me ex false
    ownerCheck me ey false
    match s.collCircuits (collUnit r).1 with
    | none => .error (flt 0x0D (firstHandle s.launch? * 256) 0)
    | some (up, down) =>
      require (collFits r x WalkLevel.ss) (flt 0x09 0 0)
      require (collFits r y WalkLevel.ds) (flt 0x09 1 0)
      if s.cur.busyIn ex.base (2 ^ ex.log2) || s.cur.busyIn ey.base (2 ^ ey.log2) || !s.fencedFor (unitAgent 0 0) then .ok none
      else
        let u := unitAgent (collUnit r).1 (collUnit r).2
        let s' := s.lendUnit ex u
        let s' := if ey.base = ex.base ∧ ey.log2 = ex.log2 then s' else s'.lendUnit ey u
        .ok (some ((s'.addOp (s.newColl o r x y ex ey [up, down] (memberOf j r (dieOf s.cur.key.core)))).dropRead .copy))

/-- The accesses of a COLL's record, on the circuit on which the read has been held, if it has (R206, R342). -/
def State.recordAccess (s : State) (o : CollArgs) : Chk (List Access) :=
  let va := s.getS o.p
  if va.toNat % 64 ≠ 0 then .error (flt 0x02 0 va) else (s.onRead .copy).checkWords va .load 32

/-- COLL; none while 32 operations are in flight, a read of its record is held on a circuit or its banks stream an MMA operand, or the
work of R116 in its buffers is in flight (R116, R184, R196, R206, R342). -/
def collIssue (o : CollArgs) (s : State) : Chk (Option State) :=
  if Config.copyLimit ≤ s.cur.copies.length then .ok none
  else match s.recordAccess o with
    | .error f => .error f
    | .ok accs =>
      if accs.any fun a => a.held.isSome || s.banksHeld a.key then .ok none
      else (s.recordBytes (s.getS o.p) accs).bind fun r => collWith o r s

/-- COLL (R206). -/
def execColl (o : CollArgs) (s : State) : Res := outcome .copy (s.dropRead .copy) ((collIssue o s).map fun r => r.getD s)

/-! ### Members and their endings (R279, R331) -/

/-- The agent that names a thread of a launch now: in its slot, or by the mark of its image. -/
def State.agentOfLin (s : State) (launch lin : Nat) : Option AgentId :=
  match s.slotOfLin launch lin with
  | some k => some k.agent
  | none => (s.images.find? fun i => decide (i.launch = launch) && decide (i.ctx.bind.lin = lin)).map fun i => imageMark i.num

/-- The regions that a unit holds for a contribution. -/
def State.regionsOf (s : State) (job mill unit : Nat) (x : Contribution) : List Entry :=
  let first (t : Tensor) : Nat := (t.va x.core t.base).toNat
  s.tokens.filter fun e => decide (e.job = job) && decide (e.owner = unitAgent mill unit) && decide (e.st ≠ .lost)
    && ((decide (e.base ≤ first x.src) && decide (first x.src < e.base + 2 ^ e.log2))
      || (decide (e.base ≤ first x.dst) && decide (first x.dst < e.base + 2 ^ e.log2)))

def State.unitRegions (s : State) (c : Coll) (x : Contribution) : List Entry := s.regionsOf c.job c.mill c.unit x

/-- A region as the unit passes it back: to the lending thread, or to its home where that thread is gone; under KEEP the
gathered one is SHARED with the members of this module (R279). -/
def State.handBuffer (s : State) (c : Coll) (x : Contribution) (keep : Bool) (e : Entry) : Entry :=
  let back : Entry := match s.agentOfLin x.launch x.lin with
    | some a => e.lendTo a
    | none => e.ret
  let d := (x.dst.va x.core x.dst.base).toNat
  if keep && decide (e.base ≤ d) && decide (d < e.base + 2 ^ e.log2) then
    { back with st := .shared, shares := (c.got.filterMap fun y => if y.here then s.agentOfLin y.launch y.lin else none).foldl addShare back.shares }
  else back

/-- A token entry changed as a transfer that no thread makes, to its new owner and those that share it (R123, R127, R259). -/
def State.passEntry (s : State) (giver : AgentId) (e : Entry) : State :=
  (e.owner :: e.shares.map Prod.fst).foldl (fun (s : State) (a : AgentId) => s.passed e giver a) { s with tokens := putEntry s.tokens e }

/-- The buffers of a contribution return (R279). -/
def State.returnBuffers (s : State) (c : Coll) (keep : Bool) (x : Contribution) : State :=
  if x.here then (s.unitRegions c x).foldl (fun (s : State) (e : Entry) => s.passEntry e.owner (s.handBuffer c x keep e)) s else s

/-- The Millstone's notice that completes a member's COLL, on the circuit to its die; where that circuit is gone it acts at
once (R329, R345). -/
def State.noticeTo (s : State) (x : Contribution) (e : Ending) : State :=
  if !x.here then s
  else
    let n : Notice := { seq := 0, lin := x.lin, op := x.op, status := e.status, cause := e.cause, detail := e.detail, count := e.count }
    let ch := (x.chs.drop 1).headD 0
    match (findLaunch s.launches x.launch).bind fun l => findCircuit l.circuits ch with
    | none => s.collDone x.launch n
    | some d => s.updCircuit x.launch ch fun c => { c with notices := c.notices ++ [{ n with seq := d.nextSeq }] }

/-- Every contribution that has arrived ends: the regions first, then the notices of the records (R279, R331). -/
def State.endAll (s : State) (c : Coll) (e : Ending) : State :=
  let s := c.got.foldl (fun (s : State) (x : Contribution) => s.returnBuffers c (collKeep x.recd) x) s
  c.got.foldl (fun (s : State) (x : Contribution) => s.noticeTo x e) s

/-! ### Matching (R328) -/

/-- The collective that a unit serves. -/
def State.servedColl (s : State) (mill unit : Nat) : Option Coll :=
  s.colls.find? fun c => c.served && decide (c.mill = mill) && decide (c.unit = unit)

/-- The record bytes 0x00–0x7F that must agree at a unit: without Millstone and unit, in which members on other modules may differ and
those of this module agree, as their records name this unit. -/
def collHead (r : List Byte) : List Byte := r.take 4 ++ (r.drop 6).take 0x7A

def illegalEnding : Ending := { status := 2, cause := 0x01, detail := 4, count := 0, undef := false }

/-- A contribution joins the collective of its key: a mismatch or a duplicate fails it (R328). -/
def Coll.join (c : Coll) (x : Contribution) (hit : Option Ending) : Coll :=
  let bad := decide (collHead x.recd ≠ collHead c.recd) || c.arrived.contains x.member
  { c with
    got := c.got ++ [x], arrived := if c.arrived.contains x.member then c.arrived else c.arrived ++ [x.member]
    ending := c.ending.or (if bad then some illegalEnding else hit) }

/-- A COLL that stands at its unit is matched: when the unit serves its key or none, else it waits in order (R328). -/
def State.matchColl (s : State) (c : Coll) : State :=
  match s.servedColl c.mill c.unit with
  | none => { s with colls := s.colls ++ [{ c with served := true }] }
  | some d =>
    if d.job = c.job ∧ d.key = c.key then
      { s with colls := s.colls.map fun d => if d.served && decide (d.mill = c.mill) && decide (d.unit = c.unit) then
          { c.got.foldl (fun (d : Coll) (x : Contribution) => d.join x c.ending) d with ended := d.ended ++ c.ended } else d }
    else { s with colls := s.colls ++ [{ c with served := false }] }

/-- A COLL reaches a unit (R328). -/
def State.reachUnit (s : State) (mill unit job : Nat) (x : Contribution) (hit : Option Ending) : State :=
  s.matchColl { mill := mill, unit := unit, job := job, key := collKey x.recd, served := false, recd := x.recd, got := [x], arrived := [x.member],
                ending := hit, cancelled := false, ended := [], delivering := false }

/-- A unit is done with its key: the COLLs that wait are matched again in order, and what its chunk buffer held is gone (R328, R331). -/
def State.nextKey (s : State) (mill unit : Nat) : State :=
  let mine (c : Coll) : Bool := decide (c.mill = mill) && decide (c.unit = unit)
  let waiting := s.colls.filter fun c => mine c && !c.served
  waiting.foldl State.matchColl
    { s with
      colls := s.colls.filter fun c => !mine c
      chunkErrs := s.chunkErrs.filter fun b => decide (b.unit ≠ 16 * mill + unit) || waiting.any fun c => decide (c.key = b.key) }

/-- A change to a COLL of a thread, in its slot or saved. -/
def State.updColl (s : State) (id : OpId) (g : CopyOp → CopyOp) : State :=
  let f (t : Slot) : Slot :=
    if t.bind.launch = id.launch ∧ t.bind.lin = id.lin then
      { t with copies := t.copies.map fun o => if o.id = id.op ∧ o.major = .coll then g o else o }
    else t
  { s with cur := f s.cur, others := s.others.map f, images := s.images.map fun i => { i with ctx := f i.ctx } }

/-- A contribution of a thread of this module. -/
def CopyOp.contribution (o : CopyOp) (t : Slot) : Contribution :=
  { member := o.argB.toNat, launch := t.bind.launch, lin := t.bind.lin, op := o.id, here := true, core := o.argC.setWidth 9, chs := o.chs,
    src := o.x, dst := o.y, recd := o.recd, data := [], out := [] }

/-- A contribution of a member on another module, as its Millstone sends it on. -/
def remoteContribution (member : Nat) (recd data out : List Byte) : Contribution :=
  { member := member, launch := 0, lin := 0, op := 0, here := false, core := 0, chs := [], src := (collHandle recd 0x80).tensor 0,
    dst := (collHandle recd 0xA0).tensor 0, recd := recd, data := data, out := out }

/-- The circuit of a contribution is live, and all of its chunks are on the Millstone (R329, R344). -/
def State.contributed (s : State) (launch : Nat) (o : CopyOp) : Bool :=
  decide (o.phase = .toUnit) && decide (o.chunks ≤ o.progress)
    && (((findLaunch s.launches launch).elim [] fun l => l.circuits).find? fun c => decide (c.ch = o.chs.headD 0)).elim false Circuit.isLive

/-- COLL_CONTRIBUTION: a COLL of a thread of this module, or the contribution of a member elsewhere, reaches its unit
(R328, R329). -/
def execCollContribution (s : State) : Res :=
  .next (match s.ev.msg with
    | .contribution mill unit job member recd data out => s.reachUnit mill unit job (remoteContribution member recd data out) none
    | _ =>
      let lin := s.ev.word.toNat
      match (s.context s.ev.num lin).bind fun t => (t.findColl s.ev.addr.toNat).map fun o => (t, o) with
      | none => s
      | some (t, o) =>
        let go (hit : Option Ending) : State :=
          (s.updColl (t.opId o.id) fun o => { o with phase := .atUnit }).reachUnit (collUnit o.recd).1 (collUnit o.recd).2 t.bind.job
            (o.contribution t) hit
        match o.phase with
        | .hit c d => go (some { status := 2, cause := c, detail := d, count := 0, undef := true })
        | _ => if s.contributed s.ev.num o then go none else s)

/-! ### How values combine (R329) -/

/-- An element's bits widened: BF16 to FP32 exactly. -/
def collWiden (ty v : Nat) : Word32 := if ty = 1 then BitVec.ofNat 32 (v * 65536) else BitVec.ofNat 32 v

/-- A result's bits in the data type: BF16 rounded once with RNE. -/
def collNarrow (ty : Nat) (v : Word32) : Nat :=
  if ty = 1 then (convF fp32 bf16 .rne false (decodeF fp32 v.toNat)).1 else v.toNat

/-- The values of one node set combined, in the order given: the tree of R72, or one after another (R329). -/
def collFold (op ty : Nat) (tree : Bool) (vs : List Word32) : Word32 :=
  let rs : List Run := vs.map fun v => { val := v, count := 1 }
  let t : VType := if ty = 2 then .i32 else .f32
  match op with
  | 0 =>
    if ty = 2 then BitVec.ofInt 32 (sumInt rs)
    else if tree then ((treeF32 (treeLevels vs.length) rs).getD (0, 0)).1
    else (match vs with
      | [] => 0
      | v :: us => us.foldl (fun (a x : Word32) => (addF32 a x).1) v)
  | 1 => (extremeOf t true rs).1
  | 2 => (extremeOf t false rs).1
  | _ => vs.headD 0

/-- A list in an order that the manual leaves open. -/
def freePick {α : Type} : Nat → Nat → List α → List α
  | 0, _, xs => xs
  | fuel + 1, c, xs =>
    let i := Config.freeNat c % xs.length
    match xs[i]? with
    | some x => x :: freePick fuel (c + 1) (xs.eraseIdx i)
    | none => []

/-- The torus phase of a share: dimensions as (extent, weight in the module number), the last crossed first in the list. `f` combines
the partials of a dimension, told how many dimensions come before it and where (R329). -/
def torusFold (f : Nat → Nat → List Word32 → Word32) (part : Nat → Word32) : List (Nat × Nat) → Nat → Word32
  | [], q => part q
  | (e, w) :: rest, q => f rest.length q ((List.range e).map fun j => torusFold f part rest (q + j * w))

/-- The spanned dimensions as (extent, weight). -/
def torusDims (es : List Nat) : List (Nat × Nat) :=
  (es.foldl (fun (p : List (Nat × Nat) × Nat) (e : Nat) => (p.1 ++ [(e, p.2)], p.2 * e)) ([], 1)).1

/-- The share of an element: share s holds elements ⌊s·N/nd⌋ to ⌊(s+1)·N/nd⌋ − 1 (R329). -/
def shareOf (nd n e : Nat) : Nat := ((List.range nd).reverse.find? fun s => decide (s * n / nd ≤ e)).getD 0

/-- The dimensions in the order that a share crosses them, last first. -/
def shareDims (es : List Nat) (n e : Nat) : List (Nat × Nat) :=
  let ds := torusDims es
  let k := shareOf ds.length n e
  (ds.drop k ++ ds.take k).reverse

/-- Free values that one order of arrival may take: no list of partials or members is longer. -/
def arrivalRoom (l : Nat) (exts : List Nat) : Nat := l + exts.foldl (· + ·) 1

/-- The modules that a collective spans. -/
def moduleCount (exts : List Nat) : Nat := exts.foldl (· * ·) 1

/-- Where the free values of an order of arrival begin: each element, module and dimension has its own (R329). -/
def arrivalAt (ctr l : Nat) (exts : List Nat) (e level q : Nat) : Nat :=
  ctr + ((e * (exts.length + 1) + level) * moduleCount exts + q) * arrivalRoom l exts

/-- The free values that the orders of arrival of n elements take. -/
def arrivalSpan (l : Nat) (exts : List Nat) (n : Nat) : Nat := n * (exts.length + 1) * moduleCount exts * arrivalRoom l exts

/-- The element of the result (R304, R329). `vals` gives each member's element, in order of arrival for this module; under ARRIVAL every
other order of arrival is open. -/
def collElement (r : List Byte) (ctr l own : Nat) (exts : List Nat) (e : Nat) (vals : List (Nat × Word32)) : Word32 :=
  let op := collOp r
  let ty := collType r
  let tree := collTree r
  let sorted (q : Nat) : List Word32 := (List.range l).filterMap fun i => (vals.find? fun v => v.1 = i + l * q).map Prod.snd
  let arrived (q : Nat) : List Word32 := (vals.filter fun v => decide (v.1 / l = q)).map Prod.snd
  let part (q : Nat) : Word32 :=
    collFold op ty tree (if tree then sorted q else if q = own then arrived q else freePick l (arrivalAt ctr l exts e 0 q) (sorted q))
  let f (level q : Nat) (vs : List Word32) : Word32 :=
    collFold op ty tree (if tree then vs else freePick vs.length (arrivalAt ctr l exts e (level + 1) q) vs)
  torusFold f part (shareDims exts (collElems r) e) 0

/-! ### Reading and writing the buffers -/

/-- A byte that a unit reads in a buffer; F_ECC under an uncorrectable error (R331). -/
def State.unitByte (s : State) (c : Coll) (x : Contribution) (buf : Tensor) (va : Nat) : Chk Byte :=
  let k := s.unitKey x.core c.job buf va
  match eccAt s.bad k with
  | some l => .error (flt 0x11 l (BitVec.ofNat 64 va))
  | none => .ok (s.byteAt k)

/-- Byte i of a member's source image. -/
def State.sourceByte (s : State) (c : Coll) (x : Contribution) (i : Nat) : Chk Byte :=
  if x.here then s.unitByte c x x.src (x.src.imageVa x.core i) else .ok (x.data[i]?.getD 0)

/-- Element e of a member's source. -/
def State.sourceElem (s : State) (c : Coll) (x : Contribution) (e : Nat) : Chk Nat :=
  let n := collSize c.recd
  ((List.range n).mapM fun i => s.sourceByte c x (e * n + i)).map ofBytes

/-- The bytes of the result of the default form (R304, R329). -/
def State.defaultBytes (s : State) (c : Coll) (j : Job) : Chk (List Byte) :=
  let r := c.recd
  let n := collSize r
  let l := (collDies j r).length
  let root := recNat r 6 2
  ((List.range (collElems r)).mapM fun e =>
    if collOp r = 3 then
      (match c.got.find? fun x => x.member = root with
      | some x => s.sourceElem c x e
      | none => .ok 0)
    else
      ((c.got.mapM fun x => (s.sourceElem c x e).map fun v => (x.member, collWiden (collType r) v)).map
        fun (vals : List (Nat × Word32)) =>
          collNarrow (collType r) (collElement r s.freeCtr l (moduleNum j r) (collExtents j r) e vals))).map
    fun (vs : List Nat) => vs.flatMap fun v => bytesOf n v

/-- What the default form writes at a member of this module. -/
def Contribution.cells (x : Contribution) (bs : List Byte) : List (Nat × Byte) := bs.zipIdx.map fun p => (x.dst.imageVa x.core p.2, p.1)

/-! ### The walker form (R330) -/

/-- The memory of a member as a walk sees it: the bases of its source and destination, and bytes by address. -/
structure WalkMem where
  src : Int
  dst : Int
  cells : List Host.Cell
deriving DecidableEq, Repr

/-- A transfer: its member, its peer and their byte offsets. -/
structure Transfer where
  member : Nat
  peer : Nat
  soff : Int
  doff : Int
deriving DecidableEq, Repr

/-- The indices of iteration t, the last level fastest. -/
def walkIndex : List WalkLevel → Nat → List Nat × Nat
  | [], t => ([], t)
  | l :: ls, t => let (is, u) := walkIndex ls t; (u % l.bound :: is, u / l.bound)

/-- Iteration t begins only after all before it: an iteration of a level with STEP begins, after its first (R330). -/
def stepStarts : List WalkLevel → List Nat → Bool
  | l :: ls, i :: is => (l.step && decide (0 < i) && is.all fun x => decide (x = 0)) || stepStarts ls is
  | _, _ => false

/-- A member's coordinate along a dimension replaced: (extent, weight) of the dimension within the member index. -/
def moveAlong (m extent weight : Nat) (d : Int) : Nat :=
  let own := m / weight % extent
  m - own * weight + (((own : Int) + d) % (extent : Int)).toNat * weight

/-- The dimensions a level may name: number, extent and weight in the member index (R326, R330). -/
def walkDims (j : Job) (r : List Byte) : List (Nat × Nat × Nat) :=
  let l := (collDies j r).length
  (1, l, 1) :: (((collDims r).zip (torusDims (collExtents j r))).map fun p => (p.1 + 2, p.2.1, l * p.2.2))

/-- The transfer of a member in an iteration (R330). -/
def walkTransfer (j : Job) (r : List Byte) (is : List Nat) (m : Nat) : Transfer :=
  let lv := (presentLevels r).zip is
  let peer := (walkDims j r).foldl (fun (p : Nat) (d : Nat × Nat × Nat) =>
    moveAlong p d.2.1 d.2.2 (lv.foldl (fun (n : Int) (x : WalkLevel × Nat) => if x.1.dim = d.1 then n + x.1.a * (x.2 : Int) + x.1.b else n) 0)) m
  { member := m, peer := peer, soff := lv.foldl (fun (n : Int) (x : WalkLevel × Nat) => n + x.1.ss * (x.2 : Int)) 0
    doff := lv.foldl (fun (n : Int) (x : WalkLevel × Nat) => n + x.1.ds * (x.2 : Int)) 0 }

/-- The transfers between two STEP boundaries, in walk order and by source member. -/
def walkSegments (j : Job) (r : List Byte) : List (List Transfer) :=
  let ls := presentLevels r
  let m := collCount j r
  let segs := (List.range (ls.foldl (fun (n : Nat) (l : WalkLevel) => n * l.bound) 1)).foldl
    (fun (p : List (List Transfer) × List Transfer) (t : Nat) =>
      let is := (walkIndex ls t).1
      let ts := (List.range m).map (walkTransfer j r is)
      if stepStarts ls is then (p.1 ++ [p.2], ts) else (p.1, p.2 ++ ts)) ([], [])
  segs.1 ++ [segs.2]

/-- The bytes of a chunk combined into those of the peer, element by element (R329, R330). -/
def combineBytes (r : List Byte) (old new : List Byte) : List Byte :=
  if collOp r = 3 then new
  else
    let n := collSize r
    (List.range (new.length / n)).flatMap fun e =>
      let at_ (bs : List Byte) : Word32 := collWiden (collType r) (ofBytes ((bs.drop (e * n)).take n))
      bytesOf n (collNarrow (collType r) (collFold (collOp r) (collType r) true [at_ old, at_ new]))

/-- One transfer, its source read from one of the states since the last boundary: which one the manual leaves open. -/
def walkOne (r : List Byte) (p : List (List WalkMem) × Nat) (t : Transfer) : List (List WalkMem) × Nat :=
  let hist := p.1
  let now := hist.headD []
  let seen := hist[Config.freeNat p.2 % hist.length]?.getD now
  match seen[t.member]?, now[t.peer]? with
  | some a, some b =>
    let n := collChunk r
    let new := memBytesAt a.cells (a.src + t.soff).toNat n
    let d := (b.dst + t.doff).toNat
    let b' := { b with cells := memWrites b.cells (cellsAt d (combineBytes r (memBytesAt b.cells d n) new)) }
    (now.set t.peer b' :: hist, p.2 + 1)
  | _, _ => (hist, p.2 + 1)

/-- One segment of the walk: in order under TREE, in an open order of arrival under ARRIVAL. -/
def walkSegment (r : List Byte) (p : List WalkMem × Nat) (ts : List Transfer) : List WalkMem × Nat :=
  let ts := if collTree r then ts else freePick ts.length (p.2 + ts.length) ts
  let (h, c) := ts.foldl (walkOne r) ([p.1], p.2)
  (h.headD [], c + ts.length)

/-- The addresses in a tensor's extent that chunks at some byte offsets from its base cover, rising. -/
def Tensor.covered (x : Tensor) (g : CoreId) (chunk : Nat) (offs : List Int) : List Nat :=
  let (b, lo, n) := x.range g
  ((List.range n).map fun i => lo.toNat + i).filter fun a =>
    offs.any fun o => decide (b + o ≤ (a : Int)) && decide ((a : Int) < b + o + (chunk : Int))

/-- The bytes of a member's destination that the walk writes. -/
def Contribution.walked (x : Contribution) (r : List Byte) (ts : List Transfer) : List Nat :=
  x.dst.covered x.core (collChunk r) ((ts.filter fun t => t.peer = x.member).map fun t => t.doff)

/-- The memory of a member for a walk, read from its buffers: what the walk sends, and what it combines into (R330). -/
def State.walkMem (s : State) (c : Coll) (x : Contribution) (ts : List Transfer) : Chk WalkMem :=
  let read (buf : Tensor) (bs : List Byte) (as : List Nat) : Chk (List (Nat × Byte)) :=
    let lo := (buf.range x.core).2.1.toNat
    as.mapM fun a => ((if x.here then s.unitByte c x buf a else .ok (bs[a - lo]?.getD 0)) : Chk Byte).map fun b => (a, b)
  let sent := x.src.covered x.core (collChunk c.recd) ((ts.filter fun t => t.member = x.member).map fun t => t.soff)
  match read x.src x.data sent, read x.dst x.out (if collOp c.recd = 3 then [] else x.walked c.recd ts) with
  | .error f, _ => .error f
  | _, .error f => .error f
  | .ok a, .ok b => .ok { src := (x.src.range x.core).1, dst := (x.dst.range x.core).1, cells := memWrites (memWrites [] a) b }

/-- A member's memory for a member index. -/
def State.walkMems (s : State) (c : Coll) (n : Nat) (ts : List Transfer) : Chk (List WalkMem) :=
  (List.range n).mapM fun m => match c.got.find? fun x => x.member = m with
    | some x => s.walkMem c x ts
    | none => .ok { src := 0, dst := 0, cells := [] }

/-! ### Delivery (R329–R331) -/

/-- An undefined destination: some bit pattern (R5, R331). -/
def State.scribble (s : State) (c : Coll) (x : Contribution) : State :=
  if x.here then
    let n := x.dst.imageLen
    { s.unitWrite x.core c.job x.dst ((List.range n).map fun i => (x.dst.imageVa x.core i, BitVec.ofNat 8 (Config.freeNat (s.freeCtr + i)))) with
      freeCtr := s.freeCtr + n }
  else s

/-- The first uncorrectable error in the data of the chunk buffer that the unit reads (R331). -/
def State.bufferErr (s : State) (c : Coll) : Option Nat :=
  c.got.findSome? fun x =>
    if readsSource c.recd x.member then
      (s.chunkErrs.find? fun b => decide (b.unit = 16 * c.mill + c.unit) && decide (b.key = c.key) && decide (b.member = x.member)).map fun b => b.level
    else none

/-- What the collective writes at each member, and the free values it has drawn; or the error that the unit meets as it reads. -/
def State.collResult (s : State) (c : Coll) (j : Job) : Chk ((Contribution → List (Nat × Byte)) × Nat) :=
  let r := c.recd
  if (s.bufferErr c).isSome then .error (flt 0x11 ((s.bufferErr c).getD 0) 0)
  else if isWalk r then
    let segs := walkSegments j r
    let ts := segs.flatMap id
    (s.walkMems c (collCount j r) ts).map fun ms =>
      let (ms', ctr) := segs.foldl (walkSegment r) (ms, s.freeCtr)
      (fun x => (x.walked r ts).map fun a => (a, memRead ((ms'[x.member]?.elim [] fun w => w.cells)) a), ctr)
  else
    (s.defaultBytes c j).map fun bs =>
      (fun x => x.cells bs, s.freeCtr + arrivalSpan (collDies j r).length (collExtents j r) (collElems r))

/-- A list in pieces of 4,096. -/
def pieces {α : Type} : Nat → List α → List (List α)
  | 0, _ => []
  | n + 1, xs => xs.take 4096 :: pieces n (xs.drop 4096)

/-- The result chunks of a member, on the circuit from the Millstone to its die (R329, R343). -/
def State.sendResult (s : State) (x : Contribution) (cells : List (Nat × Byte)) : State :=
  if !x.here then s
  else
    let out (p : List (Nat × Byte) × Nat) : OpId × Nat × ChunkOut :=
      ({ launch := x.launch, lin := x.lin, op := x.op }, p.2, { cells := p.1, poison := 0, range := false, crc := 0, out := 0 })
    s.updCircuit x.launch ((x.chs.drop 1).headD 0) fun c => { c with outbox := c.outbox ++ (pieces (chunkCount cells.length) cells).zipIdx.map out }

/-- The operation of a contribution. -/
def Contribution.opId (x : Contribution) : OpId := { launch := x.launch, lin := x.lin, op := x.op }

/-- A result chunk of the collective is yet to be performed and acknowledged. -/
def State.delivers (s : State) (c : Coll) : Bool :=
  s.launches.any fun l => l.circuits.any fun d => (d.outbox.any fun y => c.got.any fun x => decide (x.opId = y.1))
    || d.frames.any fun f => c.got.any fun x => decide (f.op = some x.opId)

/-- The words that a unit reads are corrected at their homes (R287). -/
def State.unitReads (s : State) (c : Coll) (j : Job) : State :=
  s.correctRead fun s => metEcc (s.collResult c j)

/-- Every expected member has arrived or is lost. -/
def Coll.full (c : Coll) (j : Job) : Bool := (List.range (collCount j c.recd)).all c.arrived.contains

/-- A launch of the job that is not over has or had instances on a die. -/
def State.supplies (s : State) (job die : Nat) : Bool := s.launches.any fun l => decide (l.job = job) && (s.instanceDies l).contains die

/-- A member of this module is missing that a launch was to supply, and that launch has ended (R331). DEDUCED: it had instances on the
member's die, and no other launch of the job has (log 110). -/
def State.starved (s : State) (c : Coll) (j : Job) : Bool :=
  (List.range (collCount j c.recd)).any fun m =>
    let l := (collDies j c.recd).length
    !c.arrived.contains m && decide (m / l = moduleNum j c.recd)
      && ((collDies j c.recd)[m % l]?).elim false fun d => c.ended.contains d && !s.supplies c.job d

/-- The collective that a unit serves, changed or removed. -/
def State.putColl (s : State) (c : Coll) (f : Coll → Option Coll) : State :=
  { s with colls := s.colls.filterMap fun d => if d.served && decide (d.mill = c.mill) && decide (d.unit = c.unit) then f d else some d }

/-- A collective that ends before its delivery: what has arrived ends, and the unit goes on once every member has arrived or Corelo has
cancelled the collective (R328, R331). -/
def State.failColl (s : State) (c : Coll) (j : Job) (e : Ending) : State :=
  let mine (id : OpId) : Bool := c.got.any fun x => x.here && decide (x.opId = id)
  let s := (c.got.map fun x => x.launch).eraseDups.foldl (fun (s : State) (n : Nat) => s.voidFrames n mine) s
  let s := if e.undef then c.got.foldl (fun (s : State) (x : Contribution) => s.scribble c x) s else s
  let s := s.endAll c e
  if c.full j || c.cancelled || s.starved c j then (s.putColl c fun _ => none).nextKey c.mill c.unit
  else s.putColl c fun d => some { d with got := [], ending := some e, delivering := false }

def cancelEnding : Ending := { status := 3, cause := 0, detail := 0, count := 0, undef := true }

/-- Members that a failure loses: the collectives they belong to end with F_MEMBER for every other member (R331). -/
def State.loseMembers (s : State) (lost : Coll → List Nat) : State :=
  { s with colls := s.colls.map fun c =>
      match lost c with
      | [] => c
      | m :: ms =>
        let low := ms.foldl min m
        let e : Ending := { status := 2, cause := 0x15, detail := BitVec.ofNat 16 low, count := low, undef := true }
        { c with
          arrived := c.arrived ++ (m :: ms).filter fun x => !c.arrived.contains x
          ending := c.ending.or (some e) } }

/-- A module's number as mixed digits over the torus extents, the first dimension lowest. -/
def torusDigits : List Nat → Nat → List Nat
  | [], _ => []
  | e :: es, n => n % max 1 e :: torusDigits es (n / max 1 e)

/-- The torus coordinates of another module of a job: those that its bring-up brought, where a link leads to it; else, DESIGN CHOICE, its
number counts the modules dimension 0 first (R326, R365; log 139). -/
def State.coordsOf (s : State) (j : Job) (n : Nat) : List Nat :=
  match s.links.find? fun l => j.usesLink l.num && decide (l.peer.map Prod.fst = some n) with
  | some l => l.peerCoords
  | none => torusDigits j.extents n

/-- The members of a collective on another module: it differs from this one in spanned dimensions only (R326). -/
def State.membersAt (s : State) (c : Coll) (j : Job) (n : Nat) : List Nat :=
  let xs := s.coordsOf j n
  if (List.range j.extents.length).all fun k => (collDims c.recd).contains k || decide (xs[k]?.getD 0 = j.coords[k]?.getD 0) then
    (List.range (collDies j c.recd).length).map fun i => i + (collDies j c.recd).length * moduleNum { j with coords := xs } c.recd
  else []

/-- Members that can no longer come: their dies have failed, or the path to their module, before they arrived (R281, R331). -/
def State.goneMembers (s : State) (c : Coll) (j : Job) : List Nat :=
  (((collDies j c.recd).filter s.deadDies.contains).map (memberOf j c.recd)
    ++ s.lostModules.flatMap fun a => s.membersAt c j (a.toNat % 65536)).filter fun m => !c.arrived.contains m

/-- The collective is over: regions, notices, and the next key (R328, R329). -/
def State.finishColl (s : State) (c : Coll) : State :=
  let e : Ending := { status := 0, cause := 0, detail := 0, count := collElems c.recd * collSize c.recd, undef := false }
  ((s.endAll c e).putColl c fun _ => none).nextKey c.mill c.unit

/-- Every member has contributed: the unit combines, and sends the result on its way (R304, R329, R330). -/
def State.startDelivery (s : State) (c : Coll) (j : Job) : State :=
  let s := s.unitReads c j
  match s.collResult c j with
  | .error f => s.failColl c j { status := 2, cause := f.cause, detail := f.detail, count := 0, undef := true }
  | .ok (out, ctr) =>
    (c.got.foldl (fun (s : State) (x : Contribution) => s.sendResult x (out x)) { s with freeCtr := ctr }).putColl c fun d =>
      some { d with delivering := true }

/-- COLL_DELIVERY: the unit sends the result once every member has contributed, is done once every chunk of it has been performed, or
ends the collective (R304, R329–R331). -/
def execCollDelivery (s : State) : Res :=
  .next (match s.servedColl (s.ev.num / 16) (s.ev.num % 16) with
    | none => s
    | some c => match findJob s.jobs c.job with
      | none => s
      | some j => match c.ending with
        | some e => s.failColl c j e
        | none =>
          if c.delivering then (if s.delivers c then s else s.finishColl c)
          else if c.full j then s.startDelivery c j
          else if !(s.goneMembers c j).isEmpty then
            s.loseMembers fun d => if d.served && decide (d.mill = c.mill) && decide (d.unit = c.unit) then s.goneMembers c j else []
          else if s.starved c j then s.failColl c j cancelEnding
          else s)

/-- Sequence numbers compare by modular distance (R343, R345). -/
def seqReached (n rx : Nat) : Bool := decide ((rx + 2 ^ 32 - n) % 2 ^ 32 < 2 ^ 31)

/-- NOTICE: a notice on a circuit acts once every chunk before it is performed (R345). -/
def execNotice (s : State) : Res :=
  .next (match s.evCircuit with
    | none => s
    | some (l, c) =>
      match c.notices with
      | [] => s
      | n :: rest =>
        if c.isLive && seqReached n.seq c.rxSeq then
          (s.updCircuit l.num c.ch fun c => { c with notices := rest }).collDone l.num n
        else s)

/-- A job's collectives of a key, or of any, are cancelled; a COLL that waits at a unit for its key ends with them (R328, R331). -/
def State.cancelColls (s : State) (p : Coll → Bool) : State :=
  let s := (s.colls.filter fun c => p c && !c.served).foldl (fun (s : State) (c : Coll) =>
    let e := c.ending.getD cancelEnding
    let s := if e.undef then c.got.foldl (fun (s : State) (x : Contribution) => s.scribble c x) s else s
    s.endAll c e) s
  { s with
    colls := (s.colls.filter fun c => !p c || c.served).map fun c =>
      if p c then { c with ending := c.ending.or (some cancelEnding), cancelled := true } else c }

end Sys2Proof.Machine
end

