-- ==== Sys2Proof/Machine/Links.lean ====
section
/-! DEFINITION. Module links: flits, acknowledgement and replay (R356, R357), the receiving Millstone (R205, R280, R358), widths
and handshakes (R359–R363), bring-up (R362, R365), quiesce and resume (R367–R369), LINK records (R364). -/

namespace Sys2Proof.Machine

/-! ### Lanes and sequence numbers -/

/-- The lanes of a mask, lowest first. -/
def laneList (m : BitVec 16) : List Nat := (List.range 16).filter fun i => m.getLsbD i

def maskOf (is : List Nat) : BitVec 16 := is.foldl (fun (m : BitVec 16) (i : Nat) => m ||| (1#16 <<< i)) 0

/-- The lane set: the lowest usable lanes, the largest power of two of them (R359). -/
def laneSet (usable : BitVec 16) : BitVec 16 :=
  let is := laneList usable
  if is.isEmpty then 0 else maskOf (is.take (2 ^ is.length.log2))

def laneCount (m : BitVec 16) : Nat := (laneList m).length

/-- Flits are sent and accepted. -/
def Link.carries (l : Link) : Bool := decide (l.st = .up) || decide (l.st = .restripe)

/-- A sequence number is at another or past it, by modular distance (R357). -/
def seqPast (b n : Nat) : Bool := decide (seqDist b n < 2 ^ 23)

/-- A message goes out on a link; a link that is down carries none (R362). -/
def State.toLink (s : State) (n : Nat) (m : LinkMsg) : State :=
  s.updLink n fun l => if l.st = .down then l else { l with queue := l.queue ++ [m] }

/-- What a link puts on its control lane. -/
def Link.control (l : Link) (m : LaneMsg) : Link := { l with ctl := l.ctl ++ [m] }

/-! ### LINK records (R234, R364) -/

/-- A LINK record. -/
def linkRecord (l : Link) (status before after event f b : Nat) (failed : BitVec 16) (reason : Nat) : Record :=
  { kind := 5, status := BitVec.ofNat 16 status, tag := BitVec.ofNat 32 (l.num + before * 2 ^ 8 + after * 2 ^ 16 + event * 2 ^ 24)
    count := BitVec.ofNat 64 (f % seqMod + b % seqMod * 2 ^ 24 + l.rate * 2 ^ 48)
    poison := BitVec.ofNat 64 (l.lanes.toNat + failed.toNat * 2 ^ 16 + l.acked % seqMod * 2 ^ 32)
    code := BitVec.ofNat 32 (0x10 + l.num * 2 ^ 8 + (if event = 6 then reason * 2 ^ 16 else 0)), retries := 0 }

/-- An LCPY or remote CATOM on a link that is in flight. -/
def CopyOp.onLink (o : CopyOp) (n : Nat) : Bool :=
  o.remote && decide (o.link = n) && match o.phase with
    | .running => true | .awaitLink => true | .awaitCircuit => true | _ => false

/-- A LINK record goes to every thread with such an operation on the link, with bytes [23:8] of its fault code as detail, or to Corelo and
the host; Corelo counts the event (R234, R237). -/
def State.linkNotice (s : State) (n : Nat) (r : Record) : State :=
  let s := { s with errors := { s.errors with links := s.errors.links + 1 } }
  match s.slots.filterMap fun t => if !t.live then none else (t.copies.find? fun o => o.onLink n).map fun o => (t.key, o) with
  | [] => s.toCorelo ((s.linkJob n).elim 0 fun j => j.id) r true
  | ks => ks.foldl (fun (s : State) (k : SlotId × CopyOp) => s.onSlot k.1 fun s =>
      s.deliver 3 (.plain r none)
        { cause := 0x10, detail := BitVec.ofNat 16 (r.code.toNat / 256), stream := 3, fpc := k.2.fpc, finsn := k.2.finsn
          addr := k.2.chunkVa k.1.core k.2.progress }) s

/-! ### Flits and what they carry (R343, R356) -/

/-- Bytes 240 at a time, n times. -/
def flitPieces : Nat → List Byte → List (List Byte)
  | 0, _ => []
  | n + 1, bs => bs.take 240 :: flitPieces n (bs.drop 240)

/-- The bytes of a message: a chunk frame, with the peer's module number and the number of the chunk frame on the link; or a request,
reply or notice. DESIGN CHOICE: the manual lays out no express payload, and no place for a chunk's addresses, which travel with the message
(log 136). -/
def LinkMsg.bytes (m : LinkMsg) (frameNo modl : Nat) : List Byte :=
  match m with
  | .chunk r n _ cells =>
    let body := bytesOf 4 frameNo ++ bytesOf 2 modl ++ bytesOf 2 (cells.length - 1) ++ bytesOf 2 r.op ++ bytesOf 4 n ++ bytesOf 2 0
      ++ cells.map Prod.snd
    body ++ bytesOf 8 (crc64 body).toNat
  | .catom r va size space _ b c => bytesOf 1 1 ++ bytesOf 2 r.op ++ bytesOf 8 va.toNat ++ bytesOf 1 size ++ bytesOf 1 space ++ bytesOf 8 b.toNat
      ++ bytesOf 8 c.toNat
  | .performed r n => bytesOf 1 2 ++ bytesOf 2 r.op ++ bytesOf 4 n
  | .response r old => bytesOf 1 3 ++ bytesOf 2 r.op ++ bytesOf 8 old.toNat
  | .refused r c d => bytesOf 1 4 ++ bytesOf 2 r.op ++ bytesOf 1 c.toNat ++ bytesOf 2 d.toNat

/-- Flits that a message takes: a chunk frame spread over data flits, or one express flit. -/
def LinkMsg.flits : LinkMsg → Nat
  | .chunk _ _ _ cells => (cells.length + 24 + 239) / 240
  | _ => 1

/-- The kind of a message's flits: data or express. -/
def LinkMsg.kind : LinkMsg → Nat
  | .chunk .. => 1
  | _ => 2

/-- The CRC-64 of a flit, over its first 248 bytes (R356). -/
def flitCrc (seq kind : Nat) (payload : List Byte) : Word :=
  crc64 (bytesOf 3 seq ++ bytesOf 1 kind ++ bytesOf 2 payload.length ++ bytesOf 2 0 ++ payload ++ List.replicate (240 - payload.length) 0)

/-- A flit's CRC is good. -/
def Flit.good (f : Flit) : Bool := decide (f.crc = flitCrc f.seq f.kind f.payload)

/-- Flit number part of a message, under a sequence number. -/
def LinkMsg.flit (m : LinkMsg) (frameNo modl seq part : Nat) : Flit :=
  let payload := (flitPieces m.flits (m.bytes frameNo modl))[part]?.getD []
  { seq := seq, kind := m.kind, payload := payload, crc := flitCrc seq m.kind payload, msg := if part + 1 = m.flits then some m else none }

/-- A message with the bytes of the chunk frame that has come in. -/
def LinkMsg.received (m : LinkMsg) (data : List Byte) : LinkMsg :=
  match m with
  | .chunk r n pair cells => .chunk r n pair ((cells.zip ((data.drop 16).take cells.length)).map fun c => (c.1.1, c.2))
  | m => m

/-! ### Sending and acknowledging (R357) -/

/-- The flits have reached the boundary of a handshake: at the end whose numbers it counts, its own, or nothing is left to send before it;
at the other, the peer's (R360). -/
def Link.atBoundary (l : Link) (h : Shake) : Bool :=
  if h.mine then seqPast h.b l.wire || (l.queue.isEmpty && decide (l.wire = l.tx)) else seqPast h.b l.pos || h.passed

/-- Flits go out at the present width. -/
def Link.sends (l : Link) : Bool :=
  match l.st, l.shake with
  | .up, _ => true
  | .restripe, some h => !(h.peerMask.isSome && l.atBoundary h) && !(h.mine && seqPast h.b l.wire)
  | _, _ => false

/-- The next flit goes out: one of a replay, else the next of the first message, with room in the replay buffer; before a
restripe's boundary only (R357, R360). -/
def Link.sendOne (l : Link) : Link :=
  if !l.sends then l
  else if l.wire ≠ l.tx then { l with wire := (l.wire + 1) % seqMod, sent := l.replay.find? fun f => decide (f.seq = l.wire) }
  else match l.queue with
    | [] => l
    | m :: rest =>
      if 4096 ≤ l.replay.length then l
      else
        let f := m.flit l.frameNo (l.peer.elim 0 Prod.fst) l.tx l.part
        let last := f.msg.isSome
        { l with
          tx := (l.tx + 1) % seqMod, wire := (l.tx + 1) % seqMod, replay := l.replay ++ [f], sent := some f
          queue := if last then rest else l.queue, part := if last then 0 else l.part + 1
          frameNo := if last && decide (m.kind = 1) then (l.frameNo + 1) % 2 ^ 32 else l.frameNo }

/-- What an ACK names: the next flit expected, but none past a chunk or request that no circuit carries yet (R357, R358). -/
def State.ackPoint (s : State) (l : Link) : Nat :=
  ((s.held.find? fun h => decide (h.link = l.num) && h.via.isNone && h.answer.isNone).map fun h => h.last).getD l.rx

/-- An ACK is due: 64 flits after the last or 256 CCLK after it, and at any time before, as the manual leaves open (R357). -/
def State.ackDue (s : State) (l : Link) : Bool :=
  let n := seqDist l.ackSent (s.ackPoint l)
  decide (l.st ≠ .down) && decide (0 < n ∧ n ≤ 4096)
    && (decide (64 ≤ n) || decide (l.ackAt + 256 ≤ s.cycle) || Config.freeBool (s.freeCtr + 32 * (2600 + l.num)))

/-- A link's work in a cycle: a flit goes out, and an ACK when one is due. -/
def State.linkCycle (s : State) (l : Link) : State :=
  s.updLink l.num fun k =>
    let k := { k with sent := none, ctl := [] }.sendOne
    if s.ackDue l then { k.control (.ack (s.ackPoint l)) with ackSent := s.ackPoint l, ackAt := s.cycle } else k

/-! ### Going down (R209, R362) -/

/-- What an operation on a link comes to when the link is lost: it waits under automatic retry, else it completes with
status RETRY (R209). -/
def State.loseLinkOp (s : State) (t : Slot) (n : Nat) (o : CopyOp) : CopyOp :=
  let l := findLaunch s.launches t.bind.launch
  let auto := l.elim false fun l => l.flag 4 || o.chs.any fun ch => (findCircuit l.circuits ch).elim false fun c => c.autoretry
  if !o.onLink n then o
  else if auto then { o.toProgress with phase := .awaitLink }
  else o.endAt t.key.core 1 0x10 n

/-- The operations on a link that is down stop (R209, R362). -/
def State.loseLinkOps (s : State) (n : Nat) : State :=
  let g (t : Slot) : Slot := { t with copies := t.copies.map (s.loseLinkOp t n) }
  { s with cur := g s.cur, others := s.others.map g }

/-- Every thread of this module that has contributed to a collective retries of itself: by its launch, or by the circuits it uses (R209,
R331). -/
def State.collRetries (s : State) (c : Coll) : Bool :=
  c.got.all fun x => !x.here || (findLaunch s.launches x.launch).elim false fun l =>
    l.flag 4 || x.chs.any fun ch => (findCircuit l.circuits ch).elim false fun c => c.autoretry

/-- Collectives that cross the torus dimension of a lost link end, unless their launches retry: then each member's record counts one
more retry (R331). -/
def State.loseLinkColls (s : State) (n : Nat) : State :=
  let e : Ending := { status := 2, cause := 0x10, detail := BitVec.ofNat 16 n, count := 0, undef := true }
  let hit := s.colls.filter fun c => (collDims c.recd).contains (n / 4) && c.ending.isNone
  let again := (hit.filter s.collRetries).flatMap fun c => (c.got.filter fun x => x.here).map Contribution.opId
  let s := { s with colls := s.colls.map fun c => if hit.contains c && !s.collRetries c then { c with ending := some e } else c }
  again.foldl (fun (s : State) (id : OpId) => s.updColl id fun o => { o with retries := o.retries + 1 }) s

/-- The answer of a QUIESCE or a RESUME of a link, if one waits. -/
def State.answerLink (s : State) (n code status : Nat) : State :=
  if s.host.waiting.elim false (fun p => decide (p.code = code ∧ p.arg = n)) then s.answerWaiting status [] else s

/-- A link that is DOWN: no flit is on it, and bring-up is due in 2^20 CCLK (R362). -/
def Link.off (l : Link) (now : Nat) : Link :=
  { l with
    st := .down, lanes := 0, replay := [], queue := [], part := 0, wire := l.tx, shake := none, draining := false, quiesceReq := false
    rxData := [], nacked := none, sent := none, ctl := [], trying := false, expect := none, tryAt := now + 2 ^ 20 }

/-- A link goes DOWN with a record: its flits are discarded and its operations stop; a QUIESCE in progress fails (R209, R362, R367). -/
def State.cutLink (s : State) (l : Link) (r : Record) : State :=
  let s := { s.updLink l.num fun k => k.off s.cycle with held := s.held.filter fun h => h.link ≠ l.num }
  (((s.linkNotice l.num r).loseLinkOps l.num).loseLinkColls l.num).answerLink l.num 8 1

/-- A link goes DOWN; one that is down has its operations stopped (R209, R362). -/
def State.downLink (s : State) (n f : Nat) (failed : BitVec 16) : State :=
  match findLink s.links n with
  | none => s
  | some l =>
    if l.st = .down then s.loseLinkOps n
    else s.cutLink l (linkRecord (l.off s.cycle) 2 (laneCount l.lanes) 0 2 f 0 failed 0)

/-- LINK_DOWN: the control lane is lost, or an operation was issued for a link that is down (R359, R362). -/
def execLinkDown (s : State) : Res := .next (s.downLink s.ev.num ((findLink s.links s.ev.num).elim 0 fun l => l.wire) 0)

/-! ### The receiving Millstone (R205, R280, R358) -/

/-- The live circuit of the job that carries a message from its Millstone to a die: of the launch accepted first, the lowest handle
(R358). -/
def State.carrier (s : State) (j : Job) (mill home : Nat) : Option (Nat × Nat) :=
  s.launches.findSome? fun l =>
    if l.job = j.id then (pickCircuit l.circuits fun c => c.carries (32 + mill) home && c.isLive).map fun c => (l.num, c.ch) else none

/-- A circuit chosen for a message is live still. -/
def State.carrierLive (s : State) (v : Nat × Nat) : Bool :=
  ((findLaunch s.launches v.1).bind fun l => findCircuit l.circuits v.2).elim false Circuit.isLive

/-- A message leaves its Millstone, and its answer goes over the link. -/
def State.answerHeld (s : State) (h : HeldMsg) (ans : LinkMsg) : State :=
  { s with held := s.held.filter fun x => x.link ≠ h.link ∨ x.last ≠ h.last }.toLink h.link ans

/-- The message that an event names: its link and last flit. -/
def State.evHeld (s : State) : Option HeldMsg := s.held.find? fun h => decide (h.link = s.ev.num) && decide (h.last = s.ev.addr.toNat)

/-- MILLSTONE_FORWARD: a chunk or request that the Millstone holds is given a circuit to its home die, or refused where its address has no
page; once performed, its answer goes back over that circuit and then over the link (R205, R358). -/
def execMillstoneForward (s : State) : Res :=
  .next (match s.evHeld with
    | none => s
    | some h => match findLink s.links h.link, s.linkJob h.link with
      | some l, some j =>
        (match h.via, h.answer, s.msgHome j h.msg with
        | some v, some ans, _ => if s.carrierLive v then s.answerHeld h ans else s.updHeld h.link h.last fun h => { h with via := none }
        | some v, none, _ => if s.carrierLive v then s else s.updHeld h.link h.last fun h => { h with via := none }
        | none, none, none => (match s.forward j l h.msg with
          | (some ans, s') => s'.answerHeld h ans
          | (none, s') => s')
        | none, _, home => s.updHeld h.link h.last fun x => { x with via := s.carrier j (h.link / 4) (home.getD 0) })
      | _, _ => s)

/-- The refusal of a chunk or request from the peer. -/
def LinkMsg.refusal (m : LinkMsg) (cause : BitVec 8) (detail : BitVec 16) : Option LinkMsg :=
  match m with
  | .chunk r .. => some (.refused r cause detail)
  | .catom r .. => some (.refused r cause detail)
  | _ => none

/-- MILLSTONE_HOLD_TIMEOUT: what has been held for 2^20 CCLK without a circuit is refused (R358). -/
def execMillstoneHoldTimeout (s : State) : Res :=
  .next (match s.evHeld with
    | none => s
    | some h =>
      if h.since + 2 ^ 20 ≤ s.cycle ∧ h.via = none ∧ h.answer = none then (h.msg.refusal 0x0D 0).elim s fun m => s.answerHeld h m else s)

/-- A change to the operation that a message from the peer names, while it is in flight. -/
def State.onRef (s : State) (n : Nat) (r : OpRef) (f : CopyOp → CopyOp) : State :=
  let t := s.slotAt r.key
  if t.bind.launch = r.launch ∧ t.bind.lin = r.lin then
    s.onSlot r.key fun s => match s.cur.findOp r.op with
      | some o => if o.onLink n && decide (o.phase = .running) then s.putOp (f o) else s
      | none => s
  else s

/-- A whole message has come in with the flit of a sequence number: the Millstone holds a chunk or request, and discards it when the path
to that module has been declared failed; an answer reaches its operation (R208, R281, R358). -/
def State.takeMsg (s : State) (n last : Nat) (m : LinkMsg) : State :=
  match m with
  | .performed r c => s.onRef n r fun o => o.markDone c
  | .response r old => s.onRef n r fun o => { o with acc := old, done := [0], phase := .ended 0 0 0 }
  | .refused r c d => s.onRef n r fun o => o.stop 2 c d (o.chunkVa r.key.core o.progress)
  | m =>
    if (findLink s.links n).elim false fun l => s.lostModules.contains l.peerAgent then s
    else { s with held := s.held ++ [{ link := n, msg := m, since := s.cycle, last := last, via := none, answer := none }] }

/-! ### Receiving (R357) -/

/-- CRC failures of the last flits (R359, R361). -/
def recentErrs (es : List (Nat × Nat)) (lane now span : Nat) : Nat := (es.filter fun e => decide (e.1 = lane) && decide (now < e.2 + span)).length

/-- A NACK names the next flit expected, and the peer sends again from there (R357). -/
def Link.nack (l : Link) : Link := if l.st = .up then { l.control (.nack l.rx) with nacked := some l.rx, pos := l.rx } else l

/-- A flit whose CRC is bad: it is discarded, named by a NACK, and counted for its lane and lane set; a limit passed starts the change
(R357, R359, R361). -/
def State.badFlit (s : State) (l : Link) (lane : Nat) : State :=
  let now := l.flits + 1
  let errs := (lane, now) :: l.laneErrs
  let sets := (now :: l.setErrs).filter fun x => decide (now < x + 2 ^ 16)
  let bad (l : Link) : Link := { l with flits := now, laneErrs := errs, setErrs := sets, pos := (l.pos + 1) % seqMod }.nack
  let s := { s.updLink l.num bad with errors := { s.errors with lanes := s.errors.lanes + 1 } }
  if 8 ≤ recentErrs errs lane now 4096 ∧ l.usable.getLsbD lane then
    { s with agenda := .event .laneFailure { s.ev with addr := BitVec.ofNat 64 lane, msg := .none } :: s.agenda }
  else if 16 < sets.length ∧ l.rate < 2 ∧ l.st = .up then
    { s with agenda := .event .retrain { s.ev with word := BitVec.ofNat 32 (l.rate + 1), msg := .none } :: s.agenda }
  else s

/-- The incoming flits stand behind a good one. -/
def Link.passed (l : Link) (f : Flit) : Link := { l with flits := l.flits + 1, pos := if seqPast l.pos (f.seq + 1) then (f.seq + 1) % seqMod else l.pos }

/-- The next flit expected is checked in: its bytes join the chunk frame that comes in, and its message is taken when it is whole (R343,
R356, R357). -/
def State.checkFlit (s : State) (l : Link) (f : Flit) : State :=
  let data := if f.kind = 1 then l.rxData ++ f.payload else l.rxData
  let s := s.updLink l.num fun l =>
    { l.passed f with rx := (l.rx + 1) % seqMod, nacked := none, rxData := if f.kind = 1 ∧ f.msg.isSome then [] else data }
  match f.msg with
  | some m => s.takeMsg l.num f.seq (m.received data)
  | none => s

/-- FLIT: a flit arrives on a link; it is checked in when its CRC is good and it is the next one expected. Any other is discarded; one
past a gap makes a NACK. An idle flit has no sequence number (R356, R357). The event's address names the lane to which a bad CRC is
attributed. -/
def execFlit (s : State) : Res :=
  .next (match findLink s.links s.ev.num, s.ev.msg with
    | some l, .flit f =>
      if !l.carries then s
      else if !f.good then s.badFlit l s.ev.addr.toNat
      else if f.kind ≠ 1 ∧ f.kind ≠ 2 then s.updLink l.num fun l => { l with flits := l.flits + 1 }
      else if f.seq = l.rx then s.checkFlit l f
      else s.updLink l.num fun l =>
        if seqPast l.rx f.seq ∧ l.nacked ≠ some l.rx then (l.passed f).nack else l.passed f
    | _, _ => s)

/-- LINK_ACK: the peer names the next flit it expects; what lies below leaves the replay buffer (R357). -/
def execLinkAck (s : State) : Res :=
  .next (s.updLink s.ev.num fun l =>
    let n := s.ev.word.toNat % seqMod
    let k := seqDist l.acked n
    if decide (l.st ≠ .down) && decide (k ≤ l.replay.length) then
      { l with acked := n, replay := l.replay.drop k, wire := if seqDist l.wire l.tx ≤ l.replay.length - k then l.wire else n }
    else l)

/-- LINK_NACK: the sender sends again from the flit named (R357). -/
def execLinkNack (s : State) : Res :=
  .next (s.updLink s.ev.num fun l =>
    let n := s.ev.word.toNat % seqMod
    if l.carries && decide (seqDist n l.tx ≤ l.replay.length) then { l with wire := n } else l)

/-! ### Widths and handshakes (R359–R363) -/

/-- The smallest multiple of 16 that is at least f + 16 (R360). -/
def boundaryOf (f : Nat) : Nat := (f + 31) / 16 * 16 % seqMod

/-- This end of a link is the lower (module, link) pair (R363). -/
def State.lowerEnd (s : State) (l : Link) : Bool :=
  let me := (s.linkJob l.num).elim 0 fun j => j.moduleId.toNat
  match l.peer with
  | none => true
  | some (m, k) => decide (me < m) || (decide (me = m) && decide (l.num < k))

/-- What an end says of a handshake on the control lane: a LANEMAP, or the request for another rate (R360, R361). -/
def Shake.message (h : Shake) : LaneMsg :=
  match h.rate with
  | none => .laneMap h.mask h.f h.b
  | some r => .retrain h.mask h.f h.b r

/-- This end starts a handshake, with a LANEMAP (R360, R361). -/
def Link.begin (l : Link) (failed : BitVec 16) (rate : Option Nat) : Link :=
  let h : Shake := { f := l.wire, b := boundaryOf l.wire, failed := failed, before := l.lanes, rate := rate, mine := true, mask := l.usable,
                     peerMask := none, passed := false }
  { l with st := .restripe, shake := some h }.control h.message

/-- The slower of two rates asked for (R363). -/
def slower : Option Nat → Option Nat → Option Nat
  | some x, some y => some (max x y)
  | some x, none => some x
  | none, y => y

/-- A LANEMAP or a request of the peer. Without a handshake of our own we take it and answer with our mask; of two requests that cross, the
lower rate and the choices of the lower end hold, and the other end answers with them (R360, R363). -/
def State.takeRequest (s : State) (l : Link) (mask : BitVec 16) (f b : Nat) (rate : Option Nat) : Link :=
  let l := { l with peerUsable := mask }
  match l.shake with
  | none =>
    let h : Shake := { f := f, b := b, failed := l.lanes &&& ~~~ mask, before := l.lanes, rate := rate, mine := false, mask := l.usable,
                       peerMask := some mask, passed := false }
    { l with st := .restripe, shake := some h }.control h.message
  | some h =>
    let h' := { h with peerMask := some mask, rate := slower h.rate rate, failed := h.failed ||| (l.lanes &&& ~~~ mask) }
    if h.mine && decide ((h.f, h.b) ≠ (f, b)) && !s.lowerEnd l then
      let h' := { h' with f := f, b := b, mine := false }
      { l with shake := some h' }.control h'.message
    else { l with shake := some h' }

/-- LANE_FAILURE: loss of lock on a lane, or its CRC limit. A lane in use starts a restripe, one that fails during a handshake waits for
the next; a link without usable lanes goes DOWN (R359, R360). -/
def execLaneFailure (s : State) : Res :=
  .next (match findLink s.links s.ev.num with
    | none => s
    | some l =>
      let lane := s.ev.addr.toNat
      let bit : BitVec 16 := 1#16 <<< lane
      let s := { s with errors := { s.errors with lanes := s.errors.lanes + 1 } }
      let l' := { l with usable := l.usable &&& ~~~ bit, laneErrs := l.laneErrs.filter fun e => e.1 ≠ lane }
      if l.st = .down then s.updLink l.num fun _ => l'
      else if laneSet (l'.usable &&& l'.peerUsable) = 0 then (s.updLink l.num fun _ => l').downLink l.num l.wire bit
      else s.updLink l.num fun _ => if l.lanes.getLsbD lane ∧ l.st = .up ∧ l.shake = none then l'.begin bit none else l')

/-- LANEMAP: the peer's lane map comes on the control lane (R360). -/
def execLaneMap (s : State) : Res :=
  .next (match findLink s.links s.ev.num, s.ev.msg with
    | some l, .laneMap mask f b => if l.carries then s.updLink l.num fun _ => s.takeRequest l mask f b none else s
    | _, _ => s)

/-- LANE_RETUNED: a lane that Fantail has retuned returns through the same handshake (R360). -/
def execLaneRetuned (s : State) : Res :=
  .next (match findLink s.links s.ev.num with
    | none => s
    | some l =>
      let l' := { l with usable := l.usable ||| (1#16 <<< s.ev.addr.toNat) }
      s.updLink l.num fun _ => if decide (l.st = .up) && l.shake.isNone then l'.begin 0 none else l')

/-- RETRAIN: a request for a lower rate, of Fantail at this end or of the peer; a higher one comes only with bring-up (R361, R363). -/
def execRetrain (s : State) : Res :=
  .next (match findLink s.links s.ev.num with
    | none => s
    | some l =>
      let rate := s.ev.word.toNat
      if rate ≤ l.rate ∨ 2 < rate then s
      else match s.ev.msg with
        | .laneMap mask f b => if l.carries then s.updLink l.num fun _ => s.takeRequest l mask f b (some rate) else s
        | _ => if decide (l.st = .up) && l.shake.isNone then s.updLink l.num fun _ => l.begin 0 (some rate) else s)

/-- The drain of a link begins (R367). -/
def Link.drain (l : Link) (now : Nat) : Link := { l with quiesceReq := false, draining := true, drainAt := now }

/-- A handshake is over: the link is up on the lane set of the masks exchanged, replays from the last ACK and reports it. A lane that has
failed or come back meanwhile starts the next one, and a quiesce that waits begins (R360, R361, R364, R367). -/
def State.shaken (s : State) (l : Link) (h : Shake) (event : Nat) : State :=
  let peer := h.peerMask.getD l.peerUsable
  let set := laneSet (h.mask &&& peer)
  if set = 0 then s.downLink l.num l.wire h.failed
  else
    let l' := { l with st := .up, lanes := set, rate := h.rate.getD l.rate, shake := none, wire := l.acked, pos := l.rx, setErrs := [] }
    let r := linkRecord l' 0 (laneCount h.before) (laneCount set) event h.f h.b h.failed 0
    let l' := if l'.quiesceReq then l'.drain s.cycle else l'
    let l' := if laneSet (l'.usable &&& peer) = set then l' else l'.begin (h.mask &&& ~~~ l'.usable) none
    (s.updLink l.num fun _ => l').linkNotice l.num r

/-- RESTRIPE_BOUNDARY: the boundary is reached, as the flits show, or, with word 1, as the peer, which has nothing left to send before it,
shows: the new lane set is in use, or the retrain begins (R360, R361). -/
def execRestripeBoundary (s : State) : Res :=
  .next (match findLink s.links s.ev.num with
    | none => s
    | some l => match l.shake with
      | some h =>
        let h := { h with passed := h.passed || decide (s.ev.word = 1) }
        if decide (l.st = .restripe) && h.peerMask.isSome && l.atBoundary h then
          (match h.rate with
          | some _ => s.updLink l.num fun l => { l with st := .retrain, since := s.cycle }
          | none => s.shaken l h 0)
        else s.updLink l.num fun l => { l with shake := some h }
      | none => s)

/-- RETRAIN_DONE: training at the new rate ends (R361). -/
def execRetrainDone (s : State) : Res :=
  .next (match findLink s.links s.ev.num with
    | none => s
    | some l => match l.shake with
      | some h => if l.st = .retrain then s.shaken l h 1 else s
      | none => s)

/-- RETRAIN_TIMEOUT: a retrain past 2^21 CCLK takes the link DOWN (R361). -/
def execRetrainTimeout (s : State) : Res :=
  .next (match findLink s.links s.ev.num with
    | none => s
    | some l => if l.st = .retrain ∧ l.since + 2 ^ 21 ≤ s.cycle then s.downLink l.num l.wire 0 else s)

/-! ### Bring-up (R362, R365, R368, R385) -/

/-- The job number that an end gives in the identity exchange; 0 while no job uses the link (R365; DESIGN CHOICE, log 141). -/
def State.linkJobNum (s : State) (n : Nat) : Nat := (s.linkJob n).elim 0 fun j => j.id

/-- Why bring-up is refused, from the identity and version exchanges (R365). -/
def State.refusal (s : State) (l : Link) (job modl link lo hi : Nat) : Option Nat :=
  if s.linkJobNum l.num ≠ job then some 2
  else if l.expect.isSome && decide (l.expect ≠ some (modl, link)) then some 3
  else if hi < Config.fantailLow ∨ Config.fantailHigh < lo then some 1
  else none

/-- Operations held for a module that is no longer the peer end (R368). -/
def State.endOldPeer (s : State) (n modl : Nat) : State :=
  let f (g : CoreId) (o : CopyOp) : CopyOp :=
    let m := if o.major = .catom then wbits o.tw 16 16 else wbits o.ctl 16 16
    if o.onLink n && decide (m ≠ modl) then o.endAt g 2 0x10 n else o
  let g (t : Slot) : Slot := { t with copies := t.copies.map (f t.key.core) }
  { s with cur := g s.cur, others := s.others.map g }

/-- The link may be brought up: it is down, or quiesced with a RESUME under way (R362, R368). -/
def Link.mayTry (l : Link) : Bool := decide (l.st = .down) || (decide (l.st = .quiesced) && l.expect.isSome)

/-- Fantail tries bring-up: it says who this end is, and which versions it has (R362, R365). -/
def State.tryLink (s : State) (l : Link) : State :=
  let (modl, coords) := (s.linkJob l.num).elim (0, []) fun j => (j.moduleId.toNat, j.coords)
  s.updLink l.num fun l =>
    ({ l with trying := true, tryAt := s.cycle + 2 ^ 20, ctl := [] }.control (.identity (s.linkJobNum l.num) modl l.num coords)).control
      (.versions Config.fantailLow Config.fantailHigh)

/-- The port opens once bring-up has been tried on every link, and the capability list is published (R385). -/
def State.openPort (s : State) : State :=
  if !s.host.recovery && s.links.all (fun l => l.tried) then { s with host := { s.host with opened := true } } else s

/-- A try ends without a link, refused with a record, or with no lane that trains: a quiesced one goes DOWN, and a RESUME fails (R362,
R365, R368). -/
def State.failTry (s : State) (l : Link) (refused : Option Record) : State :=
  let s := s.updLink l.num fun l => { l with trying := false, tried := true, expect := none }
  let s := match l.st, refused with
    | .quiesced, r => s.cutLink l (r.getD (linkRecord (l.off s.cycle) 2 0 0 2 l.tx 0 0 0))
    | _, some r => s.linkNotice l.num r
    | _, none => s
  s.answerLink l.num 9 1

/-- A try ends with the peer's identity and versions: refused, with no lane that trains, or UP, at rate code 0 and with sequence numbers
from 0 (R359, R362, R365, R368). -/
def State.endTry (s : State) (l : Link) (job modl lnk : Nat) (coords : List Nat) (lo hi : Nat) (mask : BitVec 16) : State :=
  match s.refusal l job modl lnk lo hi with
  | some reason => s.failTry l (some (linkRecord (l.off s.cycle) 2 0 0 6 0 0 0 reason))
  | none =>
    let own : BitVec 16 := s.ev.word.setWidth 16
    let set := laneSet (own &&& mask)
    if set = 0 then s.failTry l none
    else
      let event := if l.expect.isSome then 5 else 3
      let l' := { Link.reset l.num with
        st := .up, lanes := set, usable := own, peerUsable := mask, peer := some (modl, lnk), peerCoords := coords
        version := min hi Config.fantailHigh, tried := true, tryAt := l.tryAt, flits := l.flits, ackAt := s.cycle
        counted := if l.peer = some (modl, lnk) then l.counted else [] }
      let s := (s.updLink l.num fun _ => l').endOldPeer l.num modl
      (s.linkNotice l.num (linkRecord l' 0 0 (laneCount set) event 0 0 0 0)).answerLink l.num 9 0

/-- BRING_UP: a try begins when it is due; it ends with the lanes that train at this end and what the exchanges bring from the peer, or, with
word 1, with nothing (R362, R365, R368, R385). -/
def execBringUp (s : State) : Res :=
  .next (match findLink s.links s.ev.num with
    | none => s
    | some l =>
      if !l.mayTry then s
      else match s.ev.msg with
        | .peer job modl lnk coords lo hi mask => if l.trying then (s.endTry l job modl lnk coords lo hi mask).openPort else s
        | _ =>
          if l.trying && decide (s.ev.word = 1) then (s.failTry l none).openPort
          else if l.tryAt ≤ s.cycle then s.tryLink l else s)

/-! ### Quiesce (R367, R369) -/

/-- A remote CATOM that has been sent holds a veto on its link (R369). -/
def CopyOp.vetoes (o : CopyOp) (n : Nat) : Bool :=
  decide (o.major = .catom) && o.onLink n && decide (o.phase = .running) && !o.arrived.isEmpty

/-- A remote CATOM of the peer that this module has not answered holds a veto too. -/
def HeldMsg.vetoes (h : HeldMsg) (n : Nat) : Bool := decide (h.link = n) && match h.msg with | .catom .. => true | _ => false

/-- A link holds a veto. -/
def State.vetoed (s : State) (n : Nat) : Bool := (s.slots.any fun t => t.copies.any fun o => o.vetoes n) || s.held.any fun h => h.vetoes n

/-- QUIESCE_DRAINED: everything sent is acknowledged and no veto is held: the link is QUIESCED, its lanes idle (R359, R367). -/
def execQuiesceDrained (s : State) : Res :=
  .next (match findLink s.links s.ev.num with
    | none => s
    | some l =>
      if l.draining && decide (l.st = .up) && l.shake.isNone && l.replay.isEmpty && l.queue.isEmpty && !s.vetoed l.num then
        let l' := { l with st := .quiesced, draining := false, lanes := 0 }
        ((s.updLink l.num fun _ => l').linkNotice l.num (linkRecord l' 1 (laneCount l.lanes) 0 4 l.tx l.tx 0 0)).answerLink l.num 8 0
      else s)

/-- VETO_TIMEOUT: a veto held for 200,000 CCLK of a drain is broken: its CATOM ends, and one of the peer's is refused with F_LINK (R369). -/
def execVetoTimeout (s : State) : Res :=
  .next (match findLink s.links s.ev.num with
    | none => s
    | some l =>
      if l.draining && decide (l.drainAt + 200000 ≤ s.cycle) then
        let f (g : CoreId) (o : CopyOp) : CopyOp :=
          if o.vetoes l.num then o.stop 2 0x10 (BitVec.ofNat 16 l.num) (o.chunkVa g 0) else o
        let g (t : Slot) : Slot := { t with copies := t.copies.map (f t.key.core) }
        let s := { s with cur := g s.cur, others := s.others.map g }
        (s.held.filter fun h => h.vetoes l.num).foldl (fun (s : State) (h : HeldMsg) =>
          (h.msg.refusal 0x10 (BitVec.ofNat 16 (l.peer.elim 0 Prod.snd))).elim s fun m => s.answerHeld h m) s
      else s)

end Sys2Proof.Machine
end

