-- ==== Sys2Proof/Machine/Kcp.lean ====
section
/-! DEFINITION. The host port: frames and their order (R370, R373, R374), the commands (R375), and their events; SEND (R371). -/

namespace Sys2Proof.Machine

/-! ### Commands -/

/-- A command that the port has taken: its source, sequence number, job, digest and body (R373). -/
structure Cmd where
  src : BitVec 128
  seq : Nat
  code : Nat
  job : Nat
  digest : List Byte
  body : List Byte
deriving DecidableEq, Repr

def Cmd.pend (c : Cmd) (arg : Nat) (old : Word) : Pending :=
  { seq := c.seq, code := c.code, job := c.job, digest := c.digest, arg := arg, old := old }

/-- A number in the body. -/
def Cmd.num (c : Cmd) (o n : Nat) : Nat := recNat c.body o n

/-- The fields of a command frame; none where the port drops it (R373). -/
def cmdOf (src : BitVec 128) (f : List Byte) : Option Cmd :=
  let n := recNat f 0x18 4
  let head := f.take (f.length - 64)
  if decide (f.length = 96 + n) && decide (n ≤ 8752) && decide (recNat f 0 4 = 0x4B435031) && decide (recNat f 4 2 = 1)
      && decide (recNat f 6 2 = 1) && recZero f 0x1C 4 && decide (f.drop (f.length - 64) = sha3 head) then
    some { src := src, seq := recNat f 8 8, code := recNat f 0x10 4, job := recNat f 0x14 4, digest := f.drop (f.length - 64), body := head.drop 32 }
  else none

/-- A command answered: status and body (R373). -/
def State.ok (s : State) (c : Cmd) (body : List Byte) : State := s.answer (c.pend 0 0) 0 body
def State.reject (s : State) (c : Cmd) (reason : Nat) : State := s.answer (c.pend 0 0) 1 (bytesOf 4 reason)

/-- Commands that change state: a full audit log holds them back (R384). -/
def changesState (code : Nat) : Bool := decide (code ≤ 9) || decide (code = 0x10) || decide (code = 0x11)

/-- Commands that the port executes before the first JOB_CREATE, and in recovery (R370). -/
def early (code : Nat) : Bool := decide (code ∈ [1, 0x0A, 0x0B, 0x0C, 0x0D, 0x0E])
def inRecovery (code : Nat) : Bool := decide (code ∈ [0x0B, 0x0D, 0x10])

/-- The port takes frames from a source (R370, R381). -/
def HostState.takes (h : HostState) (src : BitVec 128) (code : Nat) : Bool :=
  if h.recovery then inRecovery code else h.opened && (h.addrs.isEmpty || h.addrs.contains src)

/-- An accepted command runs: it is held back before the first JOB_CREATE or by a full audit log, and is audited otherwise
(R370, R384). -/
def State.runCmd (s : State) (c : Cmd) (run : Cmd → State → State) : State :=
  let s := { s with host := { s.host with next := c.seq + 1 } }
  if !s.host.recovery && s.host.addrs.isEmpty && !early c.code then s.reject c 1
  else if changesState c.code && decide (auditSize ≤ s.host.audit.length) then s.answer (c.pend 0 0) 5 []
  else run c (s.audit 1 0x40000000 (bytesOf 8 c.seq ++ bytesOf 4 c.code ++ bytesOf 4 c.job))

/-- A frame at the port: dropped, answered from the journal, refused by its sequence number, held while an earlier command is
not answered, or run (R370, R373, R374). `code` is the command that the event names; `what` is the event itself. -/
def State.frameIn (s : State) (what : Instr) (code : Option Nat) (run : Nat → Option (Cmd → State → State)) : State :=
  match s.ev.msg with
  | .frame src f =>
    (match cmdOf src f with
    | none => s
    | some c =>
      if code.elim false (fun n => decide (n ≠ c.code)) || !s.host.takes src c.code then s
      else
        let next := s.host.next
        let bare (status : Nat) : State := s.sendHost (frameBytes 2 c.seq c.code c.job status [])
        if c.seq = next then
          (if s.host.waiting.isSome then { s with inputs := { cycle := s.cycle + 1, what := what, args := s.ev } :: s.inputs }
          else match run c.code with
            | some f => s.runCmd c f
            | none => s.runCmd c fun c s => s.reject c 2)
        else if next < c.seq then bare 3
        else match s.host.journal.find? fun e => e.seq = c.seq with
          | some e => s.sendHost e.answer
          | none => if c.seq + journalSize < next then bare 4 else s)
  | _ => s

/-! ### Jobs (R375, R389) -/

/-- The lowest partition number that no live partition holds (R389). -/
def State.freePartition (s : State) : Option Nat :=
  (List.range 32).find? fun n => s.jobs.all fun j => decide (j.partition.toNat ≠ n)

/-- The Millstone ports that a JOB_CREATE asks for: 12 bits for each Millstone (R350). -/
def Cmd.ports (c : Cmd) : List Endpoint :=
  (List.range 4).flatMap fun m => ((List.range 12).filter fun p => decide (c.num (24 + 2 * m) 2 / 2 ^ p % 2 = 1)).map fun p => { num := 32 + m, port := p }

/-- The capability list (R377). DESIGN CHOICE: R377 gives the values and no widths; each value stands in the least of 1, 2 or 4 bytes that
holds it, a range of rate codes as the number of codes (log 121). -/
def capBytes : List Byte :=
  let datas : List (List Byte) :=
    [productBytes, bytesOf 2 2000 ++ bytesOf 2 128, bytesOf 1 8 ++ bytesOf 1 36 ++ bytesOf 1 64, bytesOf 2 4096 ++ bytesOf 2 8192,
     bytesOf 2 0x01FF, bytesOf 2 0x01F0, bytesOf 1 16 ++ bytesOf 1 16 ++ bytesOf 1 3, bytesOf 4 262144 ++ bytesOf 4 65536 ++ bytesOf 4 4096,
     bytesOf 2 4096 ++ bytesOf 2 1024 ++ bytesOf 2 64, bytesOf 4 65536 ++ bytesOf 4 65536 ++ bytesOf 4 1024]
  (datas.zipIdx.foldl (fun (p : List Byte) (d : List Byte × Nat) =>
    p ++ bytesOf 2 (d.2 + 1) ++ bytesOf 1 1 ++ bytesOf 1 d.1.length ++ bytesOf 2 (if d.2 + 1 = 10 then 0 else p.length + 6 + d.1.length) ++ d.1) [])

/-- A measurement register extended (R379). -/
def HostState.extend (h : HostState) (n : Nat) (d : List Byte) : HostState :=
  { h with meas := h.meas.zipIdx.map fun m => if m.2 = n then sha3 (m.1 ++ d) else m.1 }

/-- The dies of a JOB_CREATE. -/
def Cmd.dies (c : Cmd) : List Nat := (List.range 32).filter fun d => decide (c.num 0 4 / 2 ^ d % 2 = 1)

/-- The torus of a JOB_CREATE is legal: one to four dimensions (R366). -/
def Cmd.torusOk (c : Cmd) : Bool :=
  let n := c.num 4 1
  decide (1 ≤ n ∧ n ≤ 4) && decide (c.num 5 1 < n) && (List.range n).all fun k => decide (c.num (16 + 2 * k) 2 < c.num (8 + 2 * k) 2)

/-- The links of a new job's torus that were brought up before it are brought up anew, to say and learn who stands at their ends (R365,
R366; DESIGN CHOICE, log 141). -/
def State.renewLinks (s : State) (j : Job) : State :=
  (s.links.filter fun l => j.usesLink l.num && decide (l.st ≠ .down)).foldl (fun (s : State) (l : Link) =>
    (s.downLink l.num l.wire 0).updLink l.num fun l => { l with tryAt := s.cycle }) s

/-- JOB_CREATE: the partition is set up, with its tables and capability page; the first fixes the host address set (R297,
R350, R366, R370, R377, R379, R388, R389). -/
def runJobCreate (c : Cmd) (s : State) : State :=
  let ds := c.dies
  let ps := c.ports
  match s.freePartition with
  | none => s.reject c 3
  | some part =>
    if ds.isEmpty || (ds.any fun d => s.jobs.any fun j => j.dies.contains d) || !c.torusOk || ps.any (fun p => s.millPorts.any fun q => q.1 = p) then s.reject c 4
    else
      let n := c.num 4 1
      let j : Job :=
        { id := s.host.nextJob, partition := BitVec.ofNat 16 part, dies := ds, root := tableRoot part, moduleId := BitVec.ofNat 16 (c.num 6 2),
          extents := (List.range n).map fun k => c.num (8 + 2 * k) 2, coords := (List.range n).map fun k => c.num (16 + 2 * k) 2, ring := c.num 5 1,
          tables := 1, maps := [] }
      let addrs := if s.host.addrs.isEmpty then
          c.src :: (List.range (min 7 (c.num 32 1))).map fun i => BitVec.ofNat 128 (c.num (40 + 16 * i) 16)
        else s.host.addrs
      let h := ((s.host.extend 4 (sha3 (bytesOf 4 part ++ bytesOf 4 (c.num 0 4)))).extend 5 (sha3 c.body))
      let s := { s with
        jobs := s.jobs ++ [j], millPorts := s.millPorts ++ ps.map fun p => (p, j.partition)
        deadDies := s.deadDies.filter fun d => !ds.contains d
        cores := s.cores.map fun (x : Core) => if ds.contains (dieOf x.g) then { x with failed := false } else x
        host := { h with nextJob := s.host.nextJob + 1, addrs := addrs } }
      let s := (s.keepPage j 65535 false capBytes).getD s
      let s := s.renewLinks j
      (s.audit 2 mgmtAgent (bytesOf 4 part ++ bytesOf 4 (c.num 0 4))).ok c (bytesOf 4 j.id ++ bytesOf 4 part)

/-- Every circuit of a launch is torn down and its program stops (R340). -/
def State.stopProgram (s : State) (l : Launch) : State :=
  (l.circuits.foldl (fun (s : State) (c : Circuit) => s.tearDown l.num c.ch) s).updLaunch l.num fun l =>
    { l with circuits := [], hold := .none, progOver := true }

/-- A launch is cancelled, or ended for a cause: its instances go, its bound and saved threads are ended, those being bound or restored
as soon as that is over; a cancelled one loses its circuits and its program at once (R323, R340). -/
def State.endLaunch (s : State) (l : Launch) (cancelled : Bool) (cause : BitVec 8) : State :=
  let s := s.updLaunch l.num fun l => { (if l.unbound.isEmpty then l else l.kill cause l.unbound.length) with
    unbound := [], inPool := false, cancelled := l.cancelled || cancelled }
  let mine (t : Slot) : Bool := decide (t.bind.launch = l.num)
  let ks := (s.slots.filter fun t => mine t && t.live).map fun t => t.key
  let s := ks.foldl (fun (s : State) (k : SlotId) => s.onSlot k fun s => s.endThread cause) s
  let later (t : Slot) : Slot := if mine t && (decide (t.status = .binding) || decide (t.status = .restoring)) then { t with ending := some cause } else t
  let s : State := { s with cur := later s.cur, others := s.others.map later }
  let s := (s.images.filter fun i => decide (i.launch = l.num) && i.restoring.isNone).foldl (fun (s : State) (i : Image) => s.endImage i cause) s
  match cancelled, findLaunch s.launches l.num with
  | true, some l => s.stopProgram l
  | _, _ => s.endProgram l.num

/-- A loan to a remote module or to the host goes back to its home (R280, R372). -/
def State.returnLoan (s : State) (e : Entry) : State := s.passEntry e.owner e.ret

/-- JOB_END: every launch of the job ends; the answer follows when they are over (R375). -/
def runJobEnd (c : Cmd) (s : State) : State :=
  if (findJob s.jobs c.job).isNone then s.reject c 1
  else
    let s := (s.launches.filter fun l => l.job = c.job).foldl (fun (s : State) (l : Launch) => s.endLaunch l true 0) s
    { s with host := { s.host with waiting := some (c.pend c.job 0) } }

/-- The collectives of a job go, and the units that served them take up the keys that wait (R328, R375). -/
def State.dropColls (s : State) (job : Nat) : State :=
  (s.colls.filter fun c => c.served && decide (c.job = job)).foldl (fun (s : State) (c : Coll) => s.nextKey c.mill c.unit)
    { s with colls := s.colls.filter fun c => c.job ≠ job }

/-- The job is taken down: loans return, tokens go, pages are freed and zeroed, the partition and its ports are free (R248,
R280, R375, R389). -/
def State.takeDown (s : State) (j : Job) : State :=
  let s := (s.tokens.filter fun e => decide (e.job = j.id) && decide (agentKind e.owner = 3)).foldl State.returnLoan s
  let frame (m : Nat × Nat × Word) : Nat := wbits m.2.2 0 36 / 2 ^ m.2.1 * 2 ^ m.2.1
  let s := j.maps.foldl (fun (s : State) (m : Nat × Nat × Word) =>
    if m.2.2.getLsbD 8 then s.zeroAll j (frame m) (2 ^ m.2.1)
    else
      let pa := wbits m.2.2 43 5 * 2 ^ 43 + frame m
      s.zeroRange pa (2 ^ m.2.1)) s
  let s := (s.zeroAll j j.root (2 ^ 20)).dropColls j.id
  { s with
    tokens := s.tokens.filter fun e => e.job ≠ j.id, jobs := s.jobs.filter fun x => x.id ≠ j.id
    millPorts := s.millPorts.filter fun p => p.2 ≠ j.partition
    cores := s.cores.map fun (x : Core) => { x with tlb := x.tlb.filter fun e => e.job ≠ j.id, l1 := x.l1.filter fun e => e.job ≠ j.id } }

/-- Nothing of a job is left: no launch of it, and no slot that it holds. -/
def State.jobIdle (s : State) (job : Nat) : Bool :=
  (s.launches.all fun l => decide (l.job ≠ job)) && s.slots.all fun t => decide (t.status = .free) || decide (t.bind.job ≠ job)

/-- A JOB_END is over. -/
def State.finishJobEnd (s : State) : State :=
  match s.host.waiting with
  | some p =>
    if decide (p.code = 2) && s.jobIdle p.arg then
      (match findJob s.jobs p.arg with
      | some j => (s.takeDown j).answerWaiting 0 []
      | none => s.answerWaiting 0 [])
    else s
  | none => s

/-! ### MAP (R301) -/

/-- The frames that a job's entry names: of a replicated page one on each die of the partition (R298). -/
def Job.frames (j : Job) (log2 : Nat) (pte : Word) : List Nat :=
  let pa := wbits pte 0 48 / 2 ^ log2 * 2 ^ log2
  if pte.getLsbD 8 then j.dies.map fun d => d * 2 ^ 43 + pa % 2 ^ 43 else [pa]

/-- A page of a job lies in one of some frames. -/
def Job.meetsFrames (j : Job) (m : Nat × Nat × Word) (fs : List Nat) (log2 : Nat) : Bool := fs.any fun f => j.pageMeets m f (2 ^ log2)

/-- A page that a mapping at an address replaces, and one that it overlaps at the other leaf size. -/
def sameLeaf (m : Nat × Nat × Word) (va log2 : Nat) : Bool := decide (m.1 = va) && decide (m.2.1 = log2)
def otherLeaf (m : Nat × Nat × Word) (va log2 : Nat) : Bool := !sameLeaf m va log2 && rangesMeet m.1 (2 ^ m.2.1) va (2 ^ log2)

/-- Corelo refuses a mapping: its entry faults, it names Corelo's pages or frames or a context image's, its frame lies outside the
partition, it would make a replicated page writable (R13, R245, R296, R298), or it overlaps a page of the other leaf size. DESIGN
CHOICE: MAP changes one mapping, and R301 gives no order for taking away several (log 112). -/
def State.mapBad (s : State) (j : Job) (va log2 : Nat) (pte : Word) : Bool :=
  !inPages va || decide (va % 2 ^ log2 ≠ 0) || decide (va < keptVa 65536 ∧ keptVa 0 < va + 2 ^ log2)
    || (pte.getLsbD 0 && (pteBad (pteOf pte) (if log2 = 25 then 3 else 4) || !pte.getLsbD 1
      || !j.dies.contains (wbits pte 43 5) || decide (wbits pte 12 24 * 4096 + 2 ^ log2 > keptFrame 0)
      || (pte.getLsbD 8 && decide (wbits pte 43 5 ≠ j.dies.headD 0))
      || (j.frames log2 pte).any (fun f => s.meetsImage f (2 ^ log2))
      || s.jobs.any fun k => k.maps.any fun m => !(decide (k.id = j.id) && sameLeaf m va log2) && k.meetsFrames m (j.frames log2 pte) log2
          && ((pte.getLsbD 3 && m.2.2.getLsbD 8) || (pte.getLsbD 8 && m.2.2.getLsbD 3))))
    || j.maps.any fun m => otherLeaf m va log2

/-- The copies of a replicated page are written whole from the one on the lowest die; what is uncorrectable there is so in each copy
(R292, R298). -/
def State.copyFrames (s : State) (j : Job) (log2 : Nat) (pte : Word) : State :=
  if pte.getLsbD 0 && pte.getLsbD 8 then
    let from_ := wbits pte 0 48 / 2 ^ log2 * 2 ^ log2
    let in_ (a : Nat) : Bool := decide (from_ ≤ a) && decide (a < from_ + 2 ^ log2)
    let cells := (s.mem.filter fun c => in_ c.1).map fun c => (c.1 - from_, c.2)
    let bad := (s.bad.filter fun e => in_ e.1).map fun e => (e.1 - from_, e.2)
    ((j.frames log2 pte).filter fun f => f ≠ from_).foldl (fun (s : State) (f : Nat) =>
      let s := s.zeroRange f (2 ^ log2)
      { s with mem := memWrites s.mem (cells.map fun c => (f + c.1, c.2)), bad := s.bad ++ bad.map fun e => (f + e.1, e.2) }) s
  else s

/-- MAP: the entry is written in every copy and the TLBs are invalidated; the answer follows step 4 (R301). -/
def runMap (c : Cmd) (s : State) : State :=
  match findJob s.jobs c.job with
  | none => s.reject c 1
  | some j =>
    let va := c.num 0 8
    let pte := BitVec.ofNat 64 (c.num 8 8)
    let log2 := if c.num 16 1 = 0 then 16 else 25
    if s.mapBad j va log2 pte then s.reject c 2
    else
      let old := (j.maps.find? fun m => decide (m.1 = va) && decide (m.2.1 = log2)).elim 0 fun m => m.2.2
      match (s.copyFrames j log2 pte).setPage j va log2 pte with
      | none => s.reject c 3
      | some s => { s.reforward j.id va log2 with host := { s.host with waiting := some (c.pend (va * 64 + log2) old) } }

/-- Accesses and engine work on a page are in flight (R301). -/
def Slot.usesPage (t : Slot) (job va size : Nat) : Bool :=
  let on (x : Scop) : Bool := decide (va ≤ x.va.toNat) && decide (x.va.toNat < va + size)
  decide (t.bind.job = job) && ({ t with fenceAt := none }.busyIn va size || t.scop.elim false on || t.orphans.any on)

/-- A collective at a unit holds a translation of a page (R299, R301). -/
def Coll.usesPage (c : Coll) (job va size : Nat) : Bool :=
  decide (c.job = job) && c.got.any fun x => x.here && (x.src.pages ++ x.dst.pages).any fun p => decide (va ≤ p.1) && decide (p.1 < va + size)

/-- A page is in use by a thread in a slot, by a COLL of a saved one, whose other work has stopped, or by a unit (R211, R301). -/
def State.pageUsed (s : State) (job va size : Nat) : Bool :=
  (s.colls.any fun c => c.usesPage job va size) || (s.slots.any fun t => t.usesPage job va size)
    || s.images.any fun i => ({ i.ctx with copies := i.ctx.copies.filter fun (o : CopyOp) => decide (o.major = .coll) } : Slot).usesPage job va size

/-- The parts of some frames that no mapping names any longer, and no image has taken, are zeroed, in blocks of 64 KiB (R245, R248,
R301). -/
def State.freeFrames (s : State) (fs : List Nat) (log2 : Nat) : State :=
  let blocks := fs.flatMap fun f => (List.range (2 ^ (log2 - 16))).map fun i => f + 65536 * i
  (blocks.filter fun b => !s.meetsImage b 65536 && !s.jobs.any fun k => k.maps.any fun m => k.meetsFrames m [b] 16).foldl (fun (s : State) (b : Nat) => s.zeroRange b 65536) s

/-- The copies of a replicated page are written once more when the last access by an old entry of the same frame is over (R298, R301). -/
def State.recopy (s : State) (j : Job) (va log2 : Nat) : State :=
  match j.maps.find? fun m => sameLeaf m va log2 with
  | some m => s.copyFrames j log2 m.2.2
  | none => s

/-- Steps 3 and 4 of a MAP: nothing uses the old translation any more; the L1 lines go, and a frame that no mapping names any
longer is zeroed (R248, R301). -/
def State.finishMap (s : State) : State :=
  match s.host.waiting with
  | some p =>
    let log2 := p.arg % 64
    let va := p.arg / 64
    if decide (p.code = 3) && !s.pageUsed p.job va (2 ^ log2) then
      let s := { s with cores := s.cores.map fun (x : Core) => { x with l1 := x.l1.filter fun e =>
        !(decide (e.job = p.job) && decide (va ≤ e.line * 128) && decide (e.line * 128 < va + 2 ^ log2)) } }
      (match findJob s.jobs p.job with
        | some j => if p.old = 0 then s else (s.recopy j va log2).freeFrames (j.frames log2 p.old) log2
        | none => s).answerWaiting 0 []
    else s
  | none => s

/-! ### SUBMIT, CANCEL, PREEMPT (R311, R321, R323) -/

/-- A doubleword that the sequencer reads for a job through the management path: translation and R permission (R337). -/
def State.mgmtRead (s : State) (j : Job) (va : Nat) : Option Nat :=
  if !inPages va then none
  else match s.translate (BitVec.ofNat 9 (16 * j.dies.headD 0)) j.id va with
    | .ok m => if m.pte.r && !(eccIn s.bad m.pa 8).isSome then some (memNat s.mem m.pa 8) else none
    | .error _ => none

/-- Corelo's page for the copy of a record: the lowest that no live launch uses (R13). -/
def State.copyPage (s : State) (job : Nat) : Option Nat :=
  (List.range 65535).find? fun i => s.launches.all fun l => !(decide (l.job = job) && l.keepsPage && decide (l.recordAddr.toNat = keptVa i))

/-- SUBMIT: one launch record (R311–R313), its copy placed for s3 (R13). -/
def runSubmit (c : Cmd) (s : State) : State :=
  match findJob s.jobs c.job, s.copyPage c.job with
  | some j, some i =>
    if c.body.length ≠ 512 then s.reject c 2
    else match s.submit j .host false (BitVec.ofNat 64 (keptVa i)) c.body (s.mgmtRead j) with
      | .rejected => s.reject c 2
      | .full => s.answer (c.pend 0 0) 2 []
      | .accepted num s' => match s'.keepPage j i true c.body with
        | some s'' => s''.ok c (bytesOf 4 num)
        | none => s.reject c 3
  | _, _ => s.reject c 1

/-- A launch that Corelo submits to a job on its own behalf: its threads are supervisor threads (R11, R312). -/
def State.submitOwn (s : State) (job : Nat) (r : List Byte) : State :=
  match findJob s.jobs job, s.copyPage job with
  | some j, some i =>
    if r.length ≠ 512 then s
    else match s.submit j .corelo true (BitVec.ofNat 64 (keptVa i)) r (s.mgmtRead j) with
      | .accepted _ s' => (s'.keepPage j i true r).getD s
      | _ => s
  | _, _ => s

/-- CANCEL of a launch (R323), or of a collective by its key (R331). -/
def runCancel (c : Cmd) (s : State) : State :=
  if c.num 4 1 = 1 then (s.cancelColls fun x => decide (x.job = c.job) && decide (x.key = c.num 0 4)).ok c []
  else match findLaunch s.launches (c.num 0 4) with
    | some l => if l.job = c.job then (s.endLaunch l true 0).ok c [] else s.reject c 1
    | none => s.reject c 1

/-- A request to pre-empt the thread in a slot: it ends an MWAIT or a SLEEP (R127, R130, R241). -/
def Slot.request (t : Slot) : Slot := { t.wakeForRequest with preemptReq := true }

/-- PREEMPT of a thread, named by launch and linear number (R241, R321). -/
def runPreempt (c : Cmd) (s : State) : State :=
  match s.slotOfLin (c.num 0 4) (c.num 4 4) with
  | some k =>
    if (s.slotAt k).status = .bound then (s.onSlot k fun s => s.upd Slot.request).ok c [] else s.reject c 1
  | none => s.reject c 1

/-- RETURN of a region lent to the host or to a remote module (R280, R372). -/
def runReturn (c : Cmd) (s : State) : State :=
  let w := c.num 0 8
  match findEntry s.tokens c.job (w / 65536 * 65536) (w % 64) with
  | some e =>
    if (agentKind e.owner = 4 ∨ agentKind e.owner = 3) ∧ e.st = .lent then (s.returnLoan e).ok c [] else s.reject c 1
  | none => s.reject c 1

/-! ### QUIESCE and RESUME (R367, R368) -/

/-- QUIESCE of a link: its drain begins, or will when a change of width or rate ends (R367). -/
def runQuiesce (c : Cmd) (s : State) : State :=
  match findLink s.links (c.num 0 4) with
  | some l =>
    if !l.draining && !l.quiesceReq && decide (l.st ≠ .down) && decide (l.st ≠ .quiesced) then
      { s.updLink l.num (fun l => if l.st = .up then l.drain s.cycle else { l with quiesceReq := true }) with
        host := { s.host with waiting := some (c.pend l.num 0) } }
    else s.reject c 1
  | none => s.reject c 1

/-- RESUME of a link with the peer expected: bring-up is due at once. Until it is over a quiesced link stays so, and its operations wait
(R368; DEDUCED, log 137). -/
def runResume (c : Cmd) (s : State) : State :=
  match findLink s.links (c.num 0 4) with
  | some l =>
    if l.st = .quiesced ∨ l.st = .down then
      { s.updLink l.num (fun l => { l with expect := some (c.num 4 4, c.num 8 4), trying := false, tryAt := s.cycle }) with
        host := { s.host with waiting := some (c.pend l.num 0) } }
    else s.reject c 1
  | none => s.reject c 1

/-! ### Reading (R320, R375–R377, R383, R384) -/

/-- A journal entry (R376). -/
def JournalEntry.bytes (e : JournalEntry) : List Byte :=
  let body := (e.answer.drop 32).take (e.answer.length - 96)
  bytesOf 8 e.seq ++ bytesOf 4 e.code ++ bytesOf 2 e.status ++ bytesOf 2 0 ++ bytesOf 8 e.time ++ e.digest.take 64
    ++ (body ++ List.replicate 32 0).take 32 ++ bytesOf 8 0

/-- JOURNAL_READ from a sequence number on: at most 64 entries, EXPIRED when it is older than the oldest kept (R376). -/
def runJournalRead (c : Cmd) (s : State) : State :=
  let n := c.num 0 8
  let js := (s.host.journal.filter fun e => decide (n ≤ e.seq)).take 64
  s.answer (c.pend 0 0) (if s.host.journal.head?.elim false fun e => decide (n < e.seq) then 4 else 0) (js.flatMap JournalEntry.bytes)

/-- CAP_READ (R377). -/
def runCapRead (c : Cmd) (s : State) : State := s.ok c capBytes

/-- The code of a slot's state (R320). -/
def SlotStatus.code : SlotStatus → Nat
  | .free => 0 | .binding => 1 | .bound => 2 | .saving => 3 | .restoring => 4 | .scrubbing => 5

/-- A slot's bind record (R320). -/
def Slot.bindBytes (t : Slot) (fused : Bool) : List Byte :=
  bytesOf 1 t.status.code ++ bytesOf 1 ((if t.bind.supervisor then 1 else 0) + (if fused then 2 else 0)) ++ bytesOf 2 t.bind.partition.toNat
    ++ bytesOf 4 t.bind.launch ++ bytesOf 4 t.bind.lin ++ bytesOf 4 t.key.agent.toNat ++ bytesOf 8 t.bind.spbaseA ++ bytesOf 8 t.bind.spbaseB
    ++ bytesOf 8 t.bind.recordCopy.toNat ++ bytesOf 8 t.bind.image.toNat ++ List.replicate 16 0

/-- DIAG_READ of a die: its slot table, and Corelo's error counters (R320, R375). -/
def runDiagRead (c : Cmd) (s : State) : State :=
  let table := (dieCores (c.num 0 4 % 32)).flatMap fun g => (s.coreSlots g).flatMap fun t => t.bindBytes (s.core g).fused
  s.ok c (table ++ bytesOf 8 s.errors.soft ++ bytesOf 8 s.errors.fabric ++ bytesOf 8 s.errors.lanes ++ bytesOf 8 s.errors.links)

/-- The attestation report (R383). -/
def State.report (s : State) (nonce : List Byte) : List Byte :=
  let h := s.host
  nonce ++ h.meas.flatten ++ (productBytes ++ List.replicate 32 0).take 32 ++ (h.firmware.flatMap fun f => bytesOf 4 f.version.toNat) ++ bytesOf 4 0
    ++ h.auditHead ++ bytesOf 8 h.auditCount ++ bytesOf 8 s.nanos

/-- ATTEST over a nonce (R383). -/
def runAttest (c : Cmd) (s : State) : State :=
  let r := s.report ((c.body ++ List.replicate 64 0).take 64)
  let sig := Config.mlDsaSign (sha3 r)
  if c.body.length = 64 then s.ok c (r ++ (List.range 4627).map fun i => sig[i]?.getD 0) else s.reject c 1

/-- An audit entry's 192 bytes (R384). -/
def AuditEntry.bytes (e : AuditEntry) : List Byte := auditBytes e.index e.time e.kind e.agent e.data ++ e.hash

/-- AUDIT_READ: the oldest held entries (R384). -/
def runAuditRead (c : Cmd) (s : State) : State :=
  let es := s.host.audit.take 45
  let last := es.foldl (fun (n : Nat) (e : AuditEntry) => max n (e.index + 1)) s.host.auditRead
  { s with host := { s.host with auditRead := last } }.ok c (es.flatMap AuditEntry.bytes)

/-- AUDIT_ACK: entries that were read, up to the index named, are discarded (R384). -/
def runAuditAck (c : Cmd) (s : State) : State :=
  let n := c.num 0 8
  { s with host := { s.host with audit := s.host.audit.filter fun e => decide (n < e.index) || decide (s.host.auditRead ≤ e.index) } }.ok c []

/-! ### DOWNLOAD (R381, R382) -/

/-- The three images of a bundle: versions and lengths first, then bytes, signature and public key of each. DESIGN CHOICE: the manual gives a
bundle no layout (log 142). -/
def bundleImages (b : List Byte) : List FwImage :=
  ((List.range 3).foldl (fun (p : List FwImage × List Byte) (i : Nat) =>
    let n := recNat b (16 * i + 4) 4
    let m := recNat b (16 * i + 8) 4
    let k := recNat b (16 * i + 12) 4
    (p.1 ++ [{ version := BitVec.ofNat 32 (recNat b (16 * i) 4), bytes := p.2.take n, sig := (p.2.drop n).take m, key := (p.2.drop (n + m)).take k }],
      p.2.drop (n + m + k)))
    ([], b.drop 48)).1

/-- The ROM takes an image: its public key is the one whose digest is fused, its signature is good under that key, and its version is not
below the fused counter (R381). -/
def HostState.accepts (h : HostState) (f : FwImage) : Bool :=
  decide (sha3 f.key = Config.fusedKeyDigest) && Config.mlDsaVerify f.key (sha3 f.bytes) f.sig && decide (h.fuse.toNat ≤ f.version.toNat)

/-- DOWNLOAD: in recovery or without jobs, a bundle whose images are good fills the slot, raises the counter and resets the
module (R382). -/
def runDownload (c : Cmd) (s : State) : State :=
  let fs := bundleImages c.body
  if (s.host.recovery || s.jobs.isEmpty) && fs.all s.host.accepts then
    let low := fs.foldl (fun (n : Nat) (f : FwImage) => min n f.version.toNat) (2 ^ 32 - 1)
    let s := { s with host := { s.host with firmware := fs, fuse := BitVec.ofNat 32 (max s.host.fuse.toNat low) } }
    let s := (s.audit 6 mgmtAgent (bytesOf 4 low)).ok c []
    { s with agenda := .event .moduleReset EvArgs.none :: s.agenda }
  else s.reject c 1

/-! ### FAIL (R271, R281, R282, R388) -/

/-- An entry after agents are lost: owner, sharers, home agent (R271). -/
def Entry.lose (e : Entry) (gone : AgentId → Bool) : Entry :=
  let e := { e with shares := e.shares.filter fun x => !gone x.1 }
  if gone e.owner ∧ e.st ≠ .lost then { e with st := .lost, writers := 0, closing := false }
  else if e.st = .lost then e
  else
    let e := if e.st = .shared ∧ e.shares.isEmpty then { e with st := e.settled } else e
    if gone e.homeAgent then
      let e := { e with homeAgent := e.owner }
      if e.st = .lent then { e with st := .excl } else e
    else e

/-- The FAULT record of an entry that becomes LOST: to the home agent's ring when it is a bound thread, else to Corelo
(R282). -/
def State.lostRecord (s : State) (job : Nat) (owner home : AgentId) (base : Nat) (gone : AgentId → Bool) : State :=
  let r := faultRecord owner 0 (BitVec.ofNat 64 base) 0x07 0 0
  let k := agentSlot home
  if agentKind home = 1 ∧ (s.slotAt k).status = .bound ∧ !gone home then s.onSlot k fun s => s.post (.plain r none)
  else s.toCorelo job r false

/-- The tokens of lost agents, which may be lost for one entry only (R281, R282). -/
def State.loseAgents (s : State) (gone : Entry → AgentId → Bool) : State :=
  s.tokens.foldl (fun (s : State) (e : Entry) =>
    let e' := e.lose (gone e)
    if e' = e then s
    else
      let s := { s with tokens := putEntry s.tokens e' }.wakeRegion e.job e.base (2 ^ e.log2)
      if e'.st = .lost ∧ e.st ≠ .lost then s.lostRecord e.job e.owner e.homeAgent e.base (gone e) else s) s

/-- A COLL on its way to its unit. -/
def CopyOp.onWay (o : CopyOp) : Bool := match o.phase with | .toUnit | .hit .. => decide (o.major = .coll) | _ => false

/-- The members of a collective that failed cores take with them (R331). -/
def State.membersOn (s : State) (c : Coll) (hit : CoreId → Bool) (dead : Nat → Bool) : List Nat :=
  match findJob s.jobs c.job with
  | none => []
  | some j =>
    let byDie := (collDies j c.recd).filter dead |>.map (memberOf j c.recd)
    let byCore := (c.got.filter fun x => x.here && hit x.core).map fun x => x.member
    let coming := s.slots.flatMap fun t => if hit t.key.core ∧ t.bind.job = c.job then
        (t.copies.filter fun o => o.onWay && decide (collKey o.recd = c.key)).map fun o => o.argB.toNat
      else []
    (byDie ++ byCore ++ coming).eraseDups

/-- A thread on a failed core ends, with no step of its release there. One that was being restored stays saved; of one that had left its
slot is scrubbed no more. Records of others that wait for its ring go to Corelo (R234, R388). -/
def State.endOn (s : State) (t : Slot) : State :=
  let s := ((s.passRecords t).setSlot (Slot.reset t.key)).unfuse t.key.core
  match t.status with
  | .free => s
  | .restoring => { s with images := s.images.map fun i => if i.restoring = some t.key then { i with restoring := none } else i }
  | .scrubbing => s.updLaunch t.bind.launch fun l => { l with live := l.live - 1 }
  | _ => ((s.dropChain t).updLaunch t.bind.launch fun l => { l.kill 0x07 1 with live := l.live - 1 }).leftLaunch t.bind.launch (dieOf t.key.core)

/-- The regions that a unit holds for threads of failed cores, their contributions on the way or there: its path to them runs through
those cores (R281). -/
def State.unitLost (s : State) (hit : CoreId → Bool) : List Entry :=
  (s.colls.flatMap fun c => (c.got.filter fun x => x.here && hit x.core).flatMap (s.unitRegions c))
    ++ (s.slots.filter fun t => hit t.key.core).flatMap fun t => (t.copies.filter CopyOp.onWay).flatMap fun o =>
      s.regionsOf t.bind.job (collUnit o.recd).1 (collUnit o.recd).2 (o.contribution t)

/-- Cores or a die declared failed: collectives, cores, threads, instances, tokens. A remote-module agent reaches a region only through the
region's own die (R281, R282, R331, R388). -/
def State.failCores (s : State) (hit : CoreId → Bool) (dead : Nat → Bool) : State :=
  let units := s.unitLost hit
  let gone (e : Entry) (a : AgentId) : Bool :=
    (decide (agentKind a = 1) && hit (agentSlot a).core) || (decide (agentKind a = 2) && units.any fun u => decide (u.job = e.job) && decide (u.base = e.base))
  let s := s.loseMembers fun c => s.membersOn c hit dead
  let gs := ((List.range 512).map (BitVec.ofNat 9)).filter hit
  let s := gs.foldl (fun (s : State) (g : CoreId) => s.updCore g fun c => { c with failed := true, l1 := [], tlb := [], tags := [], deque := [] }) s
  let s := { s with deadDies := s.deadDies ++ (List.range 32).filter fun d => dead d && !s.deadDies.contains d }
  let s := { s with launches := s.launches.map s.dropDead }
  ((s.slots.filter fun t => hit t.key.core).foldl State.endOn s).loseAgents gone

/-- The path to a remote module is declared failed: its members and loans are lost, and its writes, held here or still to come, are
discarded (R280, R281, R331). -/
def State.failModule (s : State) (n : Nat) : State :=
  let a : AgentId := BitVec.ofNat 32 (0x30000000 + n % 65536)
  let s := s.loseMembers fun c => (findJob s.jobs c.job).elim [] fun j => s.membersAt c j n
  let s := { s with
    lostModules := if s.lostModules.contains a then s.lostModules else a :: s.lostModules
    held := s.held.filter fun h => !(findLink s.links h.link).elim false fun l => decide (l.peerAgent = a) }
  s.loseAgents fun _ b => decide (b = a)

/-- FAIL: a core or a die is declared failed, or the path to a remote module (R280, R281, R388). -/
def runFail (c : Cmd) (s : State) : State :=
  let n := c.num 4 4
  let log (s : State) : State := s.audit 4 mgmtAgent c.body
  if c.num 0 4 = 0 ∧ n < 512 then ((log s).failCores (fun g => decide (g.toNat = n)) fun _ => false).ok c []
  else if c.num 0 4 = 1 ∧ n < 32 then ((log s).failCores (fun g => decide (dieOf g = n)) fun d => decide (d = n)).ok c []
  else if c.num 0 4 = 2 then ((log s).failModule n).ok c []
  else s.reject c 1

/-! ### The events of the commands -/

/-- The command of a code (R375). -/
def command (code : Nat) : Option (Cmd → State → State) :=
  match code with
  | 0x01 => some runJobCreate | 0x02 => some runJobEnd | 0x03 => some runMap | 0x04 => some runSubmit | 0x05 => some runCancel
  | 0x06 => some runPreempt | 0x07 => some runReturn | 0x08 => some runQuiesce | 0x09 => some runResume | 0x0A => some runJournalRead
  | 0x0B => some runCapRead | 0x0C => some runDiagRead | 0x0D => some runAttest | 0x0E => some runAuditRead | 0x0F => some runAuditAck
  | 0x10 => some runDownload | 0x11 => some runFail | _ => none

/-- JOB_CREATE (R375, R389). -/
def execJobCreate (s : State) : Res := .next (s.frameIn .jobCreate (some 0x01) command)

/-- JOB_END (R375): the command, or its end once nothing of the job is left. -/
def execJobEnd (s : State) : Res :=
  .next (match s.ev.msg with | .frame .. => s.frameIn .jobEnd (some 0x02) command | _ => s.finishJobEnd)

/-- MAP (R301): the command, or its steps 3 and 4. -/
def execMapPage (s : State) : Res :=
  .next (match s.ev.msg with | .frame .. => s.frameIn .mapPage (some 0x03) command | _ => s.finishMap)

/-- SUBMIT (R311): the command, or a submission of Corelo's own (R11, R312). -/
def execSubmit (s : State) : Res :=
  .next (match s.ev.msg with
    | .management job r => s.submitOwn job r
    | _ => s.frameIn .submit (some 0x04) command)
/-- CANCEL (R323). -/
def execCancel (s : State) : Res := .next (s.frameIn .cancel (some 0x05) command)

/-- PREEMPT (R321): the command, or Corelo's own request for a thread that must give way (R321, R322). -/
def execPreemptCmd (s : State) : Res :=
  .next (match s.ev.msg with
    | .frame .. => s.frameIn .preemptCmd (some 0x06) command
    | _ => match s.wanted with
      | some k => s.onSlot k fun s => s.upd Slot.request
      | none => s)

/-- Another module's Corelo gives back the region that a word names, or with none every region, that this module has lent it, on a RETURN
there or as its part of the job ends (R280). -/
def State.loanBack (s : State) (modl job : Nat) (word : Option Nat) : State :=
  let a : AgentId := BitVec.ofNat 32 (0x30000000 + modl % 65536)
  (s.tokens.filter fun e => decide (e.job = job) && decide (e.owner = a) && decide (e.st = .lent)
    && word.elim true fun w => decide (e.base = w / 65536 * 65536) && decide (e.log2 = w % 64)).foldl State.returnLoan s

/-- RETURN: the command, or the return from another module's Corelo (R280, R372). -/
def execReturnRegion (s : State) : Res :=
  .next (match s.ev.msg with
    | .loanBack modl job word => s.loanBack modl job word
    | _ => s.frameIn .returnRegion (some 0x07) command)
/-- QUIESCE (R367). -/
def execQuiesce (s : State) : Res := .next (s.frameIn .quiesce (some 0x08) command)
/-- RESUME (R368). -/
def execResumeLink (s : State) : Res := .next (s.frameIn .resumeLink (some 0x09) command)
/-- JOURNAL_READ (R376). -/
def execJournalRead (s : State) : Res := .next (s.frameIn .journalRead (some 0x0A) command)
/-- CAP_READ (R377). -/
def execCapRead (s : State) : Res := .next (s.frameIn .capRead (some 0x0B) command)
/-- DIAG_READ (R375). -/
def execDiagRead (s : State) : Res := .next (s.frameIn .diagRead (some 0x0C) command)
/-- ATTEST (R383). -/
def execAttest (s : State) : Res := .next (s.frameIn .attest (some 0x0D) command)
/-- AUDIT_READ (R384). -/
def execAuditRead (s : State) : Res := .next (s.frameIn .auditRead (some 0x0E) command)
/-- AUDIT_ACK (R384). -/
def execAuditAck (s : State) : Res := .next (s.frameIn .auditAck (some 0x0F) command)
/-- DOWNLOAD (R382). -/
def execDownload (s : State) : Res := .next (s.frameIn .download (some 0x10) command)
/-- FAIL (R281). -/
def execFailUnit (s : State) : Res := .next (s.frameIn .failUnit (some 0x11) command)
/-- SEND: its payload is one KCP frame, treated as one that came over UDP (R371). -/
def execSendFrame (s : State) : Res := .next (s.frameIn .sendFrame none command)

end Sys2Proof.Machine
end

