-- ==== Sys2Proof/Machine/Host.lean ====
section
/-! DEFINITION. RDMA (R371, R372), module reset and the boot stages (R379–R381, R385), thermal events (R385). -/

namespace Sys2Proof.Machine

/-! ### RDMA (R371, R372) -/

/-- The home key of a byte that the host may write or read: its region's owner is the host, or the management agent in EXCL, and its page
has W, or R (R101, R372). -/
def State.rdmaKey (s : State) (j : Job) (va : Nat) (write : Bool) : Option Nat :=
  if !inPages va then none
  else match findRegion s.tokens j.id va with
    | none => none
    | some e =>
      if (e.owner = 0x40000000#32 ∧ e.st ≠ .lost) ∨ (e.owner = mgmtAgent ∧ e.st = .excl) then
        (if s.deadDies.contains e.die.toNat then none
        else match s.translate (BitVec.ofNat 9 (16 * j.dies.headD 0)) j.id va with
          | .error _ => none
          | .ok m =>
            if !(if write then m.pte.w else m.pte.r) then none
            else match s.translate (BitVec.ofNat 9 (16 * j.dies.headD 0)) j.id (e.behind va) with
              | .ok n => some n.pa
              | .error _ => none)
      else none

/-- Queue pairs of the port (R371). -/
def queuePairs : Nat := 1024

/-- What becomes of an RDMA frame: dropped, refused with a NAK, or served. The port serves one of its queue pairs for a source of the host
address set; before the first JOB_CREATE it refuses RDMA, and while it is not open or in recovery it answers none (R370, R371, R381). -/
inductive RdmaGate | drop | refuse | serve
deriving DecidableEq, Repr

def HostState.gate (h : HostState) (src : BitVec 128) (qp : Nat) : RdmaGate :=
  if !h.opened || h.recovery || decide (queuePairs ≤ qp) then .drop
  else if h.addrs.isEmpty then .refuse
  else if h.addrs.contains src then .serve else .drop

/-- An answer to an RDMA request, behind those of its queue pair (R371). -/
def State.rdmaAnswer (s : State) (qp : Nat) (a : RdmaAnswer) : State := { s with host := { s.host with rdma := s.host.rdma ++ [(qp, a)] } }

/-- An RDMA request at the gate. -/
def State.rdmaServe (s : State) (src : BitVec 128) (qp : Nat) (f : State → State) : State :=
  match s.host.gate src qp with
  | .drop => s
  | .refuse => s.rdmaAnswer qp .invalidRequest
  | .serve => f s

/-- The home keys of n bytes for the host's access; none where it gets a NAK for a remote access error (R372). -/
def State.rdmaKeys (s : State) (job va n : Nat) (write : Bool) : Option (Job × List Nat) :=
  (findJob s.jobs job).bind fun j => ((List.range n).mapM fun i => s.rdmaKey j (va + i) write).map fun ks => (j, ks)

/-- RDMA_WRITE: every byte is written at once, or a NAK and nothing (R292, R372). -/
def execRdmaWrite (s : State) : Res :=
  .next (match s.ev.msg with
    | .rdma src qp job va bytes => s.rdmaServe src qp fun s =>
      (match s.rdmaKeys job va bytes.length true with
      | none => s.rdmaAnswer qp .accessError
      | some (j, ks) =>
        (s.performAt job (BitVec.ofNat 9 (16 * j.dies.headD 0)) (BitVec.ofNat 64 va) (ks.zip bytes) 0
          ((List.range bytes.length).foldr (fun (i : Nat) (ls : List Nat) => addLine ls (va + i)) [])).rdmaAnswer qp (.ok []))
    | _ => s)

/-- RDMA_READ of as many bytes as the request's list has; a word that cannot be corrected gets the same NAK (R372; DESIGN CHOICE for the
latter, log 138). -/
def execRdmaRead (s : State) : Res :=
  .next (match s.ev.msg with
    | .rdma src qp job va bytes => s.rdmaServe src qp fun s =>
      (match s.rdmaKeys job va bytes.length false with
      | none => s.rdmaAnswer qp .accessError
      | some (_, ks) =>
        let read (s : State) : Chk (List Byte) := match ks.findSome? fun k => eccAt s.bad k with
          | some l => .error (flt 0x11 l 0)
          | none => .ok (ks.map s.byteAt)
        let s := s.correctRead fun s => metEcc (read s)
        match read s with
        | .error _ => s.rdmaAnswer qp .accessError
        | .ok bs => s.rdmaAnswer qp (.ok bs))
    | _ => s)

/-- INVALID_REQUEST: any other opcode of the port gets a NAK (R371). -/
def execInvalidRequest (s : State) : Res :=
  .next (match s.ev.msg with
    | .rdma src qp _ _ _ => s.rdmaServe src qp fun s => s.rdmaAnswer qp .invalidRequest
    | _ => s)

/-! ### Module reset (R379–R381, R385) -/

/-- One verified stage: its image extends its register, or boot stops in recovery (R380, R381). -/
def HostState.stage (h : HostState) (n : Nat) : HostState :=
  if h.recovery then h
  else match h.firmware[n]? with
    | some f => if h.accepts f then h.extend (n + 1) (sha3 f.bytes) else { h with recovery := true }
    | none => { h with recovery := true }

/-- The boot stages; the port opens at the end of bring-up, of which the links are the last part (R380, R385). -/
def HostState.boot (h : HostState) : HostState :=
  let h := h.extend 0 (sha3 (bytesOf 4 h.fuse.toNat ++ Config.romIdentity))
  ((h.stage 0).stage 1).stage 2

/-- MODULE_RESET: everything takes its reset state but the firmware slot, the fused counter and the audit log; boot and
bring-up follow (R380, R382, R384, R385). Time counts from here (R31). -/
def execModuleReset (s : State) : Res :=
  .next { State.reset with
    agenda := []
    inputs := s.inputs.map fun i => { i with cycle := i.cycle - s.cycle }
    freeCtr := s.freeCtr
    host := { HostState.reset with
      firmware := s.host.firmware, fuse := s.host.fuse, audit := s.host.audit, auditCount := s.host.auditCount, auditHash := s.host.auditHash
      auditRead := s.host.auditRead }.boot }

/-! ### Power and cooling (R385) -/

/-- THERMAL_THROTTLE: CCLK falls by 100 MHz, to 1.2 GHz at the lowest, and a THERMAL notice goes out (R385). -/
def execThermalThrottle (s : State) : Res :=
  .next ({ s with cclk := max 1200 (s.cclk - 100) }.notice 3 0 (bytesOf 4 (max 1200 (s.cclk - 100))))

/-- THERMAL_TRIP: every core stops, every launch ends with status FAULT, and the log says so (R385). -/
def execThermalTrip (s : State) : Res :=
  .next (((s.launches.foldl (fun (s : State) (l : Launch) => s.endLaunch l false 0) s).audit 7 mgmtAgent []) |> fun s => { s with tripped := true })

end Sys2Proof.Machine
end

