-- ==== Sys2Proof/Machine/Dispatch.lean ====
section
/-! DEFINITION. One arm per instruction and event: each calls its meaning. -/

namespace Sys2Proof.Machine

/-- What an instruction of the acting thread, or an event of the machine, does. -/
def exec (i : Instr) (s : State) : Host.Outcome State Fault Refusal :=
  match i with
  | .add d a b => Sys2Proof.Machine.execAdd d a b s
  | .sub d a b => Sys2Proof.Machine.execSub d a b s
  | .and d a b => Sys2Proof.Machine.execAnd d a b s
  | .or d a b => Sys2Proof.Machine.execOr d a b s
  | .xor d a b => Sys2Proof.Machine.execXor d a b s
  | .andn d a b => Sys2Proof.Machine.execAndn d a b s
  | .sll d a b => Sys2Proof.Machine.execSll d a b s
  | .srl d a b => Sys2Proof.Machine.execSrl d a b s
  | .sra d a b => Sys2Proof.Machine.execSra d a b s
  | .slt d a b => Sys2Proof.Machine.execSlt d a b s
  | .sltu d a b => Sys2Proof.Machine.execSltu d a b s
  | .seq d a b => Sys2Proof.Machine.execSeq d a b s
  | .min d a b => Sys2Proof.Machine.execMin d a b s
  | .max d a b => Sys2Proof.Machine.execMax d a b s
  | .minu d a b => Sys2Proof.Machine.execMinu d a b s
  | .maxu d a b => Sys2Proof.Machine.execMaxu d a b s
  | .mul d a b => Sys2Proof.Machine.execMul d a b s
  | .mulh d a b => Sys2Proof.Machine.execMulh d a b s
  | .mulhu d a b => Sys2Proof.Machine.execMulhu d a b s
  | .div d a b => Sys2Proof.Machine.execDiv d a b s
  | .divu d a b => Sys2Proof.Machine.execDivu d a b s
  | .rem d a b => Sys2Proof.Machine.execRem d a b s
  | .remu d a b => Sys2Proof.Machine.execRemu d a b s
  | .clz d a => Sys2Proof.Machine.execClz d a s
  | .ctz d a => Sys2Proof.Machine.execCtz d a s
  | .popc d a => Sys2Proof.Machine.execPopc d a s
  | .addi d a imm => Sys2Proof.Machine.execAddi d a imm s
  | .andi d a imm => Sys2Proof.Machine.execAndi d a imm s
  | .ori d a imm => Sys2Proof.Machine.execOri d a imm s
  | .xori d a imm => Sys2Proof.Machine.execXori d a imm s
  | .slti d a imm => Sys2Proof.Machine.execSlti d a imm s
  | .shori d a imm => Sys2Proof.Machine.execShori d a imm s
  | .slli d a n => Sys2Proof.Machine.execSlli d a n s
  | .srli d a n => Sys2Proof.Machine.execSrli d a n s
  | .srai d a n => Sys2Proof.Machine.execSrai d a n s
  | .beq a b off => Sys2Proof.Machine.execBeq a b off s
  | .bne a b off => Sys2Proof.Machine.execBne a b off s
  | .blt a b off => Sys2Proof.Machine.execBlt a b off s
  | .bge a b off => Sys2Proof.Machine.execBge a b off s
  | .bltu a b off => Sys2Proof.Machine.execBltu a b off s
  | .bgeu a b off => Sys2Proof.Machine.execBgeu a b off s
  | .jal d off => Sys2Proof.Machine.execJal d off s
  | .jalr d a imm => Sys2Proof.Machine.execJalr d a imm s
  | .ld d a sz byHome imm => Sys2Proof.Machine.execLd d a sz byHome imm s
  | .ldu d a sz byHome imm => Sys2Proof.Machine.execLdu d a sz byHome imm s
  | .st d a sz imm => Sys2Proof.Machine.execSt d a sz imm s
  | .lda d a sc sz => Sys2Proof.Machine.execLda d a sc sz s
  | .stl d a sc sz => Sys2Proof.Machine.execStl d a sc sz s
  | .amoAdd d a b sc sz acqrel => Sys2Proof.Machine.execAmoAdd d a b sc sz acqrel s
  | .amoAnd d a b sc sz acqrel => Sys2Proof.Machine.execAmoAnd d a b sc sz acqrel s
  | .amoOr d a b sc sz acqrel => Sys2Proof.Machine.execAmoOr d a b sc sz acqrel s
  | .amoXor d a b sc sz acqrel => Sys2Proof.Machine.execAmoXor d a b sc sz acqrel s
  | .amoMin d a b sc sz acqrel => Sys2Proof.Machine.execAmoMin d a b sc sz acqrel s
  | .amoMax d a b sc sz acqrel => Sys2Proof.Machine.execAmoMax d a b sc sz acqrel s
  | .amoMinu d a b sc sz acqrel => Sys2Proof.Machine.execAmoMinu d a b sc sz acqrel s
  | .amoMaxu d a b sc sz acqrel => Sys2Proof.Machine.execAmoMaxu d a b sc sz acqrel s
  | .amoSwap d a b sc sz acqrel => Sys2Proof.Machine.execAmoSwap d a b sc sz acqrel s
  | .amoCas d a b sc sz acqrel => Sys2Proof.Machine.execAmoCas d a b sc sz acqrel s
  | .ldSc d a j => Sys2Proof.Machine.execLdSc d a j s
  | .stSc a b j => Sys2Proof.Machine.execStSc a b j s
  | .amoaddSc d a b j => Sys2Proof.Machine.execAmoaddSc d a b j s
  | .swapSc d a b j => Sys2Proof.Machine.execSwapSc d a b j s
  | .casSc d a b j => Sys2Proof.Machine.execCasSc d a b j s
  | .fenceFull sc => Sys2Proof.Machine.execFenceFull sc s
  | .fenceAcq sc => Sys2Proof.Machine.execFenceAcq sc s
  | .fenceRel sc => Sys2Proof.Machine.execFenceRel sc s
  | .fenceEngines sc => Sys2Proof.Machine.execFenceEngines sc s
  | .ownLend d a b => Sys2Proof.Machine.execOwnLend d a b s
  | .ownRet d a => Sys2Proof.Machine.execOwnRet d a s
  | .ownSplit d a => Sys2Proof.Machine.execOwnSplit d a s
  | .ownJoin d a => Sys2Proof.Machine.execOwnJoin d a s
  | .ownShare d a b => Sys2Proof.Machine.execOwnShare d a b s
  | .ownDrop d a => Sys2Proof.Machine.execOwnDrop d a s
  | .ownQry d a => Sys2Proof.Machine.execOwnQry d a s
  | .ownWait d a => Sys2Proof.Machine.execOwnWait d a s
  | .ownClaim d a => Sys2Proof.Machine.execOwnClaim d a s
  | .wopen d a b => Sys2Proof.Machine.execWopen d a b s
  | .wclose d a => Sys2Proof.Machine.execWclose d a s
  | .wwait d a b => Sys2Proof.Machine.execWwait d a b s
  | .wcnt d a => Sys2Proof.Machine.execWcnt d a s
  | .wrst d a => Sys2Proof.Machine.execWrst d a s
  | .post a k => Sys2Proof.Machine.execPost a k s
  | .wait a k => Sys2Proof.Machine.execWait a k s
  | .arrive n sc => Sys2Proof.Machine.execArrive n sc s
  | .bwait n sc => Sys2Proof.Machine.execBwait n sc s
  | .mwaitSync a b => Sys2Proof.Machine.execMwaitSync a b s
  | .sleep a => Sys2Proof.Machine.execSleep a s
  | .hld hd a => Sys2Proof.Machine.execHld hd a s
  | .hst hd a => Sys2Proof.Machine.execHst hd a s
  | .hsetw hd a w => Sys2Proof.Machine.execHsetw hd a w s
  | .hgetw d ha w => Sys2Proof.Machine.execHgetw d ha w s
  | .haddb hd a => Sys2Proof.Machine.execHaddb hd a s
  | .omld om a => Sys2Proof.Machine.execOmld om a s
  | .loopImm lv cnt len => Sys2Proof.Machine.execLoopImm lv cnt len s
  | .loopReg lv rs len => Sys2Proof.Machine.execLoopReg lv rs len s
  | .bqEmpty off => Sys2Proof.Machine.execBqEmpty off s
  | .bqNonempty off => Sys2Proof.Machine.execBqNonempty off s
  | .bqPoison off => Sys2Proof.Machine.execBqPoison off s
  | .bqFault off => Sys2Proof.Machine.execBqFault off s
  | .bqOk off => Sys2Proof.Machine.execBqOk off s
  | .cqpop d => Sys2Proof.Machine.execCqpop d s
  | .cqpeek d => Sys2Proof.Machine.execCqpeek d s
  | .dqpush d a => Sys2Proof.Machine.execDqpush d a s
  | .dqpop d => Sys2Proof.Machine.execDqpop d s
  | .dqsteal d a => Sys2Proof.Machine.execDqsteal d a s
  | .dqlen d => Sys2Proof.Machine.execDqlen d s
  | .launch d a => Sys2Proof.Machine.execLaunch d a s
  | .csrr d csr => Sys2Proof.Machine.execCsrr d csr s
  | .csrw d a csr => Sys2Proof.Machine.execCsrw d a csr s
  | .csrs d a csr => Sys2Proof.Machine.execCsrs d a csr s
  | .csrc d a csr => Sys2Proof.Machine.execCsrc d a csr s
  | .ftset ft a => Sys2Proof.Machine.execFtset ft a s
  | .ftget d ft => Sys2Proof.Machine.execFtget d ft s
  | .moveToE e a => Sys2Proof.Machine.execMoveToE e a s
  | .moveFromE d e => Sys2Proof.Machine.execMoveFromE d e s
  | .fstep d => Sys2Proof.Machine.execFstep d s
  | .cirq d ch => Sys2Proof.Machine.execCirq d ch s
  | .publish ha => Sys2Proof.Machine.execPublish ha s
  | .pubq d ha => Sys2Proof.Machine.execPubq d ha s
  | .vadd o => Sys2Proof.Machine.execVadd o s
  | .vsub o => Sys2Proof.Machine.execVsub o s
  | .vmul o => Sys2Proof.Machine.execVmul o s
  | .vfma o => Sys2Proof.Machine.execVfma o s
  | .vfnma o => Sys2Proof.Machine.execVfnma o s
  | .vdiv o => Sys2Proof.Machine.execVdiv o s
  | .vmin o => Sys2Proof.Machine.execVmin o s
  | .vminNum o => Sys2Proof.Machine.execVminNum o s
  | .vmax o => Sys2Proof.Machine.execVmax o s
  | .vmaxNum o => Sys2Proof.Machine.execVmaxNum o s
  | .vsqrt o => Sys2Proof.Machine.execVsqrt o s
  | .vabs o => Sys2Proof.Machine.execVabs o s
  | .vneg o => Sys2Proof.Machine.execVneg o s
  | .vrint o => Sys2Proof.Machine.execVrint o s
  | .vexp2 o => Sys2Proof.Machine.execVexp2 o s
  | .vlog2 o => Sys2Proof.Machine.execVlog2 o s
  | .vrcp o => Sys2Proof.Machine.execVrcp o s
  | .vrsq o => Sys2Proof.Machine.execVrsq o s
  | .vtanh o => Sys2Proof.Machine.execVtanh o s
  | .vsin o => Sys2Proof.Machine.execVsin o s
  | .vcos o => Sys2Proof.Machine.execVcos o s
  | .verf o => Sys2Proof.Machine.execVerf o s
  | .vcmpEq o => Sys2Proof.Machine.execVcmpEq o s
  | .vcmpLt o => Sys2Proof.Machine.execVcmpLt o s
  | .vcmpLe o => Sys2Proof.Machine.execVcmpLe o s
  | .vcmpUnord o => Sys2Proof.Machine.execVcmpUnord o s
  | .vcmpNe o => Sys2Proof.Machine.execVcmpNe o s
  | .vcmpGt o => Sys2Proof.Machine.execVcmpGt o s
  | .vcmpGe o => Sys2Proof.Machine.execVcmpGe o s
  | .vcmpOrd o => Sys2Proof.Machine.execVcmpOrd o s
  | .vsel o => Sys2Proof.Machine.execVsel o s
  | .vcvt o => Sys2Proof.Machine.execVcvt o s
  | .viadd o => Sys2Proof.Machine.execViadd o s
  | .visub o => Sys2Proof.Machine.execVisub o s
  | .vimul o => Sys2Proof.Machine.execVimul o s
  | .vand o => Sys2Proof.Machine.execVand o s
  | .vor o => Sys2Proof.Machine.execVor o s
  | .vxor o => Sys2Proof.Machine.execVxor o s
  | .vandn o => Sys2Proof.Machine.execVandn o s
  | .vsll o => Sys2Proof.Machine.execVsll o s
  | .vsrl o => Sys2Proof.Machine.execVsrl o s
  | .vsra o => Sys2Proof.Machine.execVsra o s
  | .vimin o => Sys2Proof.Machine.execVimin o s
  | .vimax o => Sys2Proof.Machine.execVimax o s
  | .viminu o => Sys2Proof.Machine.execViminu o s
  | .vimaxu o => Sys2Proof.Machine.execVimaxu o s
  | .vredSumT o => Sys2Proof.Machine.execVredSumT o s
  | .vredSumR o => Sys2Proof.Machine.execVredSumR o s
  | .vredMax o => Sys2Proof.Machine.execVredMax o s
  | .vredMin o => Sys2Proof.Machine.execVredMin o s
  | .vredrowSum o => Sys2Proof.Machine.execVredrowSum o s
  | .vredrowMax o => Sys2Proof.Machine.execVredrowMax o s
  | .vredrowMin o => Sys2Proof.Machine.execVredrowMin o s
  | .vscanSumI o => Sys2Proof.Machine.execVscanSumI o s
  | .vscanSumE o => Sys2Proof.Machine.execVscanSumE o s
  | .vscanMaxI o => Sys2Proof.Machine.execVscanMaxI o s
  | .vrcoal d a => Sys2Proof.Machine.execVrcoal d a s
  | .vrcnt e a => Sys2Proof.Machine.execVrcnt e a s
  | .vrlen e a => Sys2Proof.Machine.execVrlen e a s
  | .vsegsumE o => Sys2Proof.Machine.execVsegsumE o s
  | .vsegsumP o => Sys2Proof.Machine.execVsegsumP o s
  | .vsegmaxE o => Sys2Proof.Machine.execVsegmaxE o s
  | .vsegcntP o => Sys2Proof.Machine.execVsegcntP o s
  | .viota d t => Sys2Proof.Machine.execViota d t s
  | .vsplat d rs t => Sys2Proof.Machine.execVsplat d rs t s
  | .vsplati d imm => Sys2Proof.Machine.execVsplati d imm s
  | .vshapeImm cols rows => Sys2Proof.Machine.execVshapeImm cols rows s
  | .vshapeReg rs => Sys2Proof.Machine.execVshapeReg rs s
  | .vld o => Sys2Proof.Machine.execVld o s
  | .vst o => Sys2Proof.Machine.execVst o s
  | .vldr o => Sys2Proof.Machine.execVldr o s
  | .vstr o => Sys2Proof.Machine.execVstr o s
  | .vfromm o => Sys2Proof.Machine.execVfromm o s
  | .vtom o => Sys2Proof.Machine.execVtom o s
  | .vmov d a g => Sys2Proof.Machine.execVmov d a g s
  | .vpost k imm => Sys2Proof.Machine.execVpost k imm s
  | .vwait k imm => Sys2Proof.Machine.execVwait k imm s
  | .vsetrm rm => Sys2Proof.Machine.execVsetrm rm s
  | .vclrf flags => Sys2Proof.Machine.execVclrf flags s
  | .vloopImm lv cnt len => Sys2Proof.Machine.execVloopImm lv cnt len s
  | .vloopReg lv rs len => Sys2Proof.Machine.execVloopReg lv rs len s
  | .mma o => Sys2Proof.Machine.execMma o s
  | .mmat o => Sys2Proof.Machine.execMmat o s
  | .mlda o => Sys2Proof.Machine.execMlda o s
  | .msta o => Sys2Proof.Machine.execMsta o s
  | .mstq o => Sys2Proof.Machine.execMstq o s
  | .mclr md => Sys2Proof.Machine.execMclr md s
  | .mfull md => Sys2Proof.Machine.execMfull md s
  | .mempty md => Sys2Proof.Machine.execMempty md s
  | .mpost k imm => Sys2Proof.Machine.execMpost k imm s
  | .mwaitMctl k imm => Sys2Proof.Machine.execMwaitMctl k imm s
  | .madd md ms => Sys2Proof.Machine.execMadd md ms s
  | .mscal md rs => Sys2Proof.Machine.execMscal md rs s
  | .mtrans md ms => Sys2Proof.Machine.execMtrans md ms s
  | .mloopImm lv cnt len => Sys2Proof.Machine.execMloopImm lv cnt len s
  | .mloopReg lv rs len => Sys2Proof.Machine.execMloopReg lv rs len s
  | .cpy o => Sys2Proof.Machine.execCpy o s
  | .cpyCvt o => Sys2Proof.Machine.execCpyCvt o s
  | .cpyTr2d o => Sys2Proof.Machine.execCpyTr2d o s
  | .cpySwz o => Sys2Proof.Machine.execCpySwz o s
  | .cpyRle o => Sys2Proof.Machine.execCpyRle o s
  | .cpyUnrle o => Sys2Proof.Machine.execCpyUnrle o s
  | .cpyQ4 o => Sys2Proof.Machine.execCpyQ4 o s
  | .cpyDeq o => Sys2Proof.Machine.execCpyDeq o s
  | .cpyGather o => Sys2Proof.Machine.execCpyGather o s
  | .cpyScatter o => Sys2Proof.Machine.execCpyScatter o s
  | .cpyFill o => Sys2Proof.Machine.execCpyFill o s
  | .cpyRadd o => Sys2Proof.Machine.execCpyRadd o s
  | .cpyCrc o => Sys2Proof.Machine.execCpyCrc o s
  | .xcpy o => Sys2Proof.Machine.execXcpy o s
  | .xcpyCvt o => Sys2Proof.Machine.execXcpyCvt o s
  | .xcpyRle o => Sys2Proof.Machine.execXcpyRle o s
  | .xcpyUnrle o => Sys2Proof.Machine.execXcpyUnrle o s
  | .xcpyCrc o => Sys2Proof.Machine.execXcpyCrc o s
  | .wput o => Sys2Proof.Machine.execWput o s
  | .wputCvt o => Sys2Proof.Machine.execWputCvt o s
  | .wputRle o => Sys2Proof.Machine.execWputRle o s
  | .wputUnrle o => Sys2Proof.Machine.execWputUnrle o s
  | .wputCrc o => Sys2Proof.Machine.execWputCrc o s
  | .lcpy o => Sys2Proof.Machine.execLcpy o s
  | .lcpyCvt o => Sys2Proof.Machine.execLcpyCvt o s
  | .lcpyRle o => Sys2Proof.Machine.execLcpyRle o s
  | .lcpyUnrle o => Sys2Proof.Machine.execLcpyUnrle o s
  | .lcpyCrc o => Sys2Proof.Machine.execLcpyCrc o s
  | .catomAdd o => Sys2Proof.Machine.execCatomAdd o s
  | .catomAnd o => Sys2Proof.Machine.execCatomAnd o s
  | .catomOr o => Sys2Proof.Machine.execCatomOr o s
  | .catomXor o => Sys2Proof.Machine.execCatomXor o s
  | .catomMin o => Sys2Proof.Machine.execCatomMin o s
  | .catomMax o => Sys2Proof.Machine.execCatomMax o s
  | .catomMinu o => Sys2Proof.Machine.execCatomMinu o s
  | .catomMaxu o => Sys2Proof.Machine.execCatomMaxu o s
  | .catomSwap o => Sys2Proof.Machine.execCatomSwap o s
  | .catomCas o => Sys2Proof.Machine.execCatomCas o s
  | .coll o => Sys2Proof.Machine.execColl o s
  | .cpost k imm => Sys2Proof.Machine.execCpost k imm s
  | .cwait k imm => Sys2Proof.Machine.execCwait k imm s
  | .crec imm => Sys2Proof.Machine.execCrec imm s
  | .cpub k => Sys2Proof.Machine.execCpub k s
  | .cloopImm lv cnt len => Sys2Proof.Machine.execCloopImm lv cnt len s
  | .cloopReg lv rs len => Sys2Proof.Machine.execCloopReg lv rs len s
  | .scopSend => Sys2Proof.Machine.execScopSend s
  | .scopArrival => Sys2Proof.Machine.execScopArrival s
  | .scopApply => Sys2Proof.Machine.execScopApply s
  | .mwaitTimeout => Sys2Proof.Machine.execMwaitTimeout s
  | .yield => Sys2Proof.Machine.execYield s
  | .icsync => Sys2Proof.Machine.execIcsync s
  | .sleepExpiry => Sys2Proof.Machine.execSleepExpiry s
  | .cqwait => Sys2Proof.Machine.execCqwait s
  | .cqwaity => Sys2Proof.Machine.execCqwaity s
  | .nop => Sys2Proof.Machine.execNop s
  | .trap => Sys2Proof.Machine.execTrap s
  | .eret => Sys2Proof.Machine.execEret s
  | .exit => Sys2Proof.Machine.execExit s
  | .brk => Sys2Proof.Machine.execBrk s
  | .runCount => Sys2Proof.Machine.execRunCount s
  | .vldDataCheck => Sys2Proof.Machine.execVldDataCheck s
  | .vland => Sys2Proof.Machine.execVland s
  | .vend => Sys2Proof.Machine.execVend s
  | .vectorLanding => Sys2Proof.Machine.execVectorLanding s
  | .mmaLanding => Sys2Proof.Machine.execMmaLanding s
  | .matrixLanding => Sys2Proof.Machine.execMatrixLanding s
  | .mland => Sys2Proof.Machine.execMland s
  | .mend => Sys2Proof.Machine.execMend s
  | .cfence => Sys2Proof.Machine.execCfence s
  | .cend => Sys2Proof.Machine.execCend s
  | .chunkPerformed => Sys2Proof.Machine.execChunkPerformed s
  | .copyComplete => Sys2Proof.Machine.execCopyComplete s
  | .copyRestart => Sys2Proof.Machine.execCopyRestart s
  | .storePerformed => Sys2Proof.Machine.execStorePerformed s
  | .pageWalk => Sys2Proof.Machine.execPageWalk s
  | .patrol => Sys2Proof.Machine.execPatrol s
  | .heldRecordEntry => Sys2Proof.Machine.execHeldRecordEntry s
  | .handlerEntry => Sys2Proof.Machine.execHandlerEntry s
  | .asyncHandlerEntry => Sys2Proof.Machine.execAsyncHandlerEntry s
  | .faultToCorelo => Sys2Proof.Machine.execFaultToCorelo s
  | .threadEndByCorelo => Sys2Proof.Machine.execThreadEndByCorelo s
  | .retirement => Sys2Proof.Machine.execRetirement s
  | .scrubComplete => Sys2Proof.Machine.execScrubComplete s
  | .launchRecord => Sys2Proof.Machine.execLaunchRecord s
  | .bind => Sys2Proof.Machine.execBind s
  | .preemption => Sys2Proof.Machine.execPreemption s
  | .resumption => Sys2Proof.Machine.execResumption s
  | .fabricStep => Sys2Proof.Machine.execFabricStep s
  | .circuitLive => Sys2Proof.Machine.execCircuitLive s
  | .ringTuningLoss => Sys2Proof.Machine.execRingTuningLoss s
  | .laserFailure => Sys2Proof.Machine.execLaserFailure s
  | .portRetune => Sys2Proof.Machine.execPortRetune s
  | .chunkFrame => Sys2Proof.Machine.execChunkFrame s
  | .ack => Sys2Proof.Machine.execAck s
  | .nack => Sys2Proof.Machine.execNack s
  | .notice => Sys2Proof.Machine.execNotice s
  | .expressFrame => Sys2Proof.Machine.execExpressFrame s
  | .collContribution => Sys2Proof.Machine.execCollContribution s
  | .collDelivery => Sys2Proof.Machine.execCollDelivery s
  | .flit => Sys2Proof.Machine.execFlit s
  | .linkAck => Sys2Proof.Machine.execLinkAck s
  | .linkNack => Sys2Proof.Machine.execLinkNack s
  | .millstoneForward => Sys2Proof.Machine.execMillstoneForward s
  | .millstoneHoldTimeout => Sys2Proof.Machine.execMillstoneHoldTimeout s
  | .laneFailure => Sys2Proof.Machine.execLaneFailure s
  | .laneMap => Sys2Proof.Machine.execLaneMap s
  | .restripeBoundary => Sys2Proof.Machine.execRestripeBoundary s
  | .laneRetuned => Sys2Proof.Machine.execLaneRetuned s
  | .retrain => Sys2Proof.Machine.execRetrain s
  | .retrainDone => Sys2Proof.Machine.execRetrainDone s
  | .retrainTimeout => Sys2Proof.Machine.execRetrainTimeout s
  | .linkDown => Sys2Proof.Machine.execLinkDown s
  | .bringUp => Sys2Proof.Machine.execBringUp s
  | .quiesceDrained => Sys2Proof.Machine.execQuiesceDrained s
  | .vetoTimeout => Sys2Proof.Machine.execVetoTimeout s
  | .jobCreate => Sys2Proof.Machine.execJobCreate s
  | .jobEnd => Sys2Proof.Machine.execJobEnd s
  | .mapPage => Sys2Proof.Machine.execMapPage s
  | .submit => Sys2Proof.Machine.execSubmit s
  | .cancel => Sys2Proof.Machine.execCancel s
  | .preemptCmd => Sys2Proof.Machine.execPreemptCmd s
  | .returnRegion => Sys2Proof.Machine.execReturnRegion s
  | .quiesce => Sys2Proof.Machine.execQuiesce s
  | .resumeLink => Sys2Proof.Machine.execResumeLink s
  | .journalRead => Sys2Proof.Machine.execJournalRead s
  | .capRead => Sys2Proof.Machine.execCapRead s
  | .diagRead => Sys2Proof.Machine.execDiagRead s
  | .attest => Sys2Proof.Machine.execAttest s
  | .auditRead => Sys2Proof.Machine.execAuditRead s
  | .auditAck => Sys2Proof.Machine.execAuditAck s
  | .download => Sys2Proof.Machine.execDownload s
  | .failUnit => Sys2Proof.Machine.execFailUnit s
  | .rdmaWrite => Sys2Proof.Machine.execRdmaWrite s
  | .rdmaRead => Sys2Proof.Machine.execRdmaRead s
  | .sendFrame => Sys2Proof.Machine.execSendFrame s
  | .invalidRequest => Sys2Proof.Machine.execInvalidRequest s
  | .moduleReset => Sys2Proof.Machine.execModuleReset s
  | .thermalThrottle => Sys2Proof.Machine.execThermalThrottle s
  | .thermalTrip => Sys2Proof.Machine.execThermalTrip s
  | .notAnInstruction => Sys2Proof.Machine.execNotAnInstruction s
  | .instructionFetchFault => Sys2Proof.Machine.execInstructionFetchFault s
  | .mldaDataCheck => Sys2Proof.Machine.execMldaDataCheck s
  | .monitorEviction => Sys2Proof.Machine.execMonitorEviction s
  | .machineCheckResume => Sys2Proof.Machine.execMachineCheckResume s

end Sys2Proof.Machine
end

