-- ==== Sys2Proof/Machine/Issue.lean ====
section
/-! DEFINITION. How a stream's next instruction comes to be executed: the fetch and the loop buffer (R76, R228), the
conditions of eligibility (R220), the units that stay busy (R221), ages and the Governor's pick (R222–R224), and the
issue of the instruction picked. -/

namespace Sys2Proof.Machine

/-! ### Fetch (R76, R228, R288) -/

/-- The level whose body the loop buffer holds or will hold: the outermost active loop of at most 256 words that no
handler interrupts (R228). -/
def StreamState.outerLevel (x : StreamState) : Option (Fin 6) :=
  (List.finRange 6).foldl (fun (b : Option (Fin 6)) (i : Fin 6) =>
    let l := x.loops[i]
    if l.active && !l.frozen && decide ((l.last - l.first).toNat / 4 < Config.loopBufferWords) then
      match b with
      | none => some i
      | some j => if l.first < x.loops[j].first then some i else some j
    else b) none

/-- The word that the loop buffer serves at the program counter. -/
def StreamState.bufWord (x : StreamState) : Option Word32 :=
  x.buf.bind fun b => (b.words.find? fun w => decide (w.1 = x.pc)).map Prod.snd

/-- A fetched word enters the loop buffer when it lies in the body that the buffer holds. -/
def StreamState.fill (x : StreamState) (w : Word32) : StreamState :=
  match x.outerLevel with
  | none => x
  | some i =>
    let l := x.loops[i]
    if l.first ≤ x.pc ∧ x.pc ≤ l.last then
      match x.buf with
      | none => { x with buf := some { level := i.val, words := [(x.pc, w)] } }
      | some b => if b.level = i.val then { x with buf := some { b with words := b.words ++ [(x.pc, w)] } } else x
    else x

/-- What a fetch gives: a word and the state after it, a wait for a circuit with the request that is held, or a fault. -/
inductive Fetched
  | word (w : Word32) (s : State)
  | held (r : Option HeldReq)
  | fault (f : SFault)

/-- The checks of a stream's fetch: F_PROTECT with detail 1 in the windows, whatever lies there, F_XLATE outside the map and F_PROTECT with
detail 0 on a page without X; then the circuit to the page's home, or the one on which the fetch is held (R33, R76, R342). -/
def State.fetchCheck (s : State) (e : Stream) (va : Word) : Chk Access :=
  if inWindows va.toNat then .error (flt 0x04 1 va)
  else if !inPages va.toNat then .error (flt 0x03 0 va)
  else match s.translate s.cur.key.core s.cur.bind.job va.toNat with
    | .error f => .error f
    | .ok m =>
      if !m.pte.x then .error (flt 0x04 0 va)
      else (s.onRead e).viaCircuit va { key := m.pa, kind := m.kind, put := false, home := homeDie m.pa, held := none }

/-- The next word of a stream of the acting thread: from the loop buffer, else through the L1 as a plain load. -/
def State.fetch (s : State) (e : Stream) : Fetched :=
  let x := s.cur.str e
  let va := pcWord x.pc
  match x.bufWord with
  | some w => .word w s
  | none =>
    match s.fetchCheck e va with
    | .error f => .fault f
    | .ok a =>
      if a.held.isSome then .held a.request
      else match s.loadValue a va 4 true with
        | .error f => .fault f
        | .ok (v, s') =>
          let w := BitVec.ofNat 32 (ofBytes v)
          .word w (s'.updStr e fun x => x.fill w)

/-! ### What an instruction waits for (R220) -/

/-- OWN.WAIT has nothing to return yet. -/
def State.ownBlocked (s : State) (a : BitVec 5) : Bool :=
  match (do let (base, log2) ← regionOf (s.getS a); s.entryFor base log2 : Chk Entry) with
  | .ok e => !decide (e.st = .lost) && !decide (e.owner = s.cur.key.agent) && decide (e.sharesOf s.cur.key.agent = 0)
  | .error _ => false

/-- WWAIT's count has not been reached. -/
def State.winBlocked (s : State) (a b : BitVec 5) : Bool :=
  match s.windowFor a with
  | .ok e => e.counter.ult (s.getS b)
  | .error _ => false

/-- The phase of the caller's last ARRIVE is still open: a BWAIT waits, and so does the next ARRIVE (R126). -/
def State.barrierBlocked (s : State) (n : BitVec 4) (sc : Scope) : Bool :=
  match s.barrierFor n sc with
  | .ok l => (s.cur.mark n.toNat).elim false (markOpen l)
  | .error _ => false

/-- The bank groups that a VLD, VLDR, VST or VSTR touches are streaming an MMA operand (R94, R161, R184). -/
def State.vldBusy (s : State) (o : VMemArgs) : Bool := s.footsHeld (s.vmTensor o) (s.vldFoots o)
def State.vldrBusy (s : State) (o : VMemArgs) : Bool := s.footsHeld (s.vmTensor o) (s.vldrFoots o)
def State.vstrBusy (s : State) (o : VMemArgs) : Bool :=
  s.footsHeld (s.vmTensor o) (s.vstrFoots o (s.cur.readVs (groupRegs o.d o.g) s.freeCtr).1)

/-- The bank groups that the rows of an MLDA, MSTA or MSTQ touch, its headers among them, are streaming an MMA operand (R184,
R188). -/
def State.msBusy (s : State) (h om : BitVec 4) (rm : RowSel) (hdrs : Tensor → List (Nat × Nat)) : Bool :=
  let x := s.msTensor h om
  s.footsHeld x (x.msFoots s.cur.key.core (rowCount rm) ++ hdrs x)

/-- A copy instruction that makes an operation. -/
def makesOp : Instr → Bool
  | .cpy _ | .cpyCvt _ | .cpyTr2d _ | .cpySwz _ | .cpyRle _ | .cpyUnrle _ | .cpyQ4 _ | .cpyDeq _ | .cpyGather _
  | .cpyScatter _ | .cpyFill _ | .cpyRadd _ | .cpyCrc _ | .xcpy _ | .xcpyCvt _ | .xcpyRle _ | .xcpyUnrle _ | .xcpyCrc _
  | .wput _ | .wputCvt _ | .wputRle _ | .wputUnrle _ | .wputCrc _ | .lcpy _ | .lcpyCvt _ | .lcpyRle _ | .lcpyUnrle _
  | .lcpyCrc _ => true
  | _ => false

/-- An instruction of the acting thread still waits for its condition of R220, the counter of a WAIT aside. -/
def instrWaits (i : Instr) (s : State) : Bool :=
  let t := s.cur
  match i with
  | .mma o => (t.getM o.md).full || (o.f && decide (8 ≤ s.heldMma t))
  | .mmat o => (t.getM o.md).full || (o.f && decide (8 ≤ s.heldMma t))
  | .mlda o => (t.getM o.md).full || s.msBusy o.h o.om o.rm fun _ => []
  | .msta o => s.msBusy o.h o.om o.rm fun _ => []
  | .mstq o => s.msBusy o.h o.om o.rm fun x => x.msHdrs s.cur.key.core (rowCount o.rm) (2 ^ (t.selectFt o.fs).lbs)
  | .mtrans md _ => (t.getM md).full
  | .vfromm o => decide (o.mr.toNat < t.bind.mregs) && !(t.getM o.mr).full
  | .vld o => s.vldBusy o
  | .vst o => s.vldBusy o
  | .vldr o => s.vldrBusy o
  | .vstr o => s.vstrBusy o
  | .vland => !t.vfly.isEmpty
  | .vend => !t.vfly.isEmpty
  | .vclrf _ => !t.vfly.isEmpty
  | .mland => !t.mfly.isEmpty
  | .mend => !t.mfly.isEmpty
  | .cfence => !t.copies.isEmpty
  | .bwait n sc => s.barrierBlocked n sc
  | .arrive n sc => s.barrierBlocked n sc
  | .mwaitSync a b => (match t.waiting with | .monitor .. => true | .woken => false | _ => s.mwaitBlocks a b)
  | .sleep a => (match t.waiting with | .sleeping _ => true | .woken => false | _ => decide (wbits (s.getS a) 0 32 ≠ 0))
  | .ownWait _ a => s.ownBlocked a
  | .wwait _ a b => s.winBlocked a b
  | .cqwait => s.ringEmpty
  | .cqwaity => s.ringEmpty
  | i => makesOp i && decide (Config.copyLimit ≤ t.copies.length)

/-- The same for the words of `rawTail`: CPUB and COLL wait as R116 says too, and COLL for its record (R116, R184, R206, R220). -/
def tailWaits (i : CopyTail) (s : State) : Bool :=
  match i with
  | .catom .. => decide (Config.copyLimit ≤ s.cur.copies.length)
  | .coll o => (match collIssue o s with | .ok none => true | _ => false)
  | .crec _ => !s.cur.copies.isEmpty
  | .cpub k => !s.cur.copies.isEmpty || (match s.publish (s.cur.getH k) false with | .ok none => true | _ => false)
  | _ => false

/-- An instruction reads a scalar register (R96, R97–R141). -/
def readsS (i : Instr) (r : BitVec 5) : Bool :=
  match i with
  | .add _ a b | .sub _ a b | .and _ a b | .or _ a b | .xor _ a b | .andn _ a b | .sll _ a b | .srl _ a b | .sra _ a b | .slt _ a b
  | .sltu _ a b | .seq _ a b | .min _ a b | .max _ a b | .minu _ a b | .maxu _ a b | .mul _ a b | .mulh _ a b | .mulhu _ a b
  | .div _ a b | .divu _ a b | .rem _ a b | .remu _ a b | .beq a b _ | .bne a b _ | .blt a b _ | .bge a b _ | .bltu a b _ | .bgeu a b _
  | .st a b _ _ | .stl a b _ _ | .amoAdd _ a b _ _ _ | .amoAnd _ a b _ _ _ | .amoOr _ a b _ _ _ | .amoXor _ a b _ _ _
  | .amoMin _ a b _ _ _ | .amoMax _ a b _ _ _ | .amoMinu _ a b _ _ _ | .amoMaxu _ a b _ _ _ | .amoSwap _ a b _ _ _
  | .stSc a b _ | .amoaddSc _ a b _ | .swapSc _ a b _ | .ownLend _ a b | .ownShare _ a b | .wopen _ a b | .wwait _ a b
  | .mwaitSync a b => decide (a = r) || decide (b = r)
  | .amoCas d a b _ _ _ | .casSc d a b _ => decide (d = r) || decide (a = r) || decide (b = r)
  | .clz _ a | .ctz _ a | .popc _ a | .addi _ a _ | .andi _ a _ | .ori _ a _ | .xori _ a _ | .slti _ a _ | .shori _ a _ | .slli _ a _
  | .srli _ a _ | .srai _ a _ | .jalr _ a _ | .ld _ a _ _ _ | .ldu _ a _ _ _ | .lda _ a _ _ | .ldSc _ a _ | .ownRet _ a | .ownSplit _ a
  | .ownJoin _ a | .ownDrop _ a | .ownQry _ a | .ownWait _ a | .ownClaim _ a | .wclose _ a | .wcnt _ a | .wrst _ a | .post a _
  | .wait a _ | .sleep a | .hld _ a | .hst _ a | .hsetw _ a _ | .haddb _ a | .omld _ a | .loopReg _ a _ | .dqpush _ a | .dqsteal _ a
  | .launch _ a | .csrw _ a _ | .csrs _ a _ | .csrc _ a _ | .ftset _ a | .moveToE _ a => decide (a = r)
  | _ => false

/-- A scalar instruction reads the result of a division that has not returned (R96, R220). -/
def State.divWaits (s : State) (i : Instr) : Bool :=
  s.cur.quotient.elim false fun q => decide (s.cycle < q.2) && decide (q.1 ≠ 0) && readsS i q.1

/-- The loads that an uncorrectable error of a scalar register reaches, precisely (R235). -/
def loadsMem : Instr → Bool
  | .ld .. | .ldu .. | .lda .. | .amoAdd .. | .amoAnd .. | .amoOr .. | .amoXor .. | .amoMin .. | .amoMax .. | .amoMinu .. | .amoMaxu ..
  | .amoSwap .. | .amoCas .. | .ldSc .. | .stSc .. | .amoaddSc .. | .swapSc .. | .casSc .. | .mwaitSync .. => true
  | _ => false

/-- The scalar register that gives the row of a VLD or VLDR. -/
def rowRegOf : Instr → Option (BitVec 5)
  | .vld o | .vldr o => some o.rs
  | _ => none

/-- F_ECC with detail 3: a load's word reads a scalar register with an uncorrectable error (R235). -/
def State.regFault (s : State) (e : Stream) (w : Nat) : Option SFault :=
  if s.cur.badS.isEmpty then none
  else (decodeHead e w).bind fun i =>
    if s.cur.badS.any fun r => (loadsMem i && readsS i r) || decide (rowRegOf i = some r) then some (flt 0x11 3 0) else none

/-- A word of a stream waits for its condition. -/
def State.wordWaits (s : State) (e : Stream) (w : Nat) : Bool :=
  match decodeHead e w with
  | some i => instrWaits i s || (decide (e = .scalar) && s.divWaits i)
  | none => (decodeTail e w).elim false fun t => tailWaits t s

/-- What a word does to a stream counter: it posts a count, or waits for one (R224). -/
inductive CounterUse
  | none
  | post (k : BitVec 4) (n : Nat)
  | wait (k : BitVec 4) (n : Nat)
deriving DecidableEq, Repr

/-- The use of a counter by a word of the acting thread (R17, R224). -/
def State.wordUse (s : State) (e : Stream) (w : Nat) : CounterUse :=
  match decodeHead e w with
  | some (.post a k) => .post k (s.syncCount a)
  | some (.vpost k n) => .post k n.toNat
  | some (.mpost k n) => .post k n.toNat
  | some (.wait a k) => .wait k (s.syncCount a)
  | some (.vwait k n) => .wait k n.toNat
  | some (.mwaitMctl k n) => .wait k n.toNat
  | some _ => .none
  | none => match decodeTail e w with
    | some (.cpost k n) => .post k n.toNat
    | some (.cwait k n) => .wait k n.toNat
    | _ => .none

/-! ### Units and their occupancy (R221) -/

/-- Blocks of n items, at least one. -/
def passes (n per : Nat) : Nat := max 1 ((n + per - 1) / per)

/-- Runs of a run register now. -/
def Slot.runsOf (t : Slot) (v : BitVec 5) : Nat := (t.getV v).nruns

/-- What a mask adds: the mask itself, and the old value of d that it keeps (R93, R145). -/
def maskRegs (d : BitVec 5) (m : VMask) : List (BitVec 5) := m.elim [] fun v => [v, d]

/-- The registers whose intervals an element-wise instruction streams. -/
def laneRegs : Instr → Option (List (BitVec 5))
  | .vadd o | .vsub o | .vmul o | .vdiv o | .vmin o | .vminNum o | .vmax o | .vmaxNum o | .vcmpEq o | .vcmpLt o | .vcmpLe o
  | .vcmpUnord o | .vcmpNe o | .vcmpGt o | .vcmpGe o | .vcmpOrd o | .vand o | .vor o | .vxor o | .vandn o =>
    some ([o.a, o.b] ++ maskRegs o.d o.mask)
  | .vfma o | .vfnma o => some ([o.a, o.b, o.d] ++ o.mask.toList)
  | .vsqrt o | .vabs o | .vneg o | .vrint o => some (o.a :: maskRegs o.d o.mask)
  | .vsel o => some [o.a, o.b, o.m]
  | .vcvt o => some (o.a :: maskRegs o.d o.mask)
  | .viadd o | .visub o | .vimul o | .vsll o | .vsrl o | .vsra o | .vimin o | .vimax o | .viminu o | .vimaxu o =>
    some ([o.a, o.b] ++ maskRegs o.d o.mask)
  | _ => none

/-- The unit that an instruction needs and the cycles for which it stays busy; none: its engine's issue slot alone. -/
def instrUnit (i : Instr) (s : State) : Option (CoreUnit × Nat) :=
  let t := s.cur
  let merge (n per : Nat) : Option (CoreUnit × Nat) := some (.merge, passes n per)
  let rows (r : RowSel) : Option (CoreUnit × Nat) := some (.rowPath, rowCount r)
  match i with
  | .div .. | .divu .. | .rem .. | .remu .. => some (.divider, 12 + Config.freeNat s.freeCtr % 25)
  | .vexp2 o | .vlog2 o | .vrcp o | .vrsq o | .vtanh o | .vsin o | .vcos o | .verf o => merge (t.runsOf o.a) 16
  | .vredSumT o | .vredSumR o | .vredMax o | .vredMin o => merge (t.runsOf o.a) 64
  | .vredrowSum o | .vredrowMax o | .vredrowMin o => merge (t.runsOf o.a + t.rows - 1) 64
  | .vsegsumE o | .vsegsumP o | .vsegmaxE o | .vsegcntP o => merge (intervalBound [t.runsOf o.a, t.runsOf o.b]) 64
  | .vscanMaxI o => merge (t.runsOf o.a) 64
  | .vscanSumI _ | .vscanSumE _ => merge t.n 8
  | .vrcoal _ a => merge (t.runsOf a) 64
  | .vrcnt _ a | .vrlen _ a => merge (t.runsOf a) 64
  | .viota .. => merge t.n 64
  | .vsplat .. | .vsplati .. => merge 1 64
  | .vld o | .vst o | .vldr o | .vstr o => some (.port, 8 * 2 ^ o.g.toNat)
  | .vmov _ _ g => some (.port, 8 * 2 ^ g.toNat)
  | .vfromm _ | .vtom _ => some (.rowPort, 2)
  | .mma o | .mmat o =>
    let a := (t.getH o.ha).tensor 0
    some (.array, 128 * ((t.selectFt o.fs).mmaStep.elim 1 fun step => (a.e0 + step - 1) / step))
  | .mlda o => rows o.rm
  | .msta o | .mstq o => rows o.rm
  | .madd .. | .mscal .. | .mtrans .. => some (.rowPath, 128)
  | i => (laneRegs i).bind fun vs => merge (intervalBound (vs.map t.runsOf)) 64

/-- The unit of a word; the words of `rawTail` need none. -/
def State.wordUnit (s : State) (e : Stream) (w : Nat) : Option (CoreUnit × Nat) := (decodeHead e w).bind fun i => instrUnit i s

/-! ### The Governor (R222–R224) -/

/-- A stream that is eligible at a pick, the counter of a WAIT aside: its slot, role and age, the unit that its instruction needs, its
use of a counter. -/
structure Offer where
  key : SlotId
  role : Nat
  age : Nat
  unit : Option (CoreUnit × Nat)
  use : CounterUse
deriving DecidableEq, Repr

/-- A stream may run at all: bound and running (R220). A scalar stream interlocked on an instruction, or with a SCOP on its
way, has issued it. -/
def Slot.runs (t : Slot) (e : Stream) : Bool :=
  let x := t.str e
  decide (t.status = .bound) && t.running e && x.holdUntil.isNone
    && !(decide (e = .scalar) && (t.locked || t.scop.isSome))

/-- What stream e of a slot offers to the Governor (R220). -/
def State.offer (s : State) (e : Stream) (k : SlotId) : Option Offer :=
  let s := s.focus k
  if s.cur.runs e && !s.tripped then
    let o : Offer := { key := k, role := s.cur.bind.role.toNat, age := (s.cur.str e).age, unit := none, use := .none }
    match s.fetch e with
    | .held _ => none
    | .fault _ => some o
    | .word w _ =>
      if s.wordWaits e w.toNat then none else some { o with unit := s.wordUnit e w.toNat, use := s.wordUse e w.toNat }
  else none

/-- A unit of a core is free in a cycle. -/
def Core.unitFree (c : Core) (now : Nat) (u : Option (CoreUnit × Nat)) : Bool :=
  match u with
  | none => true
  | some (u, _) => c.busy.all fun b => decide (b.1 ≠ u) || decide (b.2 ≤ now)

/-- The first offer in the order of a rotating pointer. -/
def firstFrom (ptr : Nat) (os : List Offer) : Option Offer :=
  ((List.range 4).map fun i => (ptr + i) % 4).findSome? fun n => os.find? fun o => decide (o.key.slot.toNat = n)

/-- The pick of R223 among the offers whose units are free. -/
def choose (govAge ptr : Nat) (os : List Offer) : Option Offer :=
  let aged := os.filter fun o => decide (govAge ≤ o.age)
  if aged.isEmpty then
    let r := os.foldl (fun (m : Nat) (o : Offer) => min m o.role) 3
    firstFrom ptr (os.filter fun o => decide (o.role = r))
  else
    let a := aged.foldl (fun (m : Nat) (o : Offer) => max m o.age) 0
    firstFrom ptr (aged.filter fun o => decide (o.age = a))

/-- The number of a stream as an index. -/
def streamIdx : Stream → Fin 4
  | .scalar => 0 | .vector => 1 | .matrix => 2 | .copy => 3

/-- The age of a stream of a slot set (R222). -/
def State.setAge (s : State) (e : Stream) (k : SlotId) (n : Nat) : State := s.onSlot k fun s => s.updStr e fun x => { x with age := n }

/-- The picks of a cycle, by engine. -/
abbrev Picks := List (Stream × Offer)

/-- A counter as a WAIT of stream e of a thread sees it among the picks of the cycle: after every POST, and after the WAITs of
lower-numbered streams; a POST that overflows adds nothing (R224). -/
def State.counterSeen (s : State) (ps : Picks) (e : Stream) (key : SlotId) (k : BitVec 4) : Nat :=
  let posted := ps.foldl (fun (v : Nat) (p : Stream × Offer) => match p.2.use with
    | .post j n => if p.2.key = key ∧ j = k ∧ v + n ≤ 65535 then v + n else v
    | _ => v) ((s.slotAt key).getK k).toNat
  ps.foldl (fun (v : Nat) (p : Stream × Offer) => match p.2.use with
    | .wait j n => if p.1.num < e.num ∧ p.2.key = key ∧ j = k then v - n else v
    | _ => v) posted

/-- An offer of engine e is eligible beside the picks of the other engines (R220, R224). -/
def State.eligible (s : State) (ps : Picks) (e : Stream) (o : Offer) : Bool :=
  match o.use with
  | .wait k n => decide (n ≤ s.counterSeen (ps.filter fun p => p.1 ≠ e) e o.key k)
  | _ => true

/-- The offers of an engine. -/
def State.offers (s : State) (g : CoreId) (e : Stream) : List Offer := (slotIds g).filterMap (s.offer e)

/-- Engine e picks anew beside the picks of the others (R223). -/
def State.repick (s : State) (c : Core) (os : List Offer) (ps : Picks) (e : Stream) : Picks :=
  match choose c.govNow.toNat c.ptr[(streamIdx e)] (os.filter fun o => s.eligible ps e o && c.unitFree s.cycle o.unit) with
  | some o => (ps.filter fun p => p.1 ≠ e) ++ [(e, o)]
  | none => ps.filter fun p => p.1 ≠ e

/-- The picks of a core's engines in a cycle: each engine's pick is that of R223 beside the POSTs and WAITs that the others pick. Where
picks depend on each other they are found in the order of the streams, in as many rounds as there are engines (R223, R224). -/
def State.picks (s : State) (g : CoreId) : Picks :=
  let os := allStreams.map fun e => (e, s.offers g e)
  let round (ps : Picks) : Picks := os.foldl (fun (ps : Picks) (x : Stream × List Offer) => s.repick (s.core g) x.2 ps x.1) ps
  round (round (round (round [])))

/-- The streams of an engine that were eligible and did not issue grow older; the one that issues starts anew (R222). -/
def State.ageEngine (s : State) (ps : Picks) (e : Stream) (os : List Offer) : State :=
  os.foldl (fun (s : State) (o : Offer) =>
    if ps.contains (e, o) then s.setAge e o.key 0
    else if s.eligible ps e o then s.setAge e o.key (min 65535 (o.age + 1)) else s) s

/-- The blocking instructions (R117). -/
def blocking : Instr → Bool
  | .wait .. | .vwait .. | .mwaitMctl .. | .bwait .. | .mwaitSync .. | .sleep _ | .ownWait .. | .wwait .. | .cqwait | .cqwaity => true
  | _ => false

/-- A word of a stream of the acting thread is a blocking instruction whose condition does not hold (R117, R220). -/
def State.wordBlocks (s : State) (ps : Picks) (e : Stream) (w : Nat) : Bool :=
  let o : Offer := { key := s.cur.key, role := 0, age := 0, unit := none, use := s.wordUse e w }
  match decodeHead e w with
  | some i => blocking i && (instrWaits i s || !s.eligible ps e o)
  | none => (match decodeTail e w with | some (.cwait ..) => !s.eligible ps e o | _ => false)

/-- The request of a COLL's record read that is held on a circuit (R206, R342). -/
def State.recordHeld (s : State) (e : Stream) (w : Nat) : Option HeldReq :=
  match decodeHead e w, decodeTail e w with
  | none, some (.coll o) => (match s.recordAccess o with
    | .ok accs => accs.findSome? fun a => if a.held.isSome then a.request else none
    | .error _ => none)
  | _, _ => none

/-- How a stream of the acting thread stands at its word: a read that is held on a circuit keeps it, and the stream is blocked or not
(R117, R245, R342). -/
def State.standing (s : State) (ps : Picks) (e : Stream) : State :=
  let note (r : Option HeldReq) (b : Bool) : State := s.updStr e fun x => { x with heldRead := r.or x.heldRead, blocked := b }
  if s.cur.runs e && !s.tripped then
    match s.fetch e with
    | .held r => note r false
    | .fault _ => note none false
    | .word w _ => note (s.recordHeld e w.toNat) (s.wordBlocks ps e w.toNat)
  else note none false

/-- How the streams of a core stand in a cycle. -/
def State.noteStanding (s : State) (g : CoreId) (ps : Picks) : State :=
  (slotIds g).foldl (fun (s : State) (k : SlotId) =>
    if (s.slotAt k).status = .bound then s.onSlot k fun s => allStreams.foldl (fun (s : State) (e : Stream) => s.standing ps e) s else s) s

/-- The destination of the division that the acting thread's scalar stream issues. -/
def wordDest (s : State) : BitVec 5 :=
  match s.fetch .scalar with
  | .word w _ => BitVec.ofNat 5 (w.toNat / 2 ^ 21)
  | _ => 0

/-- A pick takes its engine's turn: the rotating pointer, the unit that it keeps busy, the destination of a division (R221, R223). -/
def State.takePick (s : State) (g : CoreId) (p : Stream × Offer) : State :=
  let s := s.updCore g fun c => { c with
    ptr := c.ptr.set (streamIdx p.1) ((p.2.key.slot.toNat + 1) % 4)
    busy := match p.2.unit with
      | none => c.busy
      | some (u, n) => (u, s.cycle + n) :: c.busy.filter fun b => decide (b.1 ≠ u) }
  match p.2.unit with
  | some (.divider, n) => s.onSlot p.2.key fun s => s.upd fun t => { t with quotient := some (wordDest s, s.cycle + n) }
  | _ => s

/-- The Governor of a core: its engines pick, and the POSTs of the cycle issue before the rest (R222–R224). -/
def State.govern (s : State) (g : CoreId) : State :=
  let ps := s.picks g
  let posts (p : Stream × Offer) : Bool := match p.2.use with | .post .. => true | _ => false
  let order := ps.filter posts ++ allStreams.flatMap fun e => ps.filter fun p => decide (p.1 = e) && !posts p
  let s := allStreams.foldl (fun (s : State) (e : Stream) => s.ageEngine ps e (s.offers g e)) s
  let s := (ps.foldl (fun (s : State) (p : Stream × Offer) => s.takePick g p) s).noteStanding g ps
  { s with freeCtr := s.freeCtr + 1, agenda := (order.map fun p => .issue p.2.key p.1) ++ s.agenda }

/-! ### Issue -/

/-- What a word of a stream does: the instruction it names, or F_ILLEGAL for a word that is not an instruction
(R77). -/
noncomputable def runWord (e : Stream) (w : Nat) (s : State) : Res :=
  match decode e w with
  | some i => exec i s
  | none => exec .notAnInstruction s

/-- A word of `rawTail`, run without the constructor of its instruction. -/
def runTail (t : CopyTail) (s : State) : Res :=
  match t with
  | .catom .add o => execCatomAdd o s
  | .catom .and o => execCatomAnd o s
  | .catom .or o => execCatomOr o s
  | .catom .xor o => execCatomXor o s
  | .catom .min o => execCatomMin o s
  | .catom .max o => execCatomMax o s
  | .catom .minu o => execCatomMinu o s
  | .catom .maxu o => execCatomMaxu o s
  | .catom .swap o => execCatomSwap o s
  | .catom .cas o => execCatomCas o s
  | .coll o => execColl o s
  | .cpost k n => execCpost k n s
  | .cwait k n => execCwait k n s
  | .crec n => execCrec n s
  | .cpub k => execCpub k s
  | .cloopImm l c n => execCloopImm l c n s
  | .cloopReg l r n => execCloopReg l r n s

theorem runTail_eq (t : CopyTail) (s : State) : runTail t s = exec t.instr s := by
  cases t with
  | catom op o => cases op <;> rfl
  | _ => rfl

/-- `runWord` as it is compiled. -/
def runWordC (e : Stream) (w : Nat) (s : State) : Res :=
  match decodeHead e w with
  | some i => exec i s
  | none => match decodeTail e w with
    | some t => runTail t s
    | none => exec .notAnInstruction s

@[csimp] theorem runWord_eq_runWordC : @runWord = @runWordC := by
  funext e w s
  unfold runWord runWordC decode
  cases decodeHead e w with
  | some i => rfl
  | none => cases decodeTail e w with
    | none => rfl
    | some t => exact (runTail_eq t s).symm

/-- A stream's fetch is over; a COLL's read of its record is not (R342). -/
def State.fetched (s : State) (e : Stream) (w : Nat) : State :=
  match decodeHead e w, decodeTail e w with
  | none, some (.coll _) => s
  | _, _ => s.dropRead e

/-- A stream of a slot issues its next word: the fetch, then the instruction, or the fault of the fetch; an interlocked scalar
instruction completes though its stream has been halted meanwhile (R236). -/
def State.issue (s : State) (k : SlotId) (e : Stream) : Res :=
  let s := { s.focus k with ev := { EvArgs.none with slot := k, stream := e } }
  let goes := s.cur.running e || (decide (e = .scalar) && s.cur.locked)
  if s.cur.status ≠ .bound ∨ goes = false ∨ s.tripped then .next s
  else match s.fetch e with
    | .held _ => .next s
    | .fault f => exec .instructionFetchFault { s.dropRead e with ev := { s.ev with flt := f } }
    | .word w s' => match s'.regFault e w.toNat with
      | some f => .next ({ s' with insn := w }.raise e f)
      | none => runWord e w.toNat { s'.fetched e w.toNat with insn := w }

end Sys2Proof.Machine
end

