-- ==== Sys2Proof/Machine/Tick.lean ====
section
/-! DEFINITION. What a cycle of the core clock brings: the events whose time or condition has come, what reaches the
module from outside, and the picks of the Governors. Times and choices that the manual leaves open are free values. -/

namespace Sys2Proof.Machine

/-- A free choice of the present cycle: number i of the choices for item k. -/
def State.maybe (s : State) (k i : Nat) : Bool := Config.freeBool (s.freeCtr + 32 * k + i)

/-- An event of a slot. -/
def slotEvent (i : Instr) (k : SlotId) (n : Nat) : Turn := .event i { EvArgs.none with slot := k, num := n }

/-- An event named by a number: of a core, a launch, a link, a unit. -/
def numEvent (i : Instr) (n : Nat) : Turn := .event i { EvArgs.none with num := n }

/-- A turn that happens when a condition holds. -/
def turnIf (c : Bool) (t : Turn) : List Turn := if c then [t] else []

/-! ### A slot's events -/

/-- The circuit that the scalar stream's request has been given is live. -/
def State.heldLive (s : State) (t : Slot) : Bool :=
  t.heldOn.elim false fun r =>
    !r.gone && ((findLaunch s.launches t.bind.launch).elim [] fun l => l.circuits).any fun c => decide (c.ch = r.ch) && c.isLive

/-- What an interlocked scalar stream does: its request crosses its live circuit, in a time that the manual leaves open, or its
instruction is tried again (R342, R345). -/
def State.retryTurns (s : State) (t : Slot) : List Turn :=
  if t.locked && decide (t.status = .bound) then
    (if s.heldLive t then turnIf (s.maybe t.key.num 7) (slotEvent .expressFrame t.key 0) else [.issue t.key .scalar])
  else []

/-- An instruction that blocks with state of its own. -/
def waitsItself : Instr → Bool
  | .mwaitSync .. | .sleep _ | .cqwaity => true
  | _ => false

/-- The scalar stream stands at an MWAIT, SLEEP or CQWAITY whose condition does not hold: its wait begins, without a pick (R117, R220). -/
def State.waitStarts (s : State) (t : Slot) : List Turn :=
  let s := s.focus t.key
  if t.runs .scalar && !s.tripped && decide (t.waiting = .none) then
    match s.fetch .scalar with
    | .word w _ => ((decodeHead .scalar w.toNat).filter fun i => waitsItself i && instrWaits i s && !s.divWaits i).elim [] fun _ => [.issue t.key .scalar]
    | _ => []
  else []

/-- The SCOP of a slot: sent at its position, arriving within the bounds of R264 while its path is open, applied at its
application cycle (R110–R112, R264). -/
def State.scopTurns (s : State) (t : Slot) : List Turn :=
  match t.scop with
  | none => []
  | some x => match x.phase with
    | .waiting p => turnIf (decide (s.cycle % Config.wheelTurn = p)) (slotEvent .scopSend t.key 0)
    | .sent c =>
      let bound := if homeDie (x.bytes.headD 0) = dieOf t.key.core then 128 else 864
      turnIf (s.maybe t.key.num 0 || decide (c + bound ≤ s.cycle)) (slotEvent .scopArrival t.key 0)
    | .arrived .. => []
    | .applied .. => []

/-- A SCOP has been applied, and the way of its reply is open again. -/
def State.replyOpen (s : State) (t : Slot) (x : Scop) : Bool := match x.phase with | .applied .. => (s.focus t.key).scopOpen x | _ => false

/-- SCOPs of a slot at their homes whose application cycle it is, those that answer nobody among them; a reply that waits for its circuit
(R110, R349). -/
def State.applyTurns (s : State) (t : Slot) : List Turn :=
  ((t.orphans ++ t.scop.toList).filter fun x => x.dueAt s.cycle || s.replyOpen t x).map fun _ => slotEvent .scopApply t.key 0

/-- The end of the scalar stream's wait (R127, R130). -/
def State.waitTurns (s : State) (t : Slot) : List Turn :=
  match t.waiting with
  | .sleeping u => turnIf (decide (u ≤ s.cycle)) (slotEvent .sleepExpiry t.key 0)
  | .monitor _ _ u _ _ =>
    if u ≤ s.cycle then [slotEvent .mwaitTimeout t.key 0] else turnIf (s.maybe t.key.num 1) (slotEvent .monitorEviction t.key 0)
  | _ => []

/-- The vector stream holds issue for a VLD or VLDR, not for a run count. -/
def State.holdsForData (s : State) (t : Slot) : Bool :=
  match (s.focus t.key).fetch .vector with
  | .word w _ => (match decodeHead .vector w.toNat with
    | some (.vld _) => true
    | some (.vldr _) => true
    | _ => false)
  | _ => false

/-- Holds that end (R147, R163, R189). -/
def State.holdTurns (s : State) (t : Slot) : List Turn :=
  let past (x : StreamState) : Bool := x.holdUntil.elim false fun u => decide (u ≤ s.cycle)
  turnIf (past t.vector) (slotEvent (if s.holdsForData t then .vldDataCheck else .runCount) t.key 0)
    ++ turnIf (past t.matrix) (slotEvent .mldaDataCheck t.key 0)

/-- A matrix result lands, or stops at its K-step boundary (R92, R187). -/
def State.lands (s : State) (l : MLanding) : Bool :=
  match l.run with
  | .on => decide (l.due ≤ s.cycle)
  | .stopping k => decide (l.boundary k ≤ s.cycle)
  | .stopped => false

/-- Results that land: those of the vector stream before those of the matrix stream (R180). -/
def State.landTurns (s : State) (t : Slot) : List Turn :=
  ((t.vfly.filter fun l => decide (l.due ≤ s.cycle)).map fun l => slotEvent .vectorLanding t.key l.id)
    ++ ((t.mfly.filter s.lands).map fun l => slotEvent (if l.frames.isEmpty then .matrixLanding else .mmaLanding) t.key l.id)

/-- A pending store whose time has come and which may go is performed (R104, R107). -/
def State.storeTurns (s : State) (t : Slot) : List Turn :=
  match (t.stores.zipIdx.find? fun p => decide (p.1.due ≤ s.cycle) && p.1.mayGo (t.stores.take p.2) && (s.focus t.key).storeLive p.1) with
  | some p => [slotEvent .storePerformed t.key p.2]
  | none => []

/-- The chunk of an operation that is carried out next: in order, or any that is left (R207). -/
def State.nextChunk (s : State) (t : Slot) (o : CopyOp) : Nat :=
  if o.tr.ordered then o.progress
  else
    let left := (List.range o.chunks).filter fun n => !o.done.contains n
    left[Config.freeNat (s.freeCtr + 32 * t.key.num + 2) % left.length]?.getD 0

/-- An operation in flight: its next chunk, its end, its restart, its arrival at a Millstone unit (R207–R213, R328). -/
def State.opTurns (s : State) (t : Slot) (o : CopyOp) : List Turn :=
  match o.phase with
  | .running =>
    turnIf (!(s.focus t.key).framed o && !o.remote && decide (o.major ≠ .coll) && decide (o.due ≤ s.cycle) && !s.opHeld o)
      (.event .chunkPerformed { EvArgs.none with slot := t.key, num := o.id, addr := BitVec.ofNat 64 (s.nextChunk t o) })
  | .ended .. => [slotEvent .copyComplete t.key o.id]
  | .awaitCircuit => turnIf ((s.focus t.key).opLive o) (slotEvent .copyRestart t.key o.id)
  | .awaitLink => turnIf (s.linkUp o) (slotEvent .copyRestart t.key o.id)
  | _ => []

/-- A COLL that reaches its unit (R328, R329). -/
def State.collTurns (s : State) (t : Slot) : List Turn :=
  t.copies.filterMap fun o =>
    let go : Turn := .event .collContribution { EvArgs.none with
      num := t.bind.launch, word := BitVec.ofNat 32 t.bind.lin, addr := BitVec.ofNat 64 o.id }
    match o.phase with
    | .toUnit => if s.contributed t.bind.launch o then some go else none
    | .hit .. => some go
    | _ => none

/-- A stopping fault that waits stops the other streams where it must, and enters the handler or goes to Corelo once what was issued
before it has landed (R29, R236, R238). -/
def State.entryTurns (s : State) (t : Slot) : List Turn :=
  if t.nextPending.isNone || decide (t.status ≠ .bound) || t.corelo.isSome then []
  else if (s.focus t.key).coreloDue then [slotEvent .faultToCorelo t.key 0]
  else turnIf (!t.ih) (slotEvent .handlerEntry t.key 0)

/-- An asynchronous entry that waits; it comes after the stopping faults of the cycle (R237). -/
def asyncTurns (t : Slot) : List Turn := turnIf (!t.asyncPend.isEmpty && t.canEnter) (slotEvent .asyncHandlerEntry t.key 0)

/-- What Corelo does with a thread it holds: it resumes the thread or ends it, when it chooses (R238, R247). -/
def State.coreloTurns (s : State) (t : Slot) : List Turn :=
  if t.ending.isSome && t.live then [slotEvent .threadEndByCorelo t.key 0]
  else match t.corelo with
    | some c =>
      if c.mayResume then
        (if s.maybe t.key.num 3 then [slotEvent .machineCheckResume t.key 0]
        else turnIf (s.maybe t.key.num 4) (slotEvent .threadEndByCorelo t.key 0))
      else [slotEvent .threadEndByCorelo t.key 0]
    | none => []

/-- The life of a thread: the end of a bind or restore, pre-emption, retirement, scrubbing (R138, R241, R248, R318, R320). -/
def State.lifeTurns (s : State) (t : Slot) : List Turn :=
  match t.status with
  | .binding => turnIf (decide (t.readyAt ≤ s.cycle)) (slotEvent .bind t.key 1)
  | .restoring => turnIf (decide (t.readyAt ≤ s.cycle)) (slotEvent .resumption t.key 1)
  | .bound => turnIf t.preemptReq (slotEvent .preemption t.key 0) ++ turnIf t.allOver (slotEvent .retirement t.key 0)
  | .saving => [slotEvent .preemption t.key 0]
  | .scrubbing => turnIf (decide (t.readyAt ≤ s.cycle)) (slotEvent .scrubComplete t.key 0)
  | .free => []

/-- The events of a slot in a cycle before its streams issue. -/
def State.slotTurns (s : State) (t : Slot) : List Turn :=
  s.entryTurns t ++ s.holdTurns t ++ s.landTurns t ++ s.scopTurns t ++ s.applyTurns t ++ s.waitTurns t ++ s.storeTurns t
    ++ s.coreloTurns t ++ s.lifeTurns t ++ s.retryTurns t

/-- What copies and records do in a cycle, once the streams have issued: an instruction of the cycle sees the tags and the records of
the cycle before; asynchronous entries come last (R237, R238, R286). -/
def State.lateTurns (s : State) (t : Slot) : List Turn :=
  t.copies.flatMap (s.opTurns t) ++ s.collTurns t
    ++ turnIf (!t.waitRecs.isEmpty && decide (t.cqCount < Config.ringSize)) (slotEvent .heldRecordEntry t.key 0) ++ asyncTurns t

/-! ### The fabric -/

/-- An event of a circuit. -/
def circuitEvent (i : Instr) (l : Launch) (c : Circuit) (n : Nat) : Turn :=
  .event i { EvArgs.none with num := l.num, word := BitVec.ofNat 32 c.ch, addr := BitVec.ofNat 64 n }

/-- A circuit becomes live at the start of a launch step (R340). -/
def State.circuitTurns (s : State) (l : Launch) (c : Circuit) : List Turn :=
  match c.st with
  | .settling n | .resettling n => turnIf ((s.launchStep l).elim false fun t => decide (n ≤ t)) (circuitEvent .circuitLive l c 0)
  | _ => []

/-- The first frame of a circuit in some place. -/
def Circuit.firstFrame (c : Circuit) (p : Frame → Bool) (f : Frame → List Turn) : List Turn := (c.frames.find? p).elim [] f

/-- Frames of a live circuit, their answers and its notices move at free times; a frame that waits at the receiver is checked in when
it can be (R184, R344, R345). -/
def State.frameTurns (s : State) (l : Launch) (c : Circuit) : List Turn :=
  let k := 4096 + 64 * l.num + c.ch
  if c.isLive then
    c.firstFrame (fun f => decide (f.st = .here) && decide (f.seq = c.rxSeq) && !s.frameHeld f) (fun f => [circuitEvent .chunkFrame l c f.seq])
      ++ c.firstFrame (fun f => decide (f.st = .flying)) (fun f => turnIf (s.maybe k 0) (circuitEvent .chunkFrame l c f.seq))
      ++ c.firstFrame (fun f => decide (f.st = .bad)) (fun f => turnIf (s.maybe k 1) (circuitEvent .nack l c f.seq))
      ++ turnIf (!(s.ackedFrames c.frames).isEmpty && s.maybe k 2) (circuitEvent .ack l c 0)
      ++ turnIf (c.notices.head?.elim false fun n => seqReached n.seq c.rxSeq) (circuitEvent .notice l c 0)
  else []

/-- A launch in a cycle: circuits, the sequencer's work once in a fabric step, the end (R323, R339). -/
def State.launchTurns (s : State) (l : Launch) : List Turn :=
  l.circuits.flatMap (s.circuitTurns l)
    ++ turnIf ((s.launchStep l).isSome && decide (l.ran ≠ s.launchStep l)) (numEvent .fabricStep l.num)
    ++ turnIf l.over (numEvent .launchRecord l.num)

/-! ### Collectives, links and the host -/

/-- A served collective has something to do: it is complete, its result has been performed, or it ends (R329–R331). A failed key
waits for the members that are still to come. -/
def State.collActs (s : State) (c : Coll) (j : Job) : Bool :=
  match c.ending with
  | some _ => !c.got.isEmpty || c.full j || c.cancelled || s.starved c j
  | none => if c.delivering then !s.delivers c else c.full j || !(s.goneMembers c j).isEmpty || s.starved c j

def State.unitTurns (s : State) : List Turn :=
  s.colls.filterMap fun c =>
    match findJob s.jobs c.job with
    | some j => if c.served && s.collActs c j then some (numEvent .collDelivery (16 * c.mill + c.unit)) else none
    | none => none

/-- An event of a message that a Millstone holds. -/
def heldEvent (i : Instr) (h : HeldMsg) : Turn := .event i { EvArgs.none with num := h.link, addr := BitVec.ofNat 64 h.last }

/-- What a Millstone holds for its home die looks for a circuit as it comes and in each fabric step, and goes on as its circuit does; what
it has held too long without one is refused (R358). -/
def State.holdingTurns (s : State) : List Turn :=
  s.held.flatMap fun h =>
    match h.via with
    | some v => turnIf (h.answer.isSome || !s.carrierLive v) (heldEvent .millstoneForward h)
    | none =>
      if decide (h.since + 2 ^ 20 ≤ s.cycle) && h.answer.isNone then [heldEvent .millstoneHoldTimeout h]
      else turnIf (decide (s.cycle = h.since + 1) || decide (s.cycle % Config.fabricStep = 0)) (heldEvent .millstoneForward h)

/-- An operation was issued for a link that is down (R362). -/
def State.strayOp (s : State) (l : Link) : Bool :=
  decide (l.st = .down) && s.slots.any fun t => t.copies.any fun o => o.onLink l.num && decide (o.phase ≠ .awaitLink)

/-- A link in a cycle: its boundary, its limits, its drain, and the bring-up that falls due or ends with nothing (R360–R362, R367, R369). -/
def State.linkTurns (s : State) (l : Link) : List Turn :=
  turnIf (decide (l.st = .restripe) && l.shake.elim false fun h => h.peerMask.isSome && l.atBoundary h) (numEvent .restripeBoundary l.num)
    ++ turnIf (decide (l.st = .retrain) && decide (l.since + 2 ^ 21 ≤ s.cycle)) (numEvent .retrainTimeout l.num)
    ++ turnIf (l.draining && decide (l.drainAt + 200000 ≤ s.cycle)) (numEvent .vetoTimeout l.num)
    ++ turnIf l.draining (numEvent .quiesceDrained l.num)
    ++ turnIf (s.strayOp l) (numEvent .linkDown l.num)
    ++ turnIf (l.mayTry && decide (l.tryAt ≤ s.cycle)) (numEvent .bringUp l.num)
    ++ turnIf (l.mayTry && l.trying && s.maybe (2600 + l.num) 1) (.event .bringUp { EvArgs.none with num := l.num, word := 1 })

/-- What may reach the module from outside, or happen to it without a cause in it. -/
def external : Instr → Bool
  | .ringTuningLoss | .laserFailure | .portRetune | .collContribution | .flit | .linkAck | .linkNack | .laneFailure | .laneMap
  | .laneRetuned | .retrain | .retrainDone | .linkDown | .bringUp | .jobCreate | .jobEnd | .mapPage | .submit | .cancel
  | .preemptCmd | .returnRegion | .quiesce | .resumeLink | .journalRead | .capRead | .diagRead | .attest | .auditRead
  | .auditAck | .download | .failUnit | .rdmaWrite | .rdmaRead | .sendFrame | .invalidRequest | .moduleReset
  | .thermalThrottle | .thermalTrip | .monitorEviction | .restripeBoundary => true
  | _ => false

/-- What reaches the module in the present cycle. -/
def State.inputTurns (s : State) : List Turn :=
  ((s.inputs.takeWhile fun i => decide (i.cycle ≤ s.cycle)).filter fun i => external i.what).map fun i => .event i.what i.args

/-! ### Corelo and the cores -/

/-- Corelo's work: the next bind or resumption, a request for a pre-emption, the end of a command that waits
(R301, R315, R321, R375). -/
def State.managementTurns (s : State) : List Turn :=
  (match s.nextBind with
    | some (.inst .., _) => [numEvent .bind 0]
    | some (.image .., _) => [numEvent .resumption 0]
    | none => [])
  ++ turnIf s.wanted.isSome (numEvent .preemptCmd 0)
  ++ (match s.host.waiting with
    | some p => turnIf (decide (p.code = 2)) (numEvent .jobEnd 0) ++ turnIf (decide (p.code = 3)) (numEvent .mapPage 0)
    | none => [])

/-- Cores on which a thread is bound, each once. -/
def State.liveCores (s : State) : List CoreId :=
  (s.slots.filterMap fun t => if t.status = .bound then some t.key.core else none).eraseDups

/-- A walk of a core for a page of a job that runs on it, at a free time (R299, R300). -/
def State.walkTurns (s : State) : List Turn :=
  s.slots.flatMap fun t =>
    match findJob s.jobs t.bind.job with
    | some j =>
      let n := Config.freeNat (s.freeCtr + 32 * t.key.num + 6) % (j.maps.length + 1)
      (match j.maps[n]? with
      | some m => turnIf (decide (t.status = .bound) && s.maybe t.key.num 5)
          (.event .pageWalk { EvArgs.none with num := t.key.core.toNat, word := BitVec.ofNat 32 j.id, addr := BitVec.ofNat 64 m.1 })
      | none => [])
    | none => []

/-- The patrol engine reads every core once in 2^30 CCLK (R287). -/
def State.patrolTurns (s : State) : List Turn :=
  turnIf (decide (s.cycle % 2 ^ 21 = 0)) (numEvent .patrol (s.cycle / 2 ^ 21 % 512))

/-- An L1 may lose a line at any time, to an allocation that the manual's rules do not fix (R288). -/
def State.evict (s : State) : State :=
  { s with cores := s.cores.map fun (c : Core) =>
      if s.maybe (2048 + c.g.toNat) 0 then
        { c with l1 := c.l1.eraseIdx (Config.freeNat (s.freeCtr + 32 * (2048 + c.g.toNat) + 1) % (c.l1.length + 1)) } else c }

/-- Saved threads that are being ended (R247). -/
def State.endingTurns (s : State) : List Turn :=
  (s.images.filter fun i => i.ending.isSome).map fun i => .event .threadEndByCorelo { EvArgs.none with num := i.num, word := 1 }

/-- What the circuits' senders and the links put on the way in a cycle (R343, R344, R357). -/
def State.sendAll (s : State) : State :=
  let s := s.launches.foldl (fun (s : State) (l : Launch) => l.circuits.foldl (fun (s : State) (c : Circuit) => s.sendFrame l c) s) s
  s.links.foldl (fun (s : State) (l : Link) => s.linkCycle l) s

/-- Everything that a cycle brings, in the order in which it happens: the waits that begin; what comes from outside and the work of Corelo,
sequencer and links; what ends in the slots; the picks and issues of the cores; then the data that copies, circuits and units move (R286). -/
def State.turns (s : State) : List Turn :=
  s.slots.flatMap s.waitStarts ++ s.inputTurns ++ s.launches.flatMap s.launchTurns ++ s.links.flatMap s.linkTurns ++ s.managementTurns
    ++ s.endingTurns ++ s.walkTurns ++ s.patrolTurns
    ++ s.slots.flatMap s.slotTurns ++ s.liveCores.map Turn.pick
    ++ (s.launches.flatMap fun l => l.circuits.flatMap (s.frameTurns l)) ++ s.unitTurns ++ s.holdingTurns
    ++ (s.images.flatMap fun i => s.collTurns i.ctx) ++ s.slots.flatMap s.lateTurns

/-- The Governors take the thresholds that were written in the cycle before (R31). -/
def State.takeAges (s : State) : State := { s with cores := s.cores.map fun (c : Core) => { c with govNow := c.govAge } }

/-- The next cycle of the core clock begins. -/
def State.tick (s : State) : State :=
  let s := (({ s with cycle := s.cycle + 1 }.takeAges.evict).sendAll).noteHolds
  { s with
    agenda := s.turns
    inputs := s.inputs.dropWhile fun i => decide (i.cycle ≤ s.cycle)
    freeCtr := s.freeCtr + 2 ^ 24 }

end Sys2Proof.Machine
end

