-- ==== Sys2Proof/Machine/Step.lean ====
section
/-! DEFINITION. One step of the module: the next turn of the agenda, or the next cycle of the core clock. -/

namespace Sys2Proof.Machine

/-- One turn: a pick, an issue, or an event with its operands. -/
def State.turn (s : State) (t : Turn) : Res :=
  match t with
  | .pick g => .next (s.govern g)
  | .issue k e => s.issue k e
  | .event i a => exec i { s with ev := a }

/-- One step: the first turn of the agenda; with none left, the next cycle begins. -/
def step (s : State) : Host.Outcome State Fault Refusal :=
  match s.agenda with
  | [] => .next s.tick
  | t :: rest => State.turn { s with agenda := rest } t

/-- The entry of the page at address 0 that `withFetchWord` gives the acting slot's core: valid, leaf, R, X, STRONG and
replicated, so that its frame is the first of the core's own die (R295, R298). -/
def fetchEntry (job : Nat) (g : CoreId) : TlbEntry := { job := job, base := 0, log2 := 16, pte := 0x117, die := dieOf g }

/-- The stream runs and stands at address 0. -/
def StreamState.fetchAt0 (x : StreamState) : StreamState :=
  { x with
    pc := 0, ended := false, stopped := false, halted := false, pending := none, holdUntil := none, holdFault := none
    buf := none, heldRead := none }

/-- The state with a word where the acting slot fetches next. The machine runs what Corelo has bound: so the slot is
bound, its core translates address 0, the word stands there, the stream whose map holds it stands at address 0, and its
issue is the next turn. -/
def State.withFetchWord (s : State) (nbits w : Nat) : State :=
  let word := w % 2 ^ nbits
  let e := tableStream word
  let k := s.cur.key
  let pa := dieOf k.core * 2 ^ 43
  let s := s.updCore k.core fun c => { c with tlb := fetchEntry s.cur.bind.job k.core :: c.tlb }
  let s := s.store (cellsAt pa (bytesOf 4 word))
  let s := { s with
    bad := s.bad.filter fun b => (eccIn [b] pa 4).isNone
    tripped := false
    agenda := .issue k e :: s.agenda }
  (s.upd fun t => { t with
    status := .bound
    stores := t.stores.filter fun p => !p.bytes.any fun b => decide (pa ≤ b.1) && decide (b.1 < pa + 4) }).updStr e StreamState.fetchAt0

end Sys2Proof.Machine
end

