-- ==== Sys2Proof/Safety.lean ====
section
/-! DEFINITION. What counts as a safe run, in the terms the claims use: no step stops, and the invariants of the state hold. -/

namespace Sys2Proof.Machine

/-- A result that goes on, and the state it goes on with. -/
def Res.state? (r : Res) : Option State :=
  match r with
  | .next s => some s
  | _ => none

/-- The memory is in its canonical form: equal memories are equal data. -/
def State.memOk (s : State) : Bool := Memory.wf s.mem

/-- Every slot: the acting one, the others and the saved contexts, with the older images under them (R12, R245, R246). -/
def State.contexts (s : State) : List Slot := s.slots ++ (s.images ++ s.archive).map fun i => i.ctx

/-- The program counters of a slot hold zero in bits [1:0] (R9). -/
def Slot.pcsAligned (t : Slot) : Bool := allStreams.all fun e => decide ((t.str e).pc &&& 3#52 = 0)

/-- A run of n steps that neither faults nor is refused. -/
def safeRun : Nat → State → Prop
  | 0, _ => True
  | n + 1, s => ∃ t, step s = .next t ∧ safeRun n t

end Sys2Proof.Machine
end

