-- ==== Sys2Proof/Certificates/Slice0/Obligations.lean ====
section
/-! DEFINITION. The statements about the LV-3200, in the order of the opcode table: results and completion of every instruction and
event, their frames, the exceptions, encodings and invariants. -/

/-! ### What the statements are said in -/

namespace Sys2Proof.Claims
open Sys2Proof.Machine

/-- The register files but the scalar one, the flags of the vector engine and the shape are as before. -/
def SameFiles (t u : Slot) : Prop :=
  u.h = t.h ∧ u.e = t.e ∧ u.k = t.k ∧ u.ft = t.ft ∧ u.om = t.om ∧ u.v = t.v ∧ u.m = t.m ∧ u.rows = t.rows ∧ u.cols = t.cols

/-- Every CSR that holds state of the thread, the diverted address and the bind record are as before. -/
def SameCsrs (t u : Slot) : Prop :=
  u.vcsr = t.vcsr ∧ u.ftoff = t.ftoff ∧ u.fscratch0 = t.fscratch0 ∧ u.fscratch1 = t.fscratch1 ∧ u.tvec = t.tvec ∧ u.fcause = t.fcause
    ∧ u.fstream = t.fstream ∧ u.fpc = t.fpc ∧ u.finsn = t.finsn ∧ u.faddr = t.faddr ∧ u.ih = t.ih ∧ u.handled = t.handled
    ∧ u.divert = t.divert ∧ u.bind = t.bind ∧ u.key = t.key

/-- The vector, matrix and copy streams, and what they have in flight, are as before. -/
def SameEngines (t u : Slot) : Prop :=
  u.vector = t.vector ∧ u.matrix = t.matrix ∧ u.copy = t.copy ∧ u.vfly = t.vfly ∧ u.mfly = t.mfly ∧ u.copies = t.copies

/-- Every byte of memory reads as before. -/
def SameMem (s u : State) : Prop := ∀ a, u.byteAt a = s.byteAt a

/-- What an instruction of the scalar stream that writes s(d) leaves as it was: every other scalar register, the other files,
the CSRs, the engines and memory. -/
def ScalarFrame (s u : State) (d : BitVec 5) : Prop :=
  (∀ i, i ≠ d → u.getS i = s.getS i) ∧ SameFiles s.cur u.cur ∧ SameCsrs s.cur u.cur ∧ SameEngines s.cur u.cur ∧ SameMem s u

/-- An instruction of the scalar stream has written v to s(d) (s0 discards it, R13) and gone on to its next word, with nothing else
of the thread's registers and no byte of memory changed. -/
def Wrote (s u : State) (d : BitVec 5) (v : Word) : Prop :=
  ScalarFrame s u d ∧ u.getS d = (if d = 0 then 0 else v) ∧ u.cur.scalar = seqNext 6 s.cur.scalar

/-- The state that an ALU instruction leaves: s(d) holds v, without an error, the scalar stream stands at its next word, and every other
field is as before (R97, R235). -/
def scalarDone (s : State) (d : BitVec 5) (v : Word) : State :=
  { s with cur := { s.cur with
      s := if d = 0 then s.cur.s else s.cur.s.set d.toNat v d.isLt
      badS := if d = 0 then s.cur.badS else s.cur.badS.filter fun r => r ≠ d
      scalar := seqNext 6 s.cur.scalar } }

/-- The ALU operations of two sources and what each gives, in the integers (R97, R98). -/
def aluOps : List ((BitVec 5 → BitVec 5 → BitVec 5 → Instr) × (Word → Word → Word)) := [
  (.add, fun a b => BitVec.ofNat 64 (a.toNat + b.toNat)),
  (.sub, fun a b => BitVec.ofInt 64 ((a.toNat : Int) - b.toNat)),
  (.and, fun a b => a &&& b),
  (.or, fun a b => a ||| b),
  (.xor, fun a b => a ^^^ b),
  (.andn, fun a b => a &&& ~~~ b),
  (.sll, fun a b => BitVec.ofNat 64 (a.toNat * 2 ^ (b.toNat % 64))),
  (.srl, fun a b => BitVec.ofNat 64 (a.toNat / 2 ^ (b.toNat % 64))),
  (.sra, fun a b => BitVec.ofInt 64 (a.toInt / 2 ^ (b.toNat % 64))),
  (.slt, fun a b => if a.toInt < b.toInt then 1 else 0),
  (.sltu, fun a b => if a.toNat < b.toNat then 1 else 0),
  (.seq, fun a b => if a = b then 1 else 0),
  (.min, fun a b => if a.toInt ≤ b.toInt then a else b),
  (.max, fun a b => if a.toInt ≤ b.toInt then b else a),
  (.minu, fun a b => if a.toNat ≤ b.toNat then a else b),
  (.maxu, fun a b => if a.toNat ≤ b.toNat then b else a),
  (.mul, fun a b => BitVec.ofNat 64 (a.toNat * b.toNat)),
  (.mulh, fun a b => BitVec.ofInt 64 (a.toInt * b.toInt / 2 ^ 64)),
  (.mulhu, fun a b => BitVec.ofNat 64 (a.toNat * b.toNat / 2 ^ 64)),
  (.div, fun a b => if b = 0 then BitVec.ofInt 64 (-1) else BitVec.ofInt 64 (a.toInt.tdiv b.toInt)),
  (.divu, fun a b => if b = 0 then BitVec.ofInt 64 (-1) else BitVec.ofNat 64 (a.toNat / b.toNat)),
  (.rem, fun a b => if b = 0 then a else BitVec.ofInt 64 (a.toInt.tmod b.toInt)),
  (.remu, fun a b => if b = 0 then a else BitVec.ofNat 64 (a.toNat % b.toNat))]

/-- The bits of a word that are set, by position. -/
def setBits (a : Word) : List Nat := (List.range 64).filter fun i => a.getLsbD i

/-- CLZ, CTZ and POPC by the positions of the set bits; of no set bit, CLZ and CTZ give 64 (R97). -/
def countOps : List ((BitVec 5 → BitVec 5 → Instr) × (Word → Nat)) := [
  (.clz, fun a => ((setBits a).getLast?.map fun i => 63 - i).getD 64),
  (.ctz, fun a => (setBits a).head?.getD 64),
  (.popc, fun a => (setBits a).length)]

/-- The forms with a 16-bit immediate and what each gives (R99). -/
def immOps : List ((BitVec 5 → BitVec 5 → BitVec 16 → Instr) × (Word → BitVec 16 → Word)) := [
  (.addi, fun a i => BitVec.ofInt 64 (a.toInt + i.toInt)),
  (.andi, fun a i => BitVec.ofNat 64 (a.toNat &&& i.toNat)),
  (.ori, fun a i => BitVec.ofNat 64 (a.toNat ||| i.toNat)),
  (.xori, fun a i => BitVec.ofNat 64 (a.toNat ^^^ i.toNat)),
  (.slti, fun a i => if a.toInt < i.toInt then 1 else 0),
  (.shori, fun a i => BitVec.ofNat 64 (a.toNat * 65536 + i.toNat))]

/-- The shifts by an immediate (R99). -/
def shiftOps : List ((BitVec 5 → BitVec 5 → BitVec 6 → Instr) × (Word → Nat → Word)) := [
  (.slli, fun a n => BitVec.ofNat 64 (a.toNat * 2 ^ n)),
  (.srli, fun a n => BitVec.ofNat 64 (a.toNat / 2 ^ n)),
  (.srai, fun a n => BitVec.ofInt 64 (a.toInt / 2 ^ n))]

/-- The conditional branches and their conditions (R100). -/
def branchOps : List ((BitVec 5 → BitVec 5 → BitVec 16 → Instr) × (Word → Word → Bool)) := [
  (.beq, fun a b => decide (a = b)),
  (.bne, fun a b => decide (a ≠ b)),
  (.blt, fun a b => decide (a.toInt < b.toInt)),
  (.bge, fun a b => decide (b.toInt ≤ a.toInt)),
  (.bltu, fun a b => decide (a.toNat < b.toNat)),
  (.bgeu, fun a b => decide (b.toNat ≤ a.toNat))]

/-- The number of n bytes at offset o of the head record of the acting thread's ring (R33, R239). -/
def headField (s : State) (o n : Nat) : Nat := memNat s.mem (s.cur.ringBase + s.cur.cqHead * 32 + o) n

/-- The branches on the completion ring and their conditions (R133). -/
def ringBranches : List ((BitVec 16 → Instr) × (State → Bool)) := [
  (.bqEmpty, fun s => decide (s.cur.cqCount = 0)),
  (.bqNonempty, fun s => decide (s.cur.cqCount ≠ 0)),
  (.bqPoison, fun s => decide (s.cur.cqCount ≠ 0 ∧ headField s 16 8 ≠ 0)),
  (.bqFault, fun s => decide (s.cur.cqCount ≠ 0 ∧ headField s 24 4 ≠ 0)),
  (.bqOk, fun s => decide (s.cur.cqCount ≠ 0 ∧ headField s 2 2 = 0))]

/-- The scalar stream has been sent to a target, and left the loops whose bodies do not hold it (R132); nothing else changes. -/
def sentTo (s : State) (target : Int) : State :=
  { s with cur := { s.cur with scalar := s.cur.scalar.jumpTo (BitVec.ofInt 52 target) } }

/-- The target of a branch or JAL (R100). -/
def branchTarget (s : State) {n : Nat} (off : BitVec n) : Int := (s.cur.scalar.pc.toNat : Int) + off.toInt * 4

/-- A target that the scalar stream can be sent to (R100). -/
def inPc (t : Int) : Prop := 0 ≤ t ∧ t < 2 ^ 52

/-- The immediate and the register loops of the four streams (R132). -/
noncomputable def immLoops : List (Stream × (BitVec 3 → BitVec 10 → BitVec 12 → Instr)) :=
  [(.scalar, .loopImm), (.vector, .vloopImm), (.matrix, .mloopImm), (.copy, .cloopImm)]
noncomputable def regLoops : List (Stream × (BitVec 3 → BitVec 5 → BitVec 12 → Instr)) :=
  [(.scalar, .loopReg), (.vector, .vloopReg), (.matrix, .mloopReg), (.copy, .cloopReg)]

/-- A LOOP may start at a level: the level is inactive, and every active loop that no handler interrupts holds the word and the
body (R132). -/
def loopLegal (x : StreamState) (lv : Fin 6) (len : BitVec 12) : Prop :=
  x.loops[lv].active = false ∧ ∀ i : Fin 6, x.loops[i].active = true → x.loops[i].frozen = false →
    x.loops[i].first ≤ x.pc ∧ x.pc + 4 * len.setWidth 52 ≤ x.loops[i].last

/-- What a LOOP of a count leaves: over the body with count 0, else the level active with its counter 0 and the stream at the
first word of the body (R132). -/
def LoopStarted (s u : State) (e : Stream) (lv : Fin 6) (n : Nat) (len : BitVec 12) : Prop :=
  let x := s.cur.str e
  let y := u.cur.str e
  if n = 0 then u = s.updStr e fun x => { x with pc := x.pc + 4 + 4 * len.setWidth 52 }
  else y.pc = x.pc + 4
    ∧ y.loops[lv] = { active := true, frozen := false, first := x.pc + 4, last := x.pc + 4 * len.setWidth 52, count := n, lc := 0 }
    ∧ (∀ i : Fin 6, i ≠ lv → y.loops[i] = x.loops[i])
    ∧ u = s.updStr e fun x => { x with pc := y.pc, loops := y.loops, buf := y.buf }

/-- The levels whose bodies end at a word, innermost first: as the word is completed they are tested in this order (R132). -/
def EndsAt (x : StreamState) (i : Fin 6) : Prop := x.loops[i].active = true ∧ x.loops[i].frozen = false ∧ x.loops[i].last = x.pc

end Sys2Proof.Claims

/-! ### Registers, the ALU, branches and loops -/

section
open Sys2Proof Sys2Proof.Machine Sys2Proof.Claims

/-- s0 reads as zero and a write to it is discarded; a write to another register is what it reads, and every other register
stays (R13). -/
def Obligations.ZeroRegisterReadsZero : Prop :=
  ∀ (s : State) (i : BitVec 5) (v : Word),
    s.getS 0 = 0 ∧ s.setS 0 v = s ∧ (i ≠ 0 → (s.setS i v).getS i = v) ∧ ∀ j, j ≠ i → (s.setS i v).getS j = s.getS j

/-- Every ALU operation writes the value that R97 and R98 give, computed in the integers, to d, and does nothing else but go
on: in every state it completes; an ALU word with an unassigned function, or with b set in CLZ, CTZ or POPC, is no instruction (R96–R98). -/
def Sys2Proof.Claims.AluOperationsGiveTheirValues : Prop :=
  (∀ p ∈ aluOps, ∀ (d a b : BitVec 5) (s : State), exec (p.1 d a b) s = .next (scalarDone s d (p.2 (s.getS a) (s.getS b)))) ∧
  (∀ p ∈ countOps, ∀ (d a : BitVec 5) (s : State), exec (p.1 d a) s = .next (scalarDone s d (BitVec.ofNat 64 (p.2 (s.getS a))))) ∧
  (∀ w : Nat, w < 2 ^ 32 → bits w 26 6 = 0x01 →
    (bits w 0 11 = 0x17 ∨ 0x1A < bits w 0 11 ∨ (0x18 ≤ bits w 0 11 ∧ bits w 11 5 ≠ 0)) → decode .scalar w = none)

/-- Every immediate form writes the value that R99 gives to d and does nothing else but go on; a SHIFTI word with another kind or
with imm[7:6] set is no instruction (R99). -/
def Sys2Proof.Claims.ImmediateFormsGiveTheirValues : Prop :=
  (∀ p ∈ immOps, ∀ (d a : BitVec 5) (imm : BitVec 16) (s : State), exec (p.1 d a imm) s = .next (scalarDone s d (p.2 (s.getS a) imm))) ∧
  (∀ p ∈ shiftOps, ∀ (d a : BitVec 5) (n : BitVec 6) (s : State), exec (p.1 d a n) s = .next (scalarDone s d (p.2 (s.getS a) n.toNat))) ∧
  (∀ w : Nat, w < 2 ^ 32 → bits w 26 6 = 0x08 → bits w 6 2 ≠ 0 ∨ 3 ≤ bits w 8 8 → decode .scalar w = none)

/-- A branch not taken goes on in sequence and checks no target; a branch taken to a target of 52 bits is sent there, and nothing
else changes (R100, R133). -/
def Sys2Proof.Claims.BranchesGoWhereTheySay : Prop :=
  (∀ p ∈ branchOps, ∀ (a b : BitVec 5) (off : BitVec 16) (s : State),
    (p.2 (s.getS a) (s.getS b) = false → exec (p.1 a b off) s = .next (s.advance .scalar)) ∧
    (p.2 (s.getS a) (s.getS b) = true → inPc (branchTarget s off) → exec (p.1 a b off) s = .next (sentTo s (branchTarget s off)))) ∧
  (∀ p ∈ ringBranches, ∀ (off : BitVec 16) (s : State),
    (p.2 s = false → exec (p.1 off) s = .next (s.advance .scalar)) ∧
    (p.2 s = true → inPc (branchTarget s off) → exec (p.1 off) s = .next (sentTo s (branchTarget s off))))

/-- JAL and JALR go to their targets and write pc + 4 to d; JALR uses the exact sum of s(a) and the immediate, and reads s(a)
before d is written (R96, R100, R133). That the sum is exact is the model's reading (log entry 17). -/
def Sys2Proof.Claims.JumpsLinkAndGo : Prop :=
  (∀ (d : BitVec 5) (off : BitVec 21) (s : State), inPc (branchTarget s off) →
    exec (.jal d off) s = .next ((sentTo s (branchTarget s off)).setS d (pcWord s.cur.scalar.pc + 4))) ∧
  (∀ (d a : BitVec 5) (imm : BitVec 16) (s : State), let target : Int := ((s.getS a).toNat : Int) + imm.toInt
    inPc target → target % 4 = 0 → exec (.jalr d a imm) s = .next ((sentTo s target).setS d (pcWord s.cur.scalar.pc + 4)))

/-- A jump to a misaligned address raises F_ALIGN and a branch or jump out of 52 bits F_XLATE, with the target in FADDR: d is not
written and the fault is taken at the instruction (R100). -/
def Sys2Proof.Claims.BadTargetsFault : Prop :=
  (∀ (d a : BitVec 5) (imm : BitVec 16) (s : State), let target : Int := ((s.getS a).toNat : Int) + imm.toInt
    (target % 4 ≠ 0 → exec (.jalr d a imm) s = .next (s.raise .scalar (flt 0x02 0 (BitVec.ofInt 64 target)))) ∧
    (target % 4 = 0 → ¬ inPc target → exec (.jalr d a imm) s = .next (s.raise .scalar (flt 0x03 0 (BitVec.ofInt 64 target))))) ∧
  (∀ (d : BitVec 5) (off : BitVec 21) (s : State), ¬ inPc (branchTarget s off) →
    exec (.jal d off) s = .next (s.raise .scalar (flt 0x03 0 (BitVec.ofInt 64 (branchTarget s off))))) ∧
  (∀ p ∈ branchOps, ∀ (a b : BitVec 5) (off : BitVec 16) (s : State), p.2 (s.getS a) (s.getS b) = true → ¬ inPc (branchTarget s off) →
    exec (p.1 a b off) s = .next (s.raise .scalar (flt 0x03 0 (BitVec.ofInt 64 (branchTarget s off))))) ∧
  (∀ p ∈ ringBranches, ∀ (off : BitVec 16) (s : State), p.2 s = true → ¬ inPc (branchTarget s off) →
    exec (p.1 off) s = .next (s.raise .scalar (flt 0x03 0 (BitVec.ofInt 64 (branchTarget s off)))))

/-- A loop of the four streams starts as R132 says when its level is inactive and every active loop holds it, and otherwise raises
F_ILLEGAL with no effect; a register count with bits [63:32] set raises F_ILLEGAL with detail 4 (R81, R132). The detail 0 of a loop
that may not start is the model's reading (log entry 11). -/
def Sys2Proof.Claims.LoopsStart : Prop :=
  (∀ p ∈ immLoops, ∀ (lv : BitVec 3) (n : BitVec 10) (len : BitVec 12) (s : State) (h : lv.toNat < 6),
    (loopLegal (s.cur.str p.1) ⟨lv.toNat, h⟩ len → ∃ u, exec (p.2 lv n len) s = .next u ∧ LoopStarted s u p.1 ⟨lv.toNat, h⟩ n.toNat len) ∧
    (¬ loopLegal (s.cur.str p.1) ⟨lv.toNat, h⟩ len → exec (p.2 lv n len) s = .next (s.raise p.1 (fIllegal 0)))) ∧
  (∀ p ∈ regLoops, ∀ (lv : BitVec 3) (r : BitVec 5) (len : BitVec 12) (s : State) (h : lv.toNat < 6),
    ((s.getS r).toNat < 2 ^ 32 → loopLegal (s.cur.str p.1) ⟨lv.toNat, h⟩ len →
      ∃ u, exec (p.2 lv r len) s = .next u ∧ LoopStarted s u p.1 ⟨lv.toNat, h⟩ (s.getS r).toNat len) ∧
    ((s.getS r).toNat < 2 ^ 32 → ¬ loopLegal (s.cur.str p.1) ⟨lv.toNat, h⟩ len →
      exec (p.2 lv r len) s = .next (s.raise p.1 (fIllegal 0))) ∧
    (2 ^ 32 ≤ (s.getS r).toNat → exec (p.2 lv r len) s = .next (s.raise p.1 (fIllegal 4))))

/-- A stream that completes a word in sequence: with no loop ending there it goes to the next word; when the innermost loop that
ends there has iterations left it goes to that loop's first word with the counter one more, and the outer loops are not touched;
when every loop that ends there is in its last iteration it goes to the next word with all of them inactive, their counters 0 and
the other loops as before (R132). -/
def Sys2Proof.Claims.LoopsIterateAndEnd : Prop :=
  ∀ x : StreamState,
    ((∀ i, ¬ EndsAt x i) → (seqNext 6 x).pc = x.pc + 4 ∧ (seqNext 6 x).loops = x.loops) ∧
    (∀ i : Fin 6, EndsAt x i → (∀ j, j ≠ i → EndsAt x j → x.loops[j].first < x.loops[i].first) →
      x.loops[i].lc.toNat + 1 < x.loops[i].count →
      (seqNext 6 x).pc = x.loops[i].first
        ∧ (seqNext 6 x).loops = x.loops.set i { x.loops[i] with lc := x.loops[i].lc + 1 }) ∧
    ((∀ i, EndsAt x i → x.loops[i].count ≤ x.loops[i].lc.toNat + 1) →
      (seqNext 6 x).pc = x.pc + 4 ∧ ∀ i : Fin 6,
        (EndsAt x i → (seqNext 6 x).loops[i] = LoopLevel.off) ∧ (¬ EndsAt x i → (seqNext 6 x).loops[i] = x.loops[i]))

/-- A taken branch within the body of every active loop changes only the program counter; one that leaves the body of an active
loop deactivates it, and its counter reads 0 (R132). -/
def Sys2Proof.Claims.JumpsLeaveLoops : Prop :=
  ∀ (x : StreamState) (target : Pc) (i : Fin 6), x.loops[i].frozen = false →
    (x.jumpTo target).pc = target ∧
    (x.loops[i].first ≤ target → target ≤ x.loops[i].last → (x.jumpTo target).loops[i] = x.loops[i]) ∧
    (x.loops[i].active = true → (target < x.loops[i].first ∨ x.loops[i].last < target) →
      (x.jumpTo target).loops[i] = LoopLevel.off ∧ (x.jumpTo target).lc i = 0)

/-- ALU operations and immediate forms write the values of their tables and complete in every state. -/
def Obligations.ScalarArithmetic : Prop :=
  Sys2Proof.Claims.AluOperationsGiveTheirValues ∧ Sys2Proof.Claims.ImmediateFormsGiveTheirValues

/-- Branches, JAL and JALR go to their targets, link, and fault on bad targets. -/
def Obligations.BranchesAndJumps : Prop :=
  Sys2Proof.Claims.BranchesGoWhereTheySay ∧ Sys2Proof.Claims.JumpsLinkAndGo ∧ Sys2Proof.Claims.BadTargetsFault

/-- The loops of the four streams start, iterate, end, and are left by jumps out of them. -/
def Obligations.HardwareLoops : Prop :=
  Sys2Proof.Claims.LoopsStart ∧ Sys2Proof.Claims.LoopsIterateAndEnd ∧ Sys2Proof.Claims.JumpsLeaveLoops
end

/-! ### Loads, stores, atomics and fences -/

namespace Sys2Proof.Claims
open Sys2Proof.Machine

/-- The cores differ at most in the lines of their L1s. -/
def SameButL1 (s u : State) : Prop := ∀ g, { u.core g with l1 := (s.core g).l1 } = s.core g

/-- Every field of the state but the acting slot and the cores is as before. -/
def SameElsewhere (s u : State) : Prop := u = { s with cur := u.cur, cores := u.cores }

/-- A read changes nothing outside the acting slot and the cores but the words that it corrects, their count, and the count of free
values (R287). -/
def OnlyRead (s u : State) : Prop :=
  u = { s with cur := u.cur, cores := u.cores, soft := u.soft, errors := u.errors, freeCtr := u.freeCtr }

/-- The bytes that a scalar read of n bytes of a checked access sees: those of the L1 line that serves it when it is a plain read,
else those at the home (R105, R257). -/
def seenBytes (s : State) (acc : Access) (va : Word) (n : Nat) (plain : Bool) : List Byte :=
  match if plain then s.l1Serves acc va else none with
  | some ln => ln.read va.toNat n
  | none => s.readHome acc.key n

/-- A scalar read may be performed: no circuit, no MMA that streams from its banks, no STRONG store and no store of its own to those
bytes holds it, its request has crossed to the home, and no uncorrectable error covers its bytes (R104, R107, R184, R257, R342, R345). -/
def Readable (s : State) (acc : Access) (n : Nat) : Prop := s.mayLoad acc n = true ∧ eccIn s.bad acc.key n = none

/-- A load has written its value: the register, the stream's next word, no byte of memory, and nothing outside the slot and the
L1s but corrected words. -/
def Loaded (s u : State) (d : BitVec 5) (v : Word) : Prop := Wrote s u d v ∧ SameButL1 s u ∧ OnlyRead s u

/-- A store has joined the buffer behind the earlier ones, to be performed at a later cycle; no register and no byte of memory
changes (R96, R104). -/
def StoreBuffered (s u : State) (va : Word) (acc : Access) (bytes : List Byte) (rel : Bool) : Prop :=
  (∃ p : PendStore, u.cur.stores = s.cur.stores ++ [p] ∧ p.va = va ∧ p.bytes = cellsAt acc.key bytes ∧ p.kind = acc.kind ∧ p.rel = rel
    ∧ p.count = (if acc.put then bytes.length else 0) ∧ s.cycle < p.due)
  ∧ u.cur.s = s.cur.s ∧ SameFiles s.cur u.cur ∧ SameCsrs s.cur u.cur ∧ SameEngines s.cur u.cur ∧ SameMem s u
  ∧ u.cur.scalar = seqNext 6 s.cur.scalar ∧ u.tokens = s.tokens

/-- The atomic operations of AMO. -/
def amoOps : List (AtomOp × (BitVec 5 → BitVec 5 → BitVec 5 → Scope → AmoSize → Bool → Instr)) := [
  (.add, .amoAdd), (.and, .amoAnd), (.or, .amoOr), (.xor, .amoXor), (.min, .amoMin), (.max, .amoMax), (.minu, .amoMinu),
  (.maxu, .amoMaxu), (.swap, .amoSwap), (.cas, .amoCas)]

/-- What an atomic operation of n bytes leaves in memory for the old value, the operand and the compare value (R109). -/
def atomLeaves (op : AtomOp) (n old b c : Nat) : Nat :=
  match op with
  | .add => (old + b) % 256 ^ n
  | .and => old &&& b
  | .or => old ||| b
  | .xor => old ^^^ b
  | .min => if signedOf (8 * n) old ≤ signedOf (8 * n) b then old else b
  | .max => if signedOf (8 * n) old ≤ signedOf (8 * n) b then b else old
  | .minu => min old b
  | .maxu => max old b
  | .swap => b
  | .cas => if old = c then b else old

/-- The region of an address is not LOST (R269). -/
def NotLost (s : State) (va : Nat) : Prop := ∀ e, findRegion s.tokens s.cur.bind.job va = some e → e.st ≠ .lost

/-- n bytes from a key up hold a number and every other byte is as before. -/
def MemHolds (s u : State) (key n v : Nat) : Prop :=
  memNat u.mem key n = v ∧ ∀ a, (a < key ∨ key + n ≤ a) → u.byteAt a = s.byteAt a

/-- The SCOP forms: operation, access kind, and the registers named by d, a and b (R110). -/
def scopForms (d a b : BitVec 5) (j : BitVec 3) : List (Instr × ScopOp × AccKind) := [
  (.ldSc d a j, .ld, .load), (.stSc a b j, .st, .store), (.amoaddSc d a b j, .add, .rmw), (.swapSc d a b j, .swap, .rmw),
  (.casSc d a b j, .cas, .rmw)]

/-- The state in which the slot of the event in hand acts, and the slot that acted before acts again. -/
def seen (s : State) : State := s.focus s.ev.slot
def back (s u : State) : State := u.focus s.cur.key

/-- A sent SCOP has a way to its home: it needs no circuit, or its circuit is live (R342). -/
def ScopWay (t : State) (x : Scop) : Prop :=
  ∀ ch, x.ch = some ch → ∃ r, t.pathOn (dieOf t.cur.key.core) (homeDie (x.bytes.headD 0)) ch = .open_ r

/-- The fences of one scope, and whether each has nothing left to wait for (R107, R113, R114). -/
def fences (s : State) (sc : Scope) : List (Instr × Prop) := [
  (.fenceFull sc, s.cur.released sc true = true),
  (.fenceAcq sc, True),
  (.fenceRel sc, s.cur.released sc false = true),
  (.fenceEngines sc, s.cur.released sc true = true ∧ s.cur.vfly = [] ∧ s.cur.mfly = [] ∧ s.cur.copies = [])]

/-- What the engines have in flight is as before, but that MMAs which had stopped may go on. -/
def SameEnginesButMmas (t u : Slot) : Prop :=
  SameEngines t { u with mfly := t.mfly } ∧ ((∀ l ∈ t.mfly, l.run ≠ .stopped) → u.mfly = t.mfly)

end Sys2Proof.Claims

section
open Sys2Proof Sys2Proof.Machine Sys2Proof.Claims

/-- LD and LDU whose checks pass and whose bytes are readable write the sign- or zero-extended value to d and complete; the form
.by reads at the home; a read that may not be performed yet waits with no effect. With d = s0 the access is made and the value discarded (R13, R105, R106). -/
def Sys2Proof.Claims.LoadsWriteWhatMemoryHolds : Prop :=
  ∀ (d a : BitVec 5) (sz : MemSize) (byHome : Bool) (imm : BitVec 12) (s : State) (acc : Access),
    let n := memBytes sz
    let va := s.getS a + imm.signExtend 64 * BitVec.ofNat 64 n
    (s.check1 va n .load = .ok acc → Readable s acc n →
      (∃ u, exec (.ld d a sz byHome imm) s = .next u
        ∧ Loaded s u d (extendBytes true n (ofBytes (seenBytes s acc va n (!byHome))))) ∧
      (∃ u, exec (.ldu d a sz byHome imm) s = .next u
        ∧ Loaded s u d (extendBytes false n (ofBytes (seenBytes s acc va n (!byHome)))))) ∧
    (s.check1 va n .load = .ok acc → s.mayLoad acc n = false →
      exec (.ld d a sz byHome imm) s = .next (s.holdOn acc) ∧ exec (.ldu d a sz byHome imm) s = .next (s.holdOn acc))

/-- LDA whose check passes reads its value at the home, sign-extends it into d and completes; an acquire at .core or wider on a
page that is not UNORDERED leaves no line in the core's L1 (R107, R108, R262). -/
def Sys2Proof.Claims.LoadAcquireReadsAtHome : Prop :=
  ∀ (d a : BitVec 5) (sc : Scope) (sz : MemSize) (s : State) (acc : Access), let n := memBytes sz
    s.check1 (s.getS a) n .load = .ok acc → Readable s acc n →
      ∃ u, exec (.lda d a sc sz) s = .next u ∧ Loaded s u d (extendBytes true n (ofBytes (s.readHome acc.key n)))
        ∧ (acc.kind ≠ .unordered → sc ≠ .stream → sc ≠ .thread → (u.core s.cur.key.core).l1 = [])

/-- A failed check is the fault of the access: loads and stores take it at the instruction with no effect (R78, R101, R106). That the
address of a load or store wraps modulo 2^64 is the model's reading (log entry 17). -/
def Sys2Proof.Claims.FailedChecksFault : Prop :=
  ∀ (d a : BitVec 5) (sc : Scope) (sz : MemSize) (byHome : Bool) (imm : BitVec 12) (s : State) (f : SFault),
    let n := memBytes sz
    let va := s.getS a + imm.signExtend 64 * BitVec.ofNat 64 n
    (s.check1 va n .load = .error f →
      exec (.ld d a sz byHome imm) s = .next (s.raise .scalar f) ∧ exec (.ldu d a sz byHome imm) s = .next (s.raise .scalar f)) ∧
    (s.check1 va n .store = .error f → exec (.st d a sz imm) s = .next (s.raise .scalar f)) ∧
    (s.check1 (s.getS a) n .load = .error f → exec (.lda d a sc sz) s = .next (s.raise .scalar f)) ∧
    (s.check1 (s.getS a) n .store = .error f → exec (.stl d a sc sz) s = .next (s.raise .scalar f))

/-- The order of the checks of a scalar access: alignment before the address map, the map before everything else (R32, R78,
R101). -/
def Sys2Proof.Claims.AlignmentComesFirst : Prop :=
  ∀ (s : State) (va : Word) (size align : Nat) (kind : AccKind) (sc : Bool),
    (va.toNat % align ≠ 0 → s.check va size align kind sc = .error { cause := 0x02, detail := 0, addr := va }) ∧
    (va.toNat % align = 0 → (2 ^ 52 ≤ va.toNat ∨ (0x000F000400000000 ≤ va.toNat ∧ va.toNat < 2 ^ 52)) →
      s.check va size align kind sc = .error { cause := 0x03, detail := 0, addr := va })

/-- ST, STL and HST whose checks pass, and which no circuit holds, complete: the bytes join the store buffer and memory is as
before; an STL towards other modules has first waited for the thread's remote copies (R96, R104, R106, R108, R131). -/
def Sys2Proof.Claims.StoresJoinTheBuffer : Prop :=
  (∀ (d a : BitVec 5) (sz : MemSize) (imm : BitVec 12) (s : State) (acc : Access),
    let n := memBytes sz
    let va := s.getS a + imm.signExtend 64 * BitVec.ofNat 64 n
    s.check1 va n .store = .ok acc → acc.held = none →
      ∃ u, exec (.st d a sz imm) s = .next u ∧ StoreBuffered s u va acc (bytesOf n (s.getS d).toNat) false) ∧
  (∀ (d a : BitVec 5) (sc : Scope) (sz : MemSize) (s : State) (acc : Access), let n := memBytes sz
    s.check1 (s.getS a) n .store = .ok acc → acc.held = none → (∀ o ∈ s.cur.copies, o.remote = false) →
      ∃ u, exec (.stl d a sc sz) s = .next u ∧ StoreBuffered s u (s.getS a) acc (bytesOf n (s.getS d).toNat)
        (decide (sc ≠ .stream ∧ acc.kind ≠ .unordered))) ∧
  (∀ (hd : BitVec 4) (a : BitVec 5) (s : State) (acc : Access), s.check1 (s.getS a) 32 .store = .ok acc → acc.held = none →
      ∃ u, exec (.hst hd a) s = .next u ∧ StoreBuffered s u (s.getS a) acc (s.cur.getH hd).bytes false)

/-- STORE_PERFORMED performs a pending store that may go: its bytes stand in memory at its keys, every other byte is as before, and it
leaves the buffer (R104, R253). The cycle in which a store is performed is open (log entry 18). -/
def Sys2Proof.Claims.PendingStoresArePerformed : Prop :=
  ∀ (s : State) (p : PendStore), let t := seen s
    t.cur.stores[s.ev.num]? = some p → p.mayGo (t.cur.stores.take s.ev.num) = true → t.storeLive p = true →
    (∀ e, findRegion t.tokens t.cur.bind.job p.va.toNat = some e → e.st ≠ .lost) → s.bad = [] → (p.bytes.map Prod.fst).Nodup →
      ∃ u, exec .storePerformed s = .next (back s u) ∧ u.cur.stores = t.cur.stores.eraseIdx s.ev.num
        ∧ (∀ c ∈ p.bytes, u.byteAt c.1 = c.2) ∧ (∀ a, (∀ c ∈ p.bytes, c.1 ≠ a) → u.byteAt a = s.byteAt a)

/-- A load that follows a store of the same thread to the same bytes waits until the store has been performed and then returns the
stored value, whether it reads the L1 or the home (R107, R257). -/
def Sys2Proof.Claims.StoreThenLoadReturnsTheValue : Prop :=
  ∀ (d r a : BitVec 5) (sz : MemSize) (byHome : Bool) (imm : BitVec 12) (s u w : State) (acc acc' : Access) (ev : EvArgs),
    let n := memBytes sz
    let va := s.getS a + imm.signExtend 64 * BitVec.ofNat 64 n
    s.check1 va n .store = .ok acc → acc.held = none → exec (.st d a sz imm) s = .next u →
    (u.check1 va n .load = .ok acc' → acc'.key = acc.key → exec (.ld r a sz byHome imm) u = .next (u.holdOn acc')) ∧
    (s.cur.stores = [] → s.bad = [] → NotLost s va.toNat → ev.slot = s.cur.key → ev.num = 0 →
      exec .storePerformed { u with ev := ev } = .next w → w.check1 va n .load = .ok acc' → acc'.key = acc.key → Readable w acc' n →
        ∃ v, exec (.ld r a sz byHome imm) w = .next v
          ∧ v.getS r = (if r = 0 then 0 else extendBytes true n ((s.getS d).toNat % 256 ^ n)))

/-- AMO whose check passes and that may be performed, under .acqrel with nothing left to order, completes in one update:
the bytes at the home hold the new value, every other byte is as before, and d receives the old value sign-extended (R96, R103,
R109). -/
def Obligations.AtomicsUpdateInPlace : Prop :=
  ∀ p ∈ amoOps, ∀ (d a b : BitVec 5) (sc : Scope) (sz : AmoSize) (ar : Bool) (s : State) (acc : Access),
    let n := amoBytes sz
    let old := memNat s.mem acc.key n
    s.check1 (s.getS a) n .rmw = .ok acc → Readable s acc n →
    NotLost s (s.getS a).toNat → (ar = true → s.cur.released sc false = true) →
      ∃ u, exec (p.2 d a b sc sz ar) s = .next u
        ∧ MemHolds s u acc.key n (atomLeaves p.1 n old ((s.getS b).toNat % 256 ^ n) ((s.getS d).toNat % 256 ^ n))
        ∧ u.getS d = (if d = 0 then 0 else extendBytes true n old) ∧ (∀ i, i ≠ d → u.getS i = s.getS i)
        ∧ u.cur.scalar = seqNext 6 s.cur.scalar ∧ SameFiles s.cur u.cur ∧ SameCsrs s.cur u.cur ∧ SameEngines s.cur u.cur

/-- A SCOP whose check passes and whose fence has nothing to wait for is on its way to its wheel position g + 512 j, with its
operands as they were at issue; the stream stays at it, and no register and no byte of memory changes (R110). That the cycle in which
its fence is done is the cycle of its issue is the model's choice (log entry 96). -/
def Sys2Proof.Claims.ScopsAreSentToTheirPosition : Prop :=
  ∀ (d a b : BitVec 5) (j : BitVec 3) (s : State) (acc : Access), ∀ f ∈ scopForms d a b j,
    s.cur.scop = none → s.check (s.getS a) 8 8 f.2.2 true = .ok acc → s.cur.released .pkg true = true →
      ∃ u x, exec f.1 s = .next u ∧ u.cur.scop = some x ∧ x.op = f.2.1 ∧ x.va = s.getS a ∧ x.issued = s.cycle
        ∧ x.pos = s.cur.key.core.toNat + 512 * j.toNat ∧ x.phase = .waiting x.pos ∧ x.bytes = (List.range 8).map (fun i => acc.key + i)
        ∧ (f.2.1 ≠ .ld → x.arg = s.getS b) ∧ (f.2.1 ≠ .st → x.d = d) ∧ (f.2.1 = .cas → x.cmp = s.getS d)
        ∧ u.cur.s = s.cur.s ∧ u.cur.scalar = s.cur.scalar ∧ SameFiles s.cur u.cur ∧ SameCsrs s.cur u.cur ∧ SameMem s u

/-- A SCOP has been applied: the word at its home takes the new value, d the old one, and the stream goes on. -/
def Sys2Proof.Claims.ScopApplied (t u : State) (x : Scop) : Prop :=
  let old := BitVec.ofNat 64 (memNat t.mem (x.bytes.headD 0) 8)
  u.cur.scop = none ∧ u.cur.scalar = seqNext 6 t.cur.scalar ∧ u.getS x.d = (if x.d = 0 then 0 else if x.op = .st then t.getS x.d else old)
    ∧ MemHolds t u (x.bytes.headD 0) 8 ((scopNew x old).getD old).toNat

/-- The life of a SCOP: it is sent in the first cycle of its position after its issue, if no other thread of the core goes first; arrives
at its home, over the circuit that carries it if it needs one; at its send cycle plus 8,192 it is applied there, also when it arrives in
that very cycle, and the stream goes on; while its circuit is being re-routed its reply waits, and the stream with it (R110, R111, R264,
R349). When a SCOP arrives is open within the bounds of R264 (log entry 21). -/
def Sys2Proof.Claims.ScopsAreAppliedOnTime : Prop :=
  ∀ (s : State) (x : Scop), let t := seen s
    t.cur.scop = some x →
    (x.phase = .waiting x.pos → x.issued < s.cycle → s.cycle % 4096 = x.pos → (∀ o ∈ t.others, scopAhead s.cycle o x s.ev.slot = false) →
      exec .scopSend s = .next (back s (t.upd fun c => { c with scop := some { x with phase := .sent s.cycle } }))) ∧
    (∀ c, x.phase = .sent c → ScopWay t x → s.cycle < c + 8192 →
      exec .scopArrival s = .next (back s (t.upd fun q => { q with scop := some { x with phase := .arrived c s.cycle }, heldOn := none }))) ∧
    (∀ c, x.phase = .sent c → ScopWay t x → s.cycle = c + 8192 → s.bad = [] → NotLost t x.va.toNat →
      ∃ u, exec .scopArrival s = .next (back s u) ∧ ScopApplied t u x) ∧
    (∀ c k, x.phase = .arrived c k → s.cycle = c + 8192 → (∀ y ∈ t.cur.orphans, y.dueAt s.cycle = false) → s.bad = [] →
      NotLost t x.va.toNat →
      (ScopWay t x → ∃ u, exec .scopApply s = .next (back s u) ∧ ScopApplied t u x) ∧
      (¬ ScopWay t x → ∃ u, let old := BitVec.ofNat 64 (memNat t.mem (x.bytes.headD 0) 8)
        exec .scopApply s = .next (back s u) ∧ u.cur.scop = some { x with phase := .applied old none }
          ∧ MemHolds t u (x.bytes.headD 0) 8 ((scopNew x old).getD old).toNat ∧ u.cur.s = t.cur.s ∧ u.cur.scalar = t.cur.scalar)) ∧
    (∀ old, x.phase = .applied old none → (∀ y ∈ t.cur.orphans, y.dueAt s.cycle = false) → ScopWay t x →
      ∃ u, exec .scopApply s = .next (back s u) ∧ u.cur.scop = none ∧ u.cur.scalar = seqNext 6 t.cur.scalar ∧ SameMem s u
        ∧ u.getS x.d = (if x.d = 0 then 0 else if x.op = .st then t.getS x.d else old))

/-- A SCOP that reaches its home after cycle c + 8,192 is not applied: F_HORIZON is raised at it with nothing written, and its own word is
what FINSN will hold (R77, R112). -/
def Sys2Proof.Claims.LateScopsRaiseHorizon : Prop :=
  ∀ (s : State) (x : Scop) (c : Nat), let t := seen s
    t.cur.scop = some x → x.phase = .sent c → ScopWay t x → c + 8192 < s.cycle →
      ∃ u, exec .scopArrival s = .next (back s u)
        ∧ u = (t.upd fun q => { q with scop := none, heldOn := none }).raiseAt .scalar
          { flt := flt 0x14 (min (s.cycle - (c + 8192)) 0xFFFF) x.va, fpc := pcWord t.cur.scalar.pc, finsn := x.finsn }
        ∧ u.cur.s = t.cur.s ∧ SameMem s u

/-- A fence with nothing left to wait for goes on; and whatever a fence does, it has no effect on registers, counters or tokens
(R107, R113–R115). That MMAs which a trap has stopped go on while FENCE.ENGINES waits for them is the model's choice (log entry 102). -/
def Obligations.FencesTouchNoRegister : Prop :=
  ∀ (s : State) (sc : Scope), ∀ f ∈ fences s sc,
    (f.2 → ∃ u, exec f.1 s = .next u ∧ u.cur.scalar = seqNext 6 s.cur.scalar) ∧
    (∃ u, exec f.1 s = .next u ∧ u.cur.s = s.cur.s ∧ SameFiles s.cur u.cur ∧ SameCsrs s.cur u.cur ∧ SameEnginesButMmas s.cur u.cur
      ∧ (f.1 ≠ .fenceEngines sc → SameEngines s.cur u.cur) ∧ u.tokens = s.tokens ∧ SameMem s u)

/-- ICSYNC acts as an acquire at .pkg: the stream goes on, and the L1 that serves the core holds no line (R129, R262). -/
def Sys2Proof.Claims.IcsyncEmptiesTheL1 : Prop :=
  ∀ s : State, ∃ u, exec .icsync s = .next u ∧ u.cur = (s.advance .scalar).cur ∧ (u.core s.cur.key.core).l1 = [] ∧ SameButL1 s u
    ∧ SameElsewhere s u

/-- LD, LDU and LDA write what memory holds, ICSYNC empties the L1, failed checks fault in order. -/
def Obligations.LoadsAndTheirChecks : Prop :=
  Sys2Proof.Claims.LoadsWriteWhatMemoryHolds ∧ Sys2Proof.Claims.LoadAcquireReadsAtHome ∧ Sys2Proof.Claims.IcsyncEmptiesTheL1 ∧ Sys2Proof.Claims.FailedChecksFault ∧ Sys2Proof.Claims.AlignmentComesFirst

/-- Stores join the buffer, are performed at their bytes alone, and are seen by later loads. -/
def Obligations.StoresReachMemory : Prop :=
  Sys2Proof.Claims.StoresJoinTheBuffer ∧ Sys2Proof.Claims.PendingStoresArePerformed ∧ Sys2Proof.Claims.StoreThenLoadReturnsTheValue

/-- A SCOP is sent at its wheel position, applied 8,192 cycles later, and raises F_HORIZON when late. -/
def Obligations.ScheduledOperations : Prop :=
  Sys2Proof.Claims.ScopsAreSentToTheirPosition ∧ Sys2Proof.Claims.ScopsAreAppliedOnTime ∧ Sys2Proof.Claims.LateScopsRaiseHorizon
end

/-! ### Owner tokens, counters, barriers, waits, handles -/

namespace Sys2Proof.Claims
open Sys2Proof.Machine

/-- The region word in s(a) passes the checks of R119 and names an entry of the caller's job. -/
def Region (s : State) (a : BitVec 5) (base log2 : Nat) (e : Entry) : Prop :=
  regionOf (s.getS a) = .ok (base, log2) ∧ s.entryFor base log2 = .ok e

/-- The identifier of the calling thread. -/
def me (s : State) : AgentId := s.cur.key.agent

/-- The caller owns a region in EXCL or LENT. -/
def Holds (s : State) (e : Entry) : Prop := e.owner = me s ∧ (e.st = .excl ∨ e.st = .lent)

/-- The caller's work in a region is over, and its fence towards an agent has nothing to wait for (R116, R123). -/
def Quiet (s : State) (base log2 : Nat) (t : AgentId) : Prop := s.cur.busyIn base (2 ^ log2) = false ∧ s.fencedFor t = true

/-- An OWN instruction has left an entry in the table and its QRY word in d (R120). -/
def OwnLeft (s u : State) (d : BitVec 5) (e : Entry) : Prop :=
  Wrote s u d (e.qry (me s)) ∧ u.tokens = putEntry s.tokens e

/-- The stream counter forms of the four streams: what they name and count, and whether the stream holds issue. -/
noncomputable def postForms (s : State) (k : BitVec 4) (a : BitVec 5) (n : BitVec 16) : List (Stream × Instr × Instr × Nat) := [
  (.scalar, .post a k, .wait a k, if a = 0 then 1 else (s.getS a).toNat % 65536),
  (.vector, .vpost k n, .vwait k n, n.toNat), (.matrix, .mpost k n, .mwaitMctl k n, n.toNat), (.copy, .cpost k n, .cwait k n, n.toNat)]

/-- A stream does not hold issue for an earlier instruction's data or run count (R220). -/
def Free (s : State) (e : Stream) : Prop := (s.cur.str e).holdUntil = none

/-- The state with a stream counter set and a stream gone on. -/
def counted (s : State) (e : Stream) (k : BitVec 4) (n : Nat) : State :=
  (s.upd fun t => { t with k := t.k.set k.toNat (BitVec.ofNat 16 n) k.isLt }).advance e

/-- The 32-bit half i of a list of doublewords (R131). -/
def halfWord (ws : List Word) (i : Nat) : Word32 := BitVec.ofNat 32 ((ws[i / 2]?.getD 0).toNat / 2 ^ (32 * (i % 2)))

end Sys2Proof.Claims

section
open Sys2Proof Sys2Proof.Machine Sys2Proof.Claims

/-- A region word is checked in order: its size and zero bits, the base's alignment to the size, then the address map; FADDR holds the
base (R119). A base in a hole of a window passes here and is found to be no region, which is the model's reading (log entry 24). -/
def Sys2Proof.Claims.RegionWordsAreChecked : Prop :=
  ∀ w : Word, let n := w.toNat % 64
    let base := w.toNat / 65536 * 65536
    let bad := n < 16 ∨ 40 < n ∨ w.toNat / 64 % 1024 ≠ 0
    (bad → regionOf w = .error { cause := 0x01, detail := 4, addr := BitVec.ofNat 64 base }) ∧
    (¬ bad → base % 2 ^ n ≠ 0 → regionOf w = .error { cause := 0x02, detail := 0, addr := BitVec.ofNat 64 base }) ∧
    (¬ bad → base % 2 ^ n = 0 → 0x000F000400000000 ≤ base →
      regionOf w = .error { cause := 0x03, detail := 0, addr := BitVec.ofNat 64 base }) ∧
    (¬ bad → base % 2 ^ n = 0 → base < 0x000F000400000000 → regionOf w = .ok (base, n))

/-- LEND by the owner of a region in EXCL or LENT to another agent that may receive it moves the owner, keeps the lender as the
home agent, and leaves the region LENT, or EXCL when it has come home; LEND to oneself changes nothing (R120, R122, R123). That a buffer
of a collective whose record has not been popped is refused with F_UNOWNED is the model's reading of R332 (log entry 119). -/
def Sys2Proof.Claims.LendMovesTheOwner : Prop :=
  ∀ (d a b : BitVec 5) (s : State) (base log2 : Nat) (e : Entry), let t : AgentId := (s.getS b).setWidth 32
    Region s a base log2 e → Holds s e → badAgent t = false →
      (t = me s → ∃ u, exec (.ownLend d a b) s = .next u ∧ Wrote s u d (e.qry (me s)) ∧ u.tokens = s.tokens) ∧
      (t ≠ me s → s.receiverCheck e t true = .ok () → s.unpopped base (2 ^ log2) = true →
        exec (.ownLend d a b) s = .next (s.raise .scalar (flt 0x05 0 (BitVec.ofNat 64 e.base)))) ∧
      (t ≠ me s → s.receiverCheck e t true = .ok () → s.unpopped base (2 ^ log2) = false → Quiet s base log2 t →
        let home := if e.st = .excl then me s else e.homeAgent
        ∃ u, exec (.ownLend d a b) s = .next u
          ∧ OwnLeft s u d { e with owner := t, homeAgent := home, st := if t = home then .excl else .lent })

/-- RET gives a LENT region back to its home agent and leaves an EXCL one as it is (R122). -/
def Sys2Proof.Claims.ReturnGoesHome : Prop :=
  ∀ (d a : BitVec 5) (s : State) (base log2 : Nat) (e : Entry), Region s a base log2 e → Holds s e → Quiet s base log2 e.homeAgent →
    ∃ u, exec (.ownRet d a) s = .next u ∧ OwnLeft s u d (if e.st = .lent then { e with owner := e.homeAgent, st := .excl } else e)

/-- A region lent from EXCL and returned is as it was before. -/
def Sys2Proof.Claims.LendThenReturnRestores : Prop :=
  ∀ (e : Entry) (t : AgentId), e.st = .excl → e.homeAgent = e.owner → (e.lendTo t).ret = e

/-- SHARE adds one share of an agent and leaves the region SHARED; DROP removes one share of the caller, and with no share left the
region is EXCL or LENT again (R122). -/
def Sys2Proof.Claims.SharesAreCounted : Prop :=
  (∀ (d a b : BitVec 5) (s : State) (base log2 : Nat) (e : Entry), let t : AgentId := (s.getS b).setWidth 32
    Region s a base log2 e → e.owner = me s → (e.st = .excl ∨ e.st = .lent ∨ e.st = .shared) → badAgent t = false →
    e.shareCount < 255 → (e.sharesOf t ≠ 0 ∨ s.storeFill e.die < 65536) → s.receiverCheck e t false = .ok () → Quiet s base log2 t →
      ∃ u e', exec (.ownShare d a b) s = .next u ∧ OwnLeft s u d e' ∧ e' = { e with st := .shared, shares := e'.shares }
        ∧ e'.shareCount = e.shareCount + 1 ∧ e'.sharesOf t = e.sharesOf t + 1) ∧
  (∀ (d a : BitVec 5) (s : State) (base log2 : Nat) (e : Entry),
    Region s a base log2 e → e.st ≠ .lost → e.sharesOf (me s) ≠ 0 → Quiet s base log2 e.owner →
      ∃ u e', exec (.ownDrop d a) s = .next u ∧ OwnLeft s u d e' ∧ e'.shareCount + 1 = e.shareCount
        ∧ e' = { e with shares := e'.shares, st := if e'.shares = [] then (if e.owner = e.homeAgent then .excl else .lent) else e.st })

/-- SPLIT replaces an entry by two of half the size with its owner, home and state; JOIN replaces two such halves by their parent, and of
a region that already has one entry it changes nothing (R119, R122, R270). That the new entries forget the pair use and count no
publishes is the model's reading (log entry 27), and so is that the buffers of a collective whose record has not been popped are left
out here (log entry 119). -/
def Sys2Proof.Claims.SplitAndJoin : Prop :=
  (∀ (d a : BitVec 5) (s : State) (base log2 : Nat) (e : Entry),
    Region s a base log2 e → Holds s e → 17 ≤ log2 → e.pair = false → s.tableFill e.die < 262144 → s.unpopped base (2 ^ log2) = false → s.cur.busyIn base (2 ^ log2) = false →
      ∃ u lo hi, exec (.ownSplit d a) s = .next u ∧ Wrote s u d (lo.qry (me s)) ∧ u.tokens = dropEntry s.tokens e.job base log2 ++ [lo, hi]
        ∧ lo = { e with log2 := e.log2 - 1, pubs := 0, paired := false, forwards := lo.forwards }
        ∧ hi = { e with base := e.base + 2 ^ (e.log2 - 1), log2 := e.log2 - 1, pubs := 0, paired := false, forwards := hi.forwards }) ∧
  (∀ (d a : BitVec 5) (s : State) (base log2 : Nat) (lo hi : Entry),
    regionOf (s.getS a) = .ok (base, log2) → findEntry s.tokens s.cur.bind.job base log2 = none →
    s.entryFor base (log2 - 1) = .ok lo → s.entryFor (base + 2 ^ (log2 - 1)) (log2 - 1) = .ok hi →
    Holds s lo → Holds s hi → lo.die = hi.die → lo.st = hi.st → lo.homeAgent = hi.homeAgent → lo.pair = false → hi.pair = false →
    s.unpopped base (2 ^ log2) = false → s.cur.busyIn base (2 ^ log2) = false →
      ∃ u e, exec (.ownJoin d a) s = .next u ∧ Wrote s u d (e.qry (me s))
        ∧ u.tokens = dropEntry (dropEntry s.tokens lo.job lo.base lo.log2) hi.job hi.base hi.log2 ++ [e]
        ∧ e = { lo with log2 := log2, pubs := 0, paired := false, forwards := e.forwards }) ∧
  (∀ (d a : BitVec 5) (s : State) (base log2 : Nat) (e : Entry), Region s a base log2 e →
    ∃ u, exec (.ownJoin d a) s = .next u ∧ Wrote s u d (e.qry (me s)) ∧ u.tokens = s.tokens)

/-- QRY reports the entry, and state 7 where there is none; WAIT completes when the caller owns the region or holds a share, and
blocks without effect until then; CLAIM by a supervisor makes a LOST region the caller's and leaves any other as it is (R11, R120,
R122). The fields of a state-7 word besides its state and size are the model's choice (log entry 100). -/
def Sys2Proof.Claims.QueryWaitAndClaim : Prop :=
  (∀ (d a : BitVec 5) (s : State) (base log2 : Nat) (e : Entry), Region s a base log2 e →
    ∃ u, exec (.ownQry d a) s = .next u ∧ Wrote s u d (e.qry (me s)) ∧ u.tokens = s.tokens) ∧
  (∀ (d a : BitVec 5) (s : State) (base log2 : Nat), regionOf (s.getS a) = .ok (base, log2) →
    findEntry s.tokens s.cur.bind.job base log2 = none → s.deadDies = [] →
      ∃ u, exec (.ownQry d a) s = .next u ∧ Wrote s u d (BitVec.ofNat 64 (7 + log2 * 65536)) ∧ u.tokens = s.tokens) ∧
  (∀ (d a : BitVec 5) (s : State) (base log2 : Nat) (e : Entry), Region s a base log2 e → e.st ≠ .lost →
    ((e.owner = me s ∨ e.sharesOf (me s) ≠ 0) →
      ∃ u, exec (.ownWait d a) s = .next u ∧ Wrote s u d (e.qry (me s)) ∧ u.tokens = s.tokens) ∧
    (e.owner ≠ me s → e.sharesOf (me s) = 0 → exec (.ownWait d a) s = .next s)) ∧
  (∀ (d a : BitVec 5) (s : State) (base log2 : Nat) (e : Entry), Region s a base log2 e → s.cur.bind.supervisor = true →
    (e.st = .lost → ∃ u, exec (.ownClaim d a) s = .next u ∧
      OwnLeft s u d { e with owner := me s, homeAgent := me s, st := .excl, shares := [], writers := 0, closing := false }) ∧
    (e.st ≠ .lost → ∃ u, exec (.ownClaim d a) s = .next u ∧ Wrote s u d (e.qry (me s)) ∧ u.tokens = s.tokens))

/-- The window operations of the owner: WOPEN starts the count at 0; WCNT, WRST, WWAIT and WCLOSE give the count in d; WRST sets it to 0;
WWAIT blocks without effect below s(b); WCLOSE gives the state before WOPEN back once no put is under way, and until then admits none
(R124, R125). That the writer set is tested before the entry is the model's reading (log entry 25). -/
def Obligations.WindowsCountPuts : Prop :=
  (∀ (d a b : BitVec 5) (s : State) (base log2 : Nat) (e : Entry), Region s a base log2 e → Holds s e → badWriters (s.getS b) = false →
    s.cur.busyIn base (2 ^ log2) = false →
      ∃ u, exec (.wopen d a b) s = .next u ∧ Wrote s u d 0
        ∧ u.tokens = putEntry s.tokens { e with st := .window, writers := s.getS b, counter := 0, closing := false }) ∧
  (∀ (d a b : BitVec 5) (s : State) (base log2 : Nat) (e : Entry), Region s a base log2 e → e.owner = me s → e.st = .window →
    (∃ u, exec (.wcnt d a) s = .next u ∧ Wrote s u d e.counter ∧ u.tokens = s.tokens) ∧
    (∃ u, exec (.wrst d a) s = .next u ∧ Wrote s u d e.counter ∧ u.tokens = putEntry s.tokens { e with counter := 0 }) ∧
    ((s.getS b).toNat ≤ e.counter.toNat → ∃ u, exec (.wwait d a b) s = .next u ∧ Wrote s u d e.counter ∧ u.tokens = s.tokens) ∧
    (e.counter.toNat < (s.getS b).toNat → exec (.wwait d a b) s = .next s) ∧
    ((∀ t ∈ s.slots, t.putsIn e.job e.base (2 ^ e.log2) = false) →
      ∃ u, exec (.wclose d a) s = .next u ∧ Wrote s u d e.counter ∧ u.tokens = putEntry s.tokens
        { e with st := if e.owner = e.homeAgent then .excl else .lent, writers := 0, closing := false }) ∧
    ((∃ t ∈ s.slots, t.putsIn e.job e.base (2 ^ e.log2) = true) →
      ∃ u, exec (.wclose d a) s = .next u ∧ u.cur.s = s.cur.s ∧ u.cur.scalar = s.cur.scalar
        ∧ u.tokens = putEntry s.tokens { e with closing := true }))

/-- POST of the four streams adds its count to a counter and goes on, or raises F_COUNT where the counter would pass 65,535, which it
leaves unchanged; WAIT subtracts its count once the counter holds it, and until then has no effect (R17, R84, R117). -/
def Obligations.CountersPostAndWait : Prop :=
  ∀ (s : State) (k : BitVec 4) (a : BitVec 5) (n : BitVec 16), ∀ f ∈ postForms s k a n, Free s f.1 ∨ f.1 = .scalar ∨ f.1 = .copy →
    ((s.cur.getK k).toNat + f.2.2.2 ≤ 65535 → exec f.2.1 s = .next (counted s f.1 k ((s.cur.getK k).toNat + f.2.2.2))) ∧
    (65535 < (s.cur.getK k).toNat + f.2.2.2 → exec f.2.1 s = .next (s.raise f.1 (flt 0x12 k.toNat 0))) ∧
    (f.2.2.2 ≤ (s.cur.getK k).toNat → exec f.2.2.1 s = .next (counted s f.1 k ((s.cur.getK k).toNat - f.2.2.2))) ∧
    ((s.cur.getK k).toNat < f.2.2.2 → exec f.2.2.1 s = .next s)

/-- ARRIVE counts one arrival in the caller's instance, which completes its phase when the arrivals reach the barrier's count, and blocks
while the caller's last phase is open; BWAIT blocks while that phase is open, and completes at once with no ARRIVE before it (R126).
One mark for each barrier of the table is the model's reading (log entry 33). -/
def Sys2Proof.Claims.BarriersArriveAndWait : Prop :=
  ∀ (s : State) (n : BitVec 4) (sc : Scope) (l : Launch), s.barrierFor n sc = .ok l →
    (∀ m, s.cur.mark n.toNat = some m → markOpen l m = true →
      exec (.arrive n sc) s = .next s ∧ exec (.bwait n sc) s = .next s) ∧
    ((∀ m, s.cur.mark n.toNat = some m → markOpen l m = false) → s.cur.released sc false = true →
      let b := findBarrier l.barriers n.toNat (scopeInst sc s.cur.key.core)
      let b' : BarrierInst :=
        if (l.barrier n.toNat).count ≤ b.arrivals + 1 then { b with arrivals := 0, phase := b.phase + 1 } else { b with arrivals := b.arrivals + 1 }
      ∃ u, exec (.arrive n sc) s = .next u
        ∧ u.launches = putLaunch s.launches { l with barriers := putBarrier l.barriers b' }
        ∧ u.cur.mark n.toNat = some { barrier := n.toNat, inst := scopeInst sc s.cur.key.core, phase := b.phase }
        ∧ u.cur.scalar = seqNext 6 s.cur.scalar ∧ u.cur.s = s.cur.s ∧ SameFiles s.cur u.cur ∧ SameMem s u) ∧
    (s.cur.mark n.toNat = none → exec (.bwait n sc) s = .next (s.advance .scalar)) ∧
    (∀ m, s.cur.mark n.toNat = some m → markOpen l m = false →
      ∃ u, exec (.bwait n sc) s = .next u ∧ u.cur.mark n.toNat = none ∧ u.cur.scalar = seqNext 6 s.cur.scalar ∧ u.cur.s = s.cur.s
        ∧ SameFiles s.cur u.cur ∧ SameMem s u)

/-- MWAIT reads its doubleword at the home: it completes at once when the word differs from s(b), and else sleeps on the word's
64-byte line for at most 2^20 CCLK; SLEEP blocks for s(a)[31:0] CCLK and with 0 is a NOP; both go on once woken, and neither writes a
register (R127, R130). -/
def Sys2Proof.Claims.MwaitAndSleep : Prop :=
  (∀ (a b : BitVec 5) (s : State) (acc : Access), s.cur.waiting = .none → s.check1 (s.getS a) 8 .load = .ok acc → Readable s acc 8 →
    (ofBytes (s.readHome acc.key 8) ≠ (s.getS b).toNat →
      ∃ u, exec (.mwaitSync a b) s = .next u ∧ u.cur.scalar = seqNext 6 s.cur.scalar ∧ u.cur.waiting = .none ∧ u.cur.s = s.cur.s
        ∧ SameFiles s.cur u.cur ∧ SameMem s u) ∧
    (ofBytes (s.readHome acc.key 8) = (s.getS b).toNat →
      ∃ u, exec (.mwaitSync a b) s = .next u ∧ u.cur.scalar = s.cur.scalar ∧ u.cur.s = s.cur.s ∧ SameFiles s.cur u.cur ∧ SameMem s u
        ∧ u.cur.waiting = .monitor (acc.key / 64) (s.getS a).toNat (s.cycle + 2 ^ 20) acc.ch s.insn)) ∧
  (∀ (a : BitVec 5) (s : State), s.cur.waiting = .none → let n := (s.getS a).toNat % 2 ^ 32
    (n = 0 → exec (.sleep a) s = .next (s.advance .scalar)) ∧
    (n ≠ 0 → exec (.sleep a) s = .next (s.upd fun t => { t with waiting := .sleeping (s.cycle + n) }))) ∧
  (∀ (a b : BitVec 5) (s : State), s.cur.waiting = .woken → let u := (s.upd fun t => { t with waiting := .none }).advance .scalar
    exec (.mwaitSync a b) s = .next u ∧ exec (.sleep a) s = .next u)

/-- What ends a wait: 2^20 CCLK after its read, or an eviction or a spurious wake, for an MWAIT; the end of its count for a SLEEP; the
waiting slot is woken, and nothing else changes (R127, R130). -/
def Sys2Proof.Claims.WaitsEnd : Prop :=
  ∀ s : State, let t := seen s
    let woken := back s (t.upd fun c => { c with waiting := .woken })
    (∀ l va until_ ch w, t.cur.waiting = .monitor l va until_ ch w →
      exec .monitorEviction s = .next woken ∧ (until_ ≤ s.cycle → exec .mwaitTimeout s = .next woken)) ∧
    (∀ until_, t.cur.waiting = .sleeping until_ → until_ ≤ s.cycle → exec .sleepExpiry s = .next woken)

/-- HLD loads a whole handle and OMLD a whole offset map from an aligned address whose doublewords are readable and, if need be, have been
asked for over their circuit; HSETW, HGETW and HADDB act on one word of a handle (R15, R20, R131). That the doublewords are one request
over their circuit is the model's choice (log entry 143). -/
def Obligations.HandlesAndOffsetMaps : Prop :=
  (∀ (hd : BitVec 4) (a : BitVec 5) (s v : State) (accs : List Access) (w0 w1 w2 w3 : Word), (s.getS a).toNat % 32 = 0 →
    s.checkWords (s.getS a) .load 4 = .ok accs → s.readWaits accs = none →
    s.loadWords (s.getS a) accs = .ok ([w0, w1, w2, w3], v) →
      ∃ u, exec (.hld hd a) s = .next u ∧ u.cur.h = s.cur.h.set hd.toNat { w0 := w0, w1 := w1, w2 := w2, w3 := w3 } hd.isLt
        ∧ u.cur.s = s.cur.s ∧ u.cur.om = s.cur.om ∧ SameCsrs s.cur u.cur ∧ SameMem s u ∧ u.cur.scalar = seqNext 6 s.cur.scalar) ∧
  (∀ (om : BitVec 4) (a : BitVec 5) (s v : State) (accs : List Access) (ws : List Word), (s.getS a).toNat % 8 = 0 →
    s.checkWords (s.getS a) .load 3 = .ok accs → s.readWaits accs = none → s.loadWords (s.getS a) accs = .ok (ws, v) →
      ∃ u, exec (.omld om a) s = .next u ∧ (∀ i : Fin 6, (u.cur.getOm om)[i] = halfWord ws i.val)
        ∧ (∀ j, j ≠ om → u.cur.getOm j = s.cur.getOm j) ∧ u.cur.s = s.cur.s ∧ u.cur.h = s.cur.h ∧ SameCsrs s.cur u.cur ∧ SameMem s u
        ∧ u.cur.scalar = seqNext 6 s.cur.scalar) ∧
  (∀ (hd : BitVec 4) (d a : BitVec 5) (w : BitVec 2) (s : State),
    exec (.hsetw hd a w) s = .next ((s.upd fun t => t.setH hd ((t.getH hd).setWord w (s.getS a))).advance .scalar) ∧
    exec (.hgetw d hd w) s = .next (scalarDone s d ((s.cur.getH hd).word w)) ∧
    exec (.haddb hd a) s = .next ((s.upd fun t => t.setH hd { t.getH hd with w0 := (t.getH hd).w0 + s.getS a }).advance .scalar))

/-- Region words are checked in order; SPLIT and JOIN halve and rejoin a region. -/
def Obligations.RegionsSplitAndJoin : Prop :=
  Sys2Proof.Claims.RegionWordsAreChecked ∧ Sys2Proof.Claims.SplitAndJoin

/-- LEND, RET, SHARE, DROP, QRY, WAIT and CLAIM do to the owner table what R122 says. -/
def Obligations.OwnershipMoves : Prop :=
  Sys2Proof.Claims.LendMovesTheOwner ∧ Sys2Proof.Claims.ReturnGoesHome ∧ Sys2Proof.Claims.LendThenReturnRestores ∧ Sys2Proof.Claims.SharesAreCounted ∧ Sys2Proof.Claims.QueryWaitAndClaim

/-- Barriers, MWAIT and SLEEP block without effect and go on when their condition holds. -/
def Obligations.BarriersAndSleeps : Prop :=
  Sys2Proof.Claims.BarriersArriveAndWait ∧ Sys2Proof.Claims.MwaitAndSleep ∧ Sys2Proof.Claims.WaitsEnd
end

/-! ### The ring, the deque, launches, CSRs, traps and returns -/

namespace Sys2Proof.Claims
open Sys2Proof.Machine

/-- The state with items put into the work deque of a core for a launch. -/
def DequeIs (s : State) (g : CoreId) (launch : Nat) (items : List Word) : Prop := (s.core g).deque = items ∧ (items ≠ [] → (s.core g).dequeLaunch = launch)

/-- Every core's deque but one is as before. -/
def OtherDeques (s u : State) (g : CoreId) : Prop :=
  ∀ q, q ≠ g → (u.core q).deque = (s.core q).deque ∧ (u.core q).dequeLaunch = (s.core q).dequeLaunch

/-- A CSR of the map that can be written, and the bits that a write changes (R25, R27). -/
def csrMasks : List (Nat × Word) := [
  (0x000, 0x11F3), (0x001, 0xF), (0x008, 0xFFFFFFFFFFFFFFFF), (0x009, 0xFFFFFFFFFFFFFFFF), (0x010, 0xFFFFFFFFFFFFFFFC), (0x011, 0xFFFFFF),
  (0x012, 0x3), (0x013, 0xFFFFFFFFFFFFFFFF), (0x014, 0xFFFFFFFF), (0x015, 0xFFFFFFFFFFFFFFFF)]

/-- The read-only CSRs of the map (R25). -/
def csrReadOnly : List Nat := [0x016, 0x020, 0x021, 0x030, 0x031, 0x032, 0x033, 0x034, 0x035, 0x100, 0x110, 0x111, 0x112, 0x113, 0x114, 0x115,
  0x120, 0x121, 0x122, 0x123, 0x124, 0x130, 0x131, 0x132, 0x140, 0x141]

/-- The writing CSR forms and the value each writes for the old value and s(a) (R137). -/
def csrWrites : List ((BitVec 5 → BitVec 5 → BitVec 12 → Instr) × (Word → Word → Word)) := [
  (.csrw, fun _ v => v), (.csrs, fun old v => old ||| v), (.csrc, fun old v => old &&& ~~~ v)]

/-- A stopping fault of stream e can be entered in the handler: the thread is bound and Corelo does not hold it, no handler runs, there is
a handler address, the scalar stream runs and waits for nothing of its own, the launch routes the class to the handler, nothing else is
pending, and the results of the streams that stand have landed (R29, R92, R233, R236). -/
def CanTrap (s : State) (e : Stream) (cause : BitVec 8) : Prop :=
  s.cur.status = .bound ∧ s.cur.corelo = none ∧ s.cur.ih = false ∧ s.cur.tvec ≠ 0 ∧ s.cur.scalar.ended = false ∧ s.cur.scop = none
    ∧ (e = .scalar ∨ s.cur.locked = false) ∧ s.route (faultClass cause) ≠ 3 ∧ s.route (faultClass cause) ≠ 4
    ∧ (∀ f, (s.cur.str f).pending = none) ∧ s.launchFlag 5 = false
    ∧ ∀ f, f ≠ .scalar → (f = e ∨ (s.cur.str f).stopped = true ∨ (s.cur.str f).halted = true) → s.cur.settled f = true

/-- Nothing of a thread is in flight that a stop of all four streams would wait for, the instruction of stream e aside (R92, R238). -/
def AllLanded (s : State) (e : Stream) : Prop :=
  s.cur.scop = none ∧ (e = .scalar ∨ s.cur.locked = false) ∧ s.cur.vfly = [] ∧ s.cur.mfly = []

/-- The handler has been entered for a fault of stream e: the stream is stopped; FCAUSE, FSTREAM, FPC, FINSN and FADDR hold the fault;
ih is set; the diverted address is kept; the scalar stream's active loops are frozen and it stands at TVEC; no other register, stream
or byte of memory has changed (R236). -/
def Entered (s u : State) (e : Stream) (p : PendFault) : Prop :=
  u.cur.ih = true ∧ u.cur.handled = some e ∧ (u.cur.str e).stopped = true
    ∧ u.cur.fcause = p.flt.detail ++ p.flt.cause ∧ u.cur.fstream = BitVec.ofNat 2 e.num ∧ u.cur.fpc = p.fpc ∧ u.cur.finsn = p.finsn
    ∧ u.cur.faddr = p.flt.addr ∧ u.cur.divert = pcWord s.cur.scalar.pc ∧ u.cur.scalar.pc = toPc s.cur.tvec
    ∧ (∀ i : Fin 6, u.cur.scalar.loops[i] = if s.cur.scalar.loops[i].active then { s.cur.scalar.loops[i] with frozen := true } else s.cur.scalar.loops[i])
    ∧ (∀ f, f ≠ .scalar → (u.cur.str f).pc = (s.cur.str f).pc ∧ (u.cur.str f).loops = (s.cur.str f).loops)
    ∧ (∀ f, f ≠ .scalar → f ≠ e → u.cur.str f = s.cur.str f)
    ∧ u.cur.s = s.cur.s ∧ SameFiles s.cur u.cur ∧ u.cur.vcsr = s.cur.vcsr ∧ u.cur.ftoff = s.cur.ftoff ∧ u.cur.fscratch0 = s.cur.fscratch0
    ∧ u.cur.fscratch1 = s.cur.fscratch1 ∧ u.cur.tvec = s.cur.tvec ∧ u.cur.bind = s.cur.bind ∧ u.cur.key = s.cur.key ∧ SameMem s u

/-- The return from a handler that ran for a fault of stream e (R138): ih is clear, the stream FSTREAM names stands at FPC, every
stopped stream runs again, and the scalar stream, when another stream faulted, stands where entry diverted it. -/
def Returned (s u : State) (e : Stream) : Prop :=
  u.cur.ih = false ∧ u.cur.handled = none ∧ (∀ f, (u.cur.str f).stopped = false ∧ (u.cur.str f).halted = false)
    ∧ (∀ f, f.num = s.cur.fstream.toNat → (u.cur.str f).pc = toPc s.cur.fpc)
    ∧ (e ≠ .scalar → s.cur.fstream ≠ 0 → u.cur.scalar.pc = toPc s.cur.divert)
    ∧ (∀ i : Fin 6, s.cur.scalar.loops[i].frozen = true → u.cur.scalar.loops[i] = { s.cur.scalar.loops[i] with frozen := false })
    ∧ (∀ i : Fin 6, s.cur.scalar.loops[i].frozen = false → s.cur.scalar.loops[i].active = true → u.cur.scalar.loops[i] = LoopLevel.off)
    ∧ u.cur.s = s.cur.s ∧ SameFiles s.cur u.cur ∧ u.cur.fpc = s.cur.fpc ∧ u.cur.fcause = s.cur.fcause ∧ u.cur.tvec = s.cur.tvec ∧ SameMem s u

/-- A candidate of a class no lower than the caller's waits for the caller's slot: it may be bound on the caller's die, fits no core of it,
and would fit the caller's core once the caller's slot and halves were freed (R128). -/
def SlotAwaited (s : State) : Prop :=
  ∃ c ∈ s.cands, (s.launch?.elim 0 fun l => l.byte 4) ≤ c.launch.byte 4 ∧ dieOf s.cur.key.core ∈ s.candDies c
    ∧ s.placeIn c.launch (dieCores (dieOf s.cur.key.core)) = none
    ∧ s.placeOn c.launch s.cur.key.core (fun t => decide (t.key = s.cur.key)) ≠ none

end Sys2Proof.Claims

section
open Sys2Proof Sys2Proof.Machine Sys2Proof.Claims

/-- CQPOP moves the head record to e0–e3 and its first doubleword to d, and advances the head; on an empty ring it writes 0 to d
and nothing else changes; CQPEEK leaves the ring; one that returns a LAUNCH record leaves no line in the core's L1; CQWAIT and CQWAITY
block until the ring holds a record (R33, R134, R259). -/
def Sys2Proof.Claims.RingIsReadInOrder : Prop :=
  ∀ (d : BitVec 5) (s : State), let w (i : Nat) : Word := BitVec.ofNat 64 (headField s (8 * i) 8)
    (s.cur.cqCount = 0 →
      exec (.cqpop d) s = .next (scalarDone s d 0) ∧ exec (.cqpeek d) s = .next (scalarDone s d 0) ∧
      exec .cqwait s = .next s ∧ exec .cqwaity s = .next (s.upd fun t => { t with waiting := .yielded })) ∧
    (s.cur.cqCount ≠ 0 →
      (∃ u, exec (.cqpop d) s = .next u ∧ u.getS d = (if d = 0 then 0 else w 0) ∧ (∀ i, i ≠ d → u.getS i = s.getS i)
        ∧ u.cur.getE 0 = w 0 ∧ u.cur.getE 1 = w 1 ∧ u.cur.getE 2 = w 2 ∧ u.cur.getE 3 = w 3
        ∧ (∀ i : BitVec 3, 4 ≤ i.toNat → u.cur.getE i = s.cur.getE i)
        ∧ u.cur.cqHead = (s.cur.cqHead + 1) % 64 ∧ u.cur.cqTail = s.cur.cqTail ∧ u.cur.cqCount + 1 = s.cur.cqCount
        ∧ u.cur.h = s.cur.h ∧ u.cur.k = s.cur.k ∧ SameCsrs s.cur u.cur ∧ SameEngines s.cur u.cur ∧ SameMem s u
        ∧ u.cur.scalar = seqNext 6 s.cur.scalar ∧ (headField s 0 2 = 7 → (u.core s.cur.key.core).l1 = [])) ∧
      (∃ u, exec (.cqpeek d) s = .next u ∧ Wrote s u d (w 0) ∧ u.cur = (scalarDone s d (w 0)).cur ∧ SameButL1 s u ∧ SameElsewhere s u
        ∧ (headField s 0 2 = 7 → (u.core s.cur.key.core).l1 = [])) ∧ exec .cqwait s = .next (s.advance .scalar) ∧
      exec .cqwaity s = .next ((s.upd fun t => { t with waiting := .none }).advance .scalar))

/-- HELD_RECORD_ENTRY: with room in the ring, the oldest waiting record of the slot enters it at the tail (R33, R134). -/
def Sys2Proof.Claims.HeldRecordsEnterInOrder : Prop :=
  ∀ (s : State) (w : WaitRecord) (rest : List WaitRecord), let t := seen s
    t.cur.waitRecs = w :: rest → t.cur.cqCount < 64 → s.bad = [] →
      ∃ u, exec .heldRecordEntry s = .next (back s u) ∧ u.cur.waitRecs = rest ∧ u.cur.cqCount = t.cur.cqCount + 1
        ∧ u.cur.cqTail = (t.cur.cqTail + 1) % 64 ∧ u.cur.cqHead = t.cur.cqHead ∧ u.cur.s = t.cur.s
        ∧ (let base := t.cur.ringBase + t.cur.cqTail * 32
           memBytesAt u.mem base 32 = w.rcd.bytes ∧ ∀ a, (a < base ∨ base + 32 ≤ a) → u.byteAt a = s.byteAt a)

/-- The work deque: DQPUSH puts s(a) at the bottom of the core's deque and returns 0, or returns 1 when it is full or another launch's and
2 for all-ones; DQPOP takes the bottom item; DQSTEAL the top item of a core of the die; both give all-ones where there is none; DQLEN
counts (R135). That all-ones is refused with 2 before a full deque is refused with 1 is the model's reading (log entry 31). -/
def Sys2Proof.Claims.DequeHasTwoEnds : Prop :=
  ∀ (d a : BitVec 5) (s : State), let g := s.cur.key.core
    let c := s.core g
    let launch := s.cur.bind.launch
    let mine (q : Core) : List Word := if q.dequeLaunch = launch then q.deque else []
    let victim : CoreId := BitVec.ofNat 9 (g.toNat / 16 * 16 + (s.getS a).toNat)
    (s.cur.released .die false = true → s.getS a = BitVec.allOnes 64 →
      ∃ u, exec (.dqpush d a) s = .next u ∧ Wrote s u d 2 ∧ ∀ q, u.core q = s.core q) ∧
    (s.cur.released .die false = true → s.getS a ≠ BitVec.allOnes 64 →
      ((c.deque ≠ [] ∧ c.dequeLaunch ≠ launch) ∨ 1024 ≤ c.deque.length) →
      ∃ u, exec (.dqpush d a) s = .next u ∧ Wrote s u d 1 ∧ ∀ q, u.core q = s.core q) ∧
    (s.cur.released .die false = true → s.getS a ≠ BitVec.allOnes 64 → (c.deque = [] ∨ c.dequeLaunch = launch) → c.deque.length < 1024 →
      ∃ u, exec (.dqpush d a) s = .next u ∧ Wrote s u d 0 ∧ DequeIs u g launch (s.getS a :: c.deque) ∧ OtherDeques s u g) ∧
    (mine c = [] → ∃ u, exec (.dqpop d) s = .next u ∧ Wrote s u d (BitVec.allOnes 64) ∧ ∀ q, u.core q = s.core q) ∧
    (∀ v rest, mine c = v :: rest →
      ∃ u, exec (.dqpop d) s = .next u ∧ Wrote s u d v ∧ DequeIs u g launch rest ∧ OtherDeques s u g) ∧
    (15 < (s.getS a).toNat → exec (.dqsteal d a) s = .next (s.raise .scalar (fIllegal 4))) ∧
    ((s.getS a).toNat ≤ 15 → mine (s.core victim) = [] →
      ∃ u, exec (.dqsteal d a) s = .next u ∧ Wrote s u d (BitVec.allOnes 64) ∧ ∀ q, u.core q = s.core q) ∧
    (∀ rest v, (s.getS a).toNat ≤ 15 → mine (s.core victim) = rest ++ [v] →
      ∃ u, exec (.dqsteal d a) s = .next u ∧ Wrote s u d v ∧ DequeIs u victim launch rest ∧ OtherDeques s u victim) ∧
    exec (.dqlen d) s = .next (scalarDone s d (BitVec.ofNat 64 (mine c).length))

/-- LAUNCH reads its record once every earlier store has been performed, acts as a release, and answers 0, 1 or 2 in d; a record that
it accepts becomes a launch of the pool with the record's bytes and the caller's job, submitted by the caller; a misaligned address
raises F_ALIGN (R136, R312, R313). -/
def Sys2Proof.Claims.LaunchSubmitsItsRecord : Prop :=
  ∀ (d a : BitVec 5) (s : State),
    ((s.getS a).toNat % 64 ≠ 0 → exec (.launch d a) s = .next (s.raise .scalar (flt 0x02 0 (s.getS a)))) ∧
    (∀ (accs : List Access) (ws : List Word) (v : State) (j : Job), (s.getS a).toNat % 64 = 0 →
      s.checkWords (s.getS a) .load 64 = .ok accs → s.readWaits accs = none → s.cur.released .pkg true = true →
      s.loadWords (s.getS a) accs = .ok (ws, v) → v.progWait (ws.flatMap fun w => bytesOf 8 w.toNat) = none → v.job? = some j →
        let recd := ws.flatMap fun w => bytesOf 8 w.toNat
        let r := v.unhold.submit j (.thread s.cur.key s.cur.bind.launch s.cur.bind.lin) false (s.getS a) recd v.unhold.threadRead
        ∃ u, exec (.launch d a) s = .next u ∧
          (match r with
          | .accepted num _ => Wrote s u d 0 ∧ ∃ l, u.launches = s.launches ++ [l] ∧ l.num = num ∧ l.recd = recd ∧ l.job = j.id
              ∧ l.supervisor = false ∧ l.stage = 0 ∧ (s.deadDies = [] → l.inPool = true ∧ l.unbound = List.range l.total)
              ∧ l.submitter = .thread s.cur.key s.cur.bind.launch s.cur.bind.lin
          | .full => Wrote s u d 1 ∧ u.launches = s.launches
          | .rejected => Wrote s u d 2 ∧ u.launches = s.launches))

/-- FSTEP adds 1 to the stage counter of the caller's launch, which stays at 2^32 − 1, and writes the new value to d; CIRQ writes
the state of a circuit: 1 live, 2 settling, 4 faulted, 6 settling again, and 0 for a handle that is not established (R140, R341). -/
def Sys2Proof.Claims.StageCounterAndCircuitQuery : Prop :=
  (∀ (d : BitVec 5) (s : State) (l : Launch), s.launch? = some l →
    let v := min (l.stage.toNat + 1) (2 ^ 32 - 1)
    ∃ u, exec (.fstep d) s = .next u ∧ Wrote s u d (BitVec.ofNat 64 v)
      ∧ u.launches = putLaunch s.launches { l with stage := BitVec.ofNat 32 v }) ∧
  (∀ (d : BitVec 5) (ch : BitVec 6) (s : State) (l : Launch), s.launch? = some l →
    (∀ c, findCircuit l.circuits ch.toNat = some c → exec (.cirq d ch) s = .next (scalarDone s d
      (match c.st with | .live => 1 | .settling _ => 2 | .faulted .. => 4 | .resettling _ => 6))) ∧
    (findCircuit l.circuits ch.toNat = none → exec (.cirq d ch) s = .next (scalarDone s d 0)))

/-- A CSR form writes the old value of the CSR to d after it has written the CSR; CSRR of any CSR of the map, the others of a CSR that
the mode may write (R24, R137). -/
def Sys2Proof.Claims.CsrFormsReadAndWrite : Prop :=
  (∀ (d : BitVec 5) (n : BitVec 12) (s : State), (n.toNat ∈ csrReadOnly ∨ n.toNat ∈ csrMasks.map Prod.fst ∨ n.toNat = 0x800) →
    exec (.csrr d n) s = .next (scalarDone s d (s.csrRead n.toNat))) ∧
  (∀ p ∈ csrWrites, ∀ (d a : BitVec 5) (n : BitVec 12) (s : State),
    (n.toNat ∈ csrMasks.map Prod.fst ∨ (n.toNat = 0x800 ∧ s.cur.bind.supervisor = true)) →
      ∃ u, exec (p.1 d a n) s = .next u
        ∧ u = scalarDone (s.csrWrite n.toNat (p.2 (s.csrRead n.toNat) (s.getS a))) d (s.csrRead n.toNat))

/-- What software writes to a CSR it reads back, but for the bits marked zero, which stay zero; no other CSR of the map changes, and
nothing outside the CSR. GOV_AGE takes bits [15:0], at least 16, for the core of the thread (R7, R25, R27, R31, R137). That FPC and
TVEC keep the bits above the address, and that GOV_AGE reads back at once, are the model's readings (log entries 8 and 16). -/
def Sys2Proof.Claims.CsrsHoldTheirFields : Prop :=
  ∀ (s : State) (v : Word),
    (∀ p ∈ csrMasks, (s.csrWrite p.1 v).csrRead p.1 = v &&& p.2 ∧
      (∀ m, m ≠ p.1 → (m ∈ csrReadOnly ∨ m ∈ csrMasks.map Prod.fst ∨ m = 0x800) → (s.csrWrite p.1 v).csrRead m = s.csrRead m) ∧
      (s.csrWrite p.1 v).cur.s = s.cur.s ∧ SameMem s (s.csrWrite p.1 v)) ∧
    ((s.csrWrite 0x800 v).csrRead 0x800 = BitVec.ofNat 64 (max 16 (v.toNat % 65536)) ∧
      (∀ g, g ≠ s.cur.key.core → (s.csrWrite 0x800 v).core g = s.core g) ∧ (s.csrWrite 0x800 v).cur = s.cur)

/-- The privilege rules: a user thread that writes GOV_AGE or claims a region raises F_ILLEGAL with detail 1; a write of a read-only
CSR, and any access to a number outside the map, raise F_ILLEGAL with detail 0 (R11, R24, R235). That a claim is refused so before its
region word is looked at is the model's reading (log entry 123). -/
def Sys2Proof.Claims.PrivilegeIsChecked : Prop :=
  ∀ (d a : BitVec 5) (n : BitVec 12) (s : State),
    (s.cur.bind.supervisor = false →
      exec (.ownClaim d a) s = .next (s.raise .scalar (fIllegal 1)) ∧
      ∀ p ∈ csrWrites, n.toNat = 0x800 → exec (p.1 d a n) s = .next (s.raise .scalar (fIllegal 1))) ∧
    (∀ p ∈ csrWrites, n.toNat ∈ csrReadOnly → exec (p.1 d a n) s = .next (s.raise .scalar (fIllegal 0))) ∧
    (n.toNat ∉ csrReadOnly → n.toNat ∉ csrMasks.map Prod.fst → n.toNat ≠ 0x800 →
      exec (.csrr d n) s = .next (s.raise .scalar (fIllegal 0)) ∧
      ∀ p ∈ csrWrites, exec (p.1 d a n) s = .next (s.raise .scalar (fIllegal 0)))

/-- TAKING AN EXCEPTION: a stopping fault of any stream that can enter the handler does so as R236 says: one of the scalar stream in the
same update, one of another stream by the HANDLER_ENTRY that follows. That stopped[0] stays set in the handler of the scalar stream's own
fault, and that another stream's entry comes in the next cycle, are the model's readings (log entries 7 and 9). -/
def Sys2Proof.Claims.FaultsEnterTheHandler : Prop :=
  ∀ (s : State) (e : Stream) (p : PendFault), CanTrap s e p.flt.cause →
    (e = .scalar → Entered s (s.raiseAt e p) e p) ∧
    (e ≠ .scalar → s.raiseAt e p = (s.stopStream e).updStr e (fun x => { x with pending := some p })
      ∧ ∀ ev : EvArgs, ev.slot = s.cur.key → ∃ u, exec .handlerEntry { s.raiseAt e p with ev := ev } = .next u ∧ Entered s u e p)

/-- A stopping fault of an engine's stream while the handler runs, or of any stream while the thread is being saved or Corelo holds it, is
held with its stream, and the handler goes on (R29, R242). That one held for the handler waits for ERET whatever TVEC then holds is the
model's reading (log entry 92). -/
def Sys2Proof.Claims.FaultsAreHeldInTheHandler : Prop :=
  ∀ (s : State) (e : Stream) (p : PendFault),
    (e ≠ .scalar ∧ s.cur.ih = true ∧ s.route (faultClass p.flt.cause) ≠ 3 ∧ s.route (faultClass p.flt.cause) ≠ 4) ∨
      s.cur.status = .saving ∨ s.cur.corelo.isSome = true →
    let u := s.raiseAt e p
    u = (s.stopStream e).updStr e (fun x => { x with pending := some p })
      ∧ (e ≠ .matrix → e ≠ .scalar → u = s.updStr e fun x => { x with stopped := true, pending := some p })

/-- A fault of the scalar stream in the handler, and a fault with no handler address and no handler running, stop all four streams and go
to Corelo with a FAULT record, which the host receives, once what the streams issued has landed: the fault is held with its stream, and the
FAULT_TO_CORELO that follows sends it (R29, R92, R238). That the handler CSRs keep their values, and that the record goes in the next cycle,
are the model's readings (log entries 7 and 13). -/
def Sys2Proof.Claims.FaultsWithoutHandlerGoToCorelo : Prop :=
  ∀ (s : State) (e : Stream) (p : PendFault),
    s.cur.status = .bound → s.cur.corelo = none → (∀ f, (s.cur.str f).pending = none) → AllLanded s e →
    (e = .scalar ∧ s.cur.ih = true) ∨
      (s.cur.ih = false ∧ s.cur.tvec = 0 ∧ s.route (faultClass p.flt.cause) ≠ 3 ∧ s.route (faultClass p.flt.cause) ≠ 4) →
    let u := s.raiseAt e p
    u = (s.stopStream e).updStr e (fun x => { x with pending := some p })
      ∧ ∀ ev : EvArgs, ev.slot = s.cur.key → ∃ v, exec .faultToCorelo { u with ev := ev } = .next v
        ∧ v.cur.corelo = some { cause := p.flt.cause, mayResume := false, stream := e, fpc := p.fpc } ∧ (v.cur.str e).pending = none
        ∧ (∀ f, (s.cur.str f).ended = false → (v.cur.str f).halted = true)
        ∧ v.corelo = s.corelo ++ [(faultRecord s.cur.key.agent p.fpc p.flt.addr p.flt.cause p.flt.detail e.num, true)]
        ∧ v.cur.s = s.cur.s ∧ SameFiles s.cur v.cur ∧ SameMem s v

/-- TRAP and BRK take an exception of cause 0x80 and 0x81 at their own address, with detail 0 (R138). -/
def Sys2Proof.Claims.TrapsTakeTheirException : Prop :=
  ∀ s : State,
    (CanTrap s .scalar 0x80 → ∃ u, exec .trap s = .next u
      ∧ Entered s u .scalar { flt := { cause := 0x80, detail := 0, addr := 0 }, fpc := pcWord s.cur.scalar.pc, finsn := s.insn }) ∧
    (CanTrap s .scalar 0x81 → ∃ u, exec .brk s = .next u
      ∧ Entered s u .scalar { flt := { cause := 0x81, detail := 0, addr := 0 }, fpc := pcWord s.cur.scalar.pc, finsn := s.insn })

/-- ERET in a handler of a stream's fault, with nothing else pending, returns as R138 says; after an asynchronous entry only the scalar
stream resumes, where it was diverted; with ih = 0 it raises F_ILLEGAL (R138, R237). The detail 0 of ERET with ih = 0 is the model's
reading (log entry 11). -/
def Sys2Proof.Claims.EretReturns : Prop :=
  ∀ s : State,
    (s.cur.ih = false → exec .eret s = .next (s.raise .scalar (fIllegal 0))) ∧
    (∀ e, s.cur.ih = true → s.cur.handled = some e → (∀ f, (s.cur.str f).pending = none) →
      ∃ u, exec .eret s = .next u ∧ Returned s u e) ∧
    (s.cur.ih = true → s.cur.handled = none → (∀ f, (s.cur.str f).pending = none) →
      ∃ u, exec .eret s = .next u ∧ u.cur.ih = false ∧ u.cur.scalar.pc = toPc s.cur.divert
        ∧ (∀ f, f ≠ .scalar → u.cur.str f = s.cur.str f) ∧ u.cur.s = s.cur.s ∧ SameFiles s.cur u.cur ∧ SameMem s u)

/-- A TRAP whose handler executes ERET at once returns to the TRAP: the registers, every stream and memory are as they were, and so are
the loops, none of which was frozen (R132, R138, R236). -/
def Sys2Proof.Claims.TrapThenEretRoundTrip : Prop :=
  ∀ s u v : State, CanTrap s .scalar 0x80 → s.cur.scalar.pc &&& 3#52 = 0 →
    (∀ f, (s.cur.str f).stopped = false ∧ (s.cur.str f).halted = false) → (∀ i : Fin 6, s.cur.scalar.loops[i].frozen = false) →
    exec .trap s = .next u → exec .eret u = .next v →
      v.cur.scalar.pc = s.cur.scalar.pc ∧ v.cur.scalar.loops = s.cur.scalar.loops ∧ v.cur.ih = false
        ∧ (∀ f, f ≠ .scalar → v.cur.str f = s.cur.str f) ∧ v.cur.s = s.cur.s ∧ SameFiles s.cur v.cur ∧ SameMem s v

/-- EXIT ends the scalar stream once every vector and matrix result of the thread has landed, and in a handler every stream stopped by a
fault with it; YIELD of a YIELDABLE launch, with a candidate that waits for the slot and the halves' regions all EXCL and its own, begins
the thread's pre-emption at the next instruction; any other YIELD, and NOP, only go on (R128, R138, R241, R242). That EXIT in a handler ends the streams halted
by STOPALL too, and that MMAs which a trap has stopped go on while EXIT waits for them, are the model's readings (log entries 15 and
102). -/
def Sys2Proof.Claims.ExitYieldAndNop : Prop :=
  ∀ s : State,
    (s.cur.vfly = [] → s.cur.mfly = [] →
      ∃ u, exec .exit s = .next u ∧ u.cur.scalar.ended = true ∧ u.cur.ih = false
        ∧ (∀ f, f ≠ .scalar → (u.cur.str f).ended = ((s.cur.str f).ended || (s.cur.ih && ((s.cur.str f).stopped || (s.cur.str f).halted))))
        ∧ u.cur.s = s.cur.s ∧ SameFiles s.cur u.cur ∧ SameMem s u) ∧
    ((s.cur.vfly ≠ [] ∨ s.cur.mfly ≠ []) → exec .exit s = .next s.runMmas.interlock) ∧
    (s.launchFlag 3 = true → SlotAwaited s → s.halvesExcl = true →
      ∃ u, exec .yield s = .next u ∧ u.cur.status = .saving ∧ u.cur.scalar.pc = (seqNext 6 s.cur.scalar).pc
        ∧ u.cur.scalar.loops = (seqNext 6 s.cur.scalar).loops
        ∧ (∀ f, f ≠ .scalar → (u.cur.str f).pc = (s.cur.str f).pc ∧ (u.cur.str f).loops = (s.cur.str f).loops)
        ∧ u.cur.s = s.cur.s ∧ SameFiles s.cur u.cur ∧ u.cur.bind = s.cur.bind ∧ u.tokens = s.tokens ∧ SameMem s u) ∧
    (s.launchFlag 3 = false ∨ ¬ SlotAwaited s ∨ s.halvesExcl = false → exec .yield s = .next (s.advance .scalar)) ∧
    exec .nop s = .next (s.advance .scalar)

/-- The events of the handler: a held fault is entered when it can be, with every other stream stopped under STOPALL, an asynchronous entry when nothing stops it, and a held fault for
which no handler can be entered any more goes to Corelo (R29, R236–R238). When Corelo resumes a thread after a machine check is open
(log entry 14). -/
def Sys2Proof.Claims.HandlerEvents : Prop :=
  ∀ s : State, let t := seen s
    (∀ e p, t.cur.nextPending = some (e, p) → t.coreloDue = false → t.cur.canEnter = true → t.stopOthers.cur.settledAll = true →
      ∃ u, exec .handlerEntry s = .next (back s u) ∧ u.cur.ih = true ∧ u.cur.handled = some e ∧ u.cur.fcause = p.flt.detail ++ p.flt.cause
        ∧ u.cur.fpc = p.fpc ∧ u.cur.faddr = p.flt.addr ∧ u.cur.finsn = p.finsn ∧ u.cur.scalar.pc = toPc t.cur.tvec
        ∧ (t.launchFlag 5 = true → ∀ f, f ≠ .scalar → (t.cur.str f).ended = false → (u.cur.str f).halted = true)
        ∧ (u.cur.str e).pending = none ∧ u.cur.s = t.cur.s ∧ SameMem s u) ∧
    (∀ a rest, t.cur.asyncPend = a :: rest → t.cur.canEnter = true → t.cur.nextPending = none →
      ∃ u, exec .asyncHandlerEntry s = .next (back s u) ∧ u.cur.ih = true ∧ u.cur.handled = none ∧ u.cur.asyncPend = rest
        ∧ u.cur.fcause = a.detail ++ a.cause ∧ u.cur.fstream = a.stream ∧ u.cur.fpc = a.fpc ∧ u.cur.faddr = a.addr
        ∧ u.cur.scalar.pc = toPc t.cur.tvec ∧ (∀ f, (u.cur.str f).stopped = (t.cur.str f).stopped) ∧ u.cur.s = t.cur.s ∧ SameMem s u) ∧
    (∀ e p, t.cur.nextPending = some (e, p) → t.cur.ih = false → (t.cur.tvec = 0 ∨ t.cur.scalar.ended = true) →
      t.route (faultClass p.flt.cause) ≠ 3 → t.route (faultClass p.flt.cause) ≠ 4 → t.cur.status = .bound → t.cur.corelo = none →
      t.haltAll.cur.settledAll = true →
      ∃ u, exec .faultToCorelo s = .next (back s u)
        ∧ u.cur.corelo = some { cause := p.flt.cause, mayResume := false, stream := e, fpc := p.fpc }
        ∧ u.corelo = s.corelo ++ [(faultRecord t.cur.key.agent p.fpc p.flt.addr p.flt.cause p.flt.detail e.num, true)]
        ∧ (u.cur.str e).pending = none ∧ u.cur.s = t.cur.s ∧ SameMem s u) ∧
    (∀ c, t.cur.corelo = some c → c.mayResume = true → (∀ f, (t.cur.str f).pending = none) → t.cur.handled = none →
      ∃ u, exec .machineCheckResume s = .next (back s u) ∧ u.cur.corelo = none ∧ (u.cur.str c.stream).pc = toPc c.fpc
        ∧ (∀ f, (u.cur.str f).stopped = false ∧ (u.cur.str f).halted = false) ∧ u.cur.s = t.cur.s ∧ SameMem s u)

/-- A word that is no instruction raises F_ILLEGAL with detail 0 in its stream, and a fetch that fails raises its fault at the fetched
address; FINSN of the latter is a free value (R76, R77). The free value is the model's choice (log entry 12). -/
def Sys2Proof.Claims.FetchFaultsAreTaken : Prop :=
  ∀ s : State,
    exec .notAnInstruction s = .next (s.raise s.ev.stream { cause := 0x01, detail := 0, addr := 0 }) ∧
    ∃ w, exec .instructionFetchFault s = .next ({ s with freeCtr := s.freeCtr + 1 }.raiseAt s.ev.stream
      { flt := s.ev.flt, fpc := pcWord (s.cur.str s.ev.stream).pc, finsn := w })

/-- FTSET writes ft(d) with s(a)[31:0], FTGET reads ft(a) zero-extended, and MOVE writes one register between s and e; nothing else
changes but the stream going on. A MOVE from a register whose vector result has not landed reads a free value (R16, R91, R139). -/
def Sys2Proof.Claims.FormatSlotsAndExchangeRegisters : Prop :=
  ∀ (s : State) (a d : BitVec 5) (f : BitVec 4) (e : BitVec 3),
    exec (.ftset f a) s = .next ((s.upd fun t => { t with ft := t.ft.set f.toNat ((s.getS a).setWidth 32) f.isLt }).advance .scalar) ∧
    exec (.ftget d f) s = .next (scalarDone s d ((s.cur.getFt f).setWidth 64)) ∧
    exec (.moveToE e a) s = .next ((s.upd fun t => { t with e := t.e.set e.toNat (s.getS a) e.isLt }).advance .scalar) ∧
    ((∀ l ∈ s.cur.vfly, l.ereg.map Prod.fst ≠ some e) → exec (.moveFromE d e) s = .next (scalarDone s d (s.cur.getE e))) ∧
    ∃ u v, exec (.moveFromE d e) s = .next u ∧ Wrote s u d v

/-- PUBLISH by the owner of a pair, once every earlier store has been performed, flips its pair bit and adds 1 to its publish count in
one update, and CPUB does the same once the copies of the stream have completed; PUBQ writes the count to d (R141, R215). The mark that
a region is used as a pair is the model's (log entry 28). -/
def Sys2Proof.Claims.PublishFlipsThePair : Prop :=
  (∀ (h : BitVec 4) (s : State) (e : Entry), s.pairOf (s.cur.getH h) = .ok e → e.owner = me s → e.st ≠ .window →
    s.cur.busyIn e.base (2 ^ e.log2) = false →
      let ts := putEntry s.tokens { e with pair := !e.pair, paired := true, pubs := e.pubs + 1 }
      (s.cur.released .pkg true = true → ∃ u, exec (.publish h) s = .next u ∧ u.tokens = ts ∧ u.cur.scalar = seqNext 6 s.cur.scalar ∧ u.cur.s = s.cur.s
        ∧ SameFiles s.cur u.cur ∧ SameCsrs s.cur u.cur ∧ SameEngines s.cur u.cur ∧ SameMem s u ∧ SameButL1 s u) ∧
      (s.cur.copies = [] → ∃ u, exec (.cpub h) s = .next u ∧ u.tokens = ts ∧ u.cur.copy = seqNext 6 s.cur.copy ∧ u.cur.s = s.cur.s
        ∧ SameFiles s.cur u.cur ∧ SameCsrs s.cur u.cur ∧ u.cur.scalar = s.cur.scalar ∧ SameMem s u ∧ SameButL1 s u)) ∧
  (∀ (d : BitVec 5) (h : BitVec 4) (s : State) (e : Entry) (acc : Access), s.pairOf (s.cur.getH h) = .ok e → s.pubqCheck e = .ok acc →
    ∃ u, exec (.pubq d h) s = .next u ∧ Wrote s u d e.pubs ∧ u.tokens = s.tokens)

/-- The completion ring is read in order, held records enter it, and the work deque has two ends. -/
def Obligations.RingAndDeque : Prop :=
  Sys2Proof.Claims.RingIsReadInOrder ∧ Sys2Proof.Claims.HeldRecordsEnterInOrder ∧ Sys2Proof.Claims.DequeHasTwoEnds

/-- LAUNCH submits its record, and PUBLISH and CPUB flip a pair that PUBQ counts. -/
def Obligations.LaunchAndPublish : Prop :=
  Sys2Proof.Claims.LaunchSubmitsItsRecord ∧ Sys2Proof.Claims.PublishFlipsThePair

/-- CSR forms read and write, CSRs hold their fields, and the privilege rules are checked. -/
def Obligations.CsrsAndPrivilege : Prop :=
  Sys2Proof.Claims.CsrFormsReadAndWrite ∧ Sys2Proof.Claims.CsrsHoldTheirFields ∧ Sys2Proof.Claims.PrivilegeIsChecked

/-- Taking an exception: a fault enters the handler, is held, or goes to Corelo. -/
def Obligations.ExceptionsAreTaken : Prop :=
  Sys2Proof.Claims.FaultsEnterTheHandler ∧ Sys2Proof.Claims.FaultsAreHeldInTheHandler ∧ Sys2Proof.Claims.FaultsWithoutHandlerGoToCorelo ∧ Sys2Proof.Claims.FetchFaultsAreTaken ∧ Sys2Proof.Claims.HandlerEvents

/-- TRAP, BRK, ERET, EXIT, YIELD and NOP, and the round trip of a TRAP and its ERET. -/
def Obligations.TrapsAndReturn : Prop :=
  Sys2Proof.Claims.TrapsTakeTheirException ∧ Sys2Proof.Claims.EretReturns ∧ Sys2Proof.Claims.TrapThenEretRoundTrip ∧ Sys2Proof.Claims.ExitYieldAndNop

/-- FTSET, FTGET and MOVE write one register, FSTEP counts stages, and CIRQ reads a circuit. -/
def Obligations.FormatSlotsAndFabricForms : Prop :=
  Sys2Proof.Claims.FormatSlotsAndExchangeRegisters ∧ Sys2Proof.Claims.StageCounterAndCircuitQuery
end

/-! ### The vector stream -/

namespace Sys2Proof.Claims
open Sys2Proof.Machine

/-- The number of elements of the current shape (R142). -/
def lanes (s : State) : Nat := s.cur.rows * s.cur.cols

/-- Element j of a run register as a type reads it; a ZERO register holds zeros (R21, R22, R143). -/
def elemAt (s : State) (r : BitVec 5) (t : VType) (j : Nat) : Word32 := (runElems ((s.cur.getV r).read t (lanes s)))[j]?.getD 0

/-- A run register can be read for the current shape: nothing in flight writes it, its length is N, and every run holds an element
(R21, R91, R145). -/
def RunReadable (s : State) (r : BitVec 5) : Prop :=
  (∀ l ∈ s.cur.vfly, ∀ w ∈ l.runs, w.1 ≠ r) ∧ (s.cur.getV r).fits (lanes s) = true ∧
    ∀ t rs, s.cur.getV r = .runs t rs → ∀ x ∈ rs, 1 ≤ x.count

/-- The vector stream may issue: it holds nothing, and the shape has elements (R159, R220). -/
def VectorReady (s : State) : Prop := Free s .vector ∧ 1 ≤ lanes s

/-- What an issue of the vector stream leaves as it was: until its result lands no register and no byte of memory changes. -/
def VectorFrame (s u : State) : Prop :=
  u.cur.s = s.cur.s ∧ SameFiles s.cur u.cur ∧ SameCsrs s.cur u.cur ∧ u.cur.scalar = s.cur.scalar ∧ u.cur.matrix = s.cur.matrix
    ∧ u.cur.copy = s.cur.copy ∧ u.cur.mfly = s.cur.mfly ∧ u.cur.copies = s.cur.copies ∧ u.cur.stores = s.cur.stores ∧ SameMem s u

/-- A result is in flight, to land in a later cycle within a bound (R89, R90). -/
def InFlight (s u : State) (bound : Nat) (l : VLanding) : Prop :=
  (∃ older, u.cur.vfly = older ++ [l] ∧ older.length = s.cur.vfly.length) ∧ l.id = s.cur.nextOp ∧ s.cycle < l.due ∧ l.due ≤ s.cycle + bound

/-- The vector stream has issued a result and gone on. -/
def VectorIssued (s u : State) (bound : Nat) (l : VLanding) : Prop :=
  InFlight s u bound l ∧ VectorFrame s u ∧ u.cur.vector = seqNext 6 s.cur.vector

/-- The flags that any of some results raises. -/
def flagsOf (xs : List (Word32 × FFlags)) : FFlags := xs.foldr (fun x a => x.2 ||| a) 0

/-- An element-wise instruction as R145 takes it: its sources with the types it reads them as, its mask, whether it reads d, where and
as what the result goes, its bound without and with a mask (R89), and the operation on one element. -/
structure LaneForm where
  instr : Instr
  srcs : List (BitVec 5 × VType)
  mask : VMask
  readsD : Bool
  d : BitVec 5
  t : VType
  c : Bool
  bounds : Nat × Nat
  op : RoundMode → List Word32 → Word32 × FFlags

/-- The registers an element-wise instruction reads (R145). -/
def LaneForm.reads (f : LaneForm) : List (BitVec 5) :=
  f.srcs.map Prod.fst ++ (match f.mask with | some m => [m, f.d] | none => if f.readsD then [f.d] else [])

/-- The registers whose lengths an element-wise instruction checks, in order, with the detail of each (R145, R146). -/
def LaneForm.checked (f : LaneForm) : List (BitVec 5 × Nat) :=
  (f.srcs.map Prod.fst).zipIdx ++ (match f.mask with | some m => [(m, 2), (f.d, 3)] | none => if f.readsD then [(f.d, 3)] else [])

/-- Element j of an element-wise result: the old element where the mask is false, else the operation on the elements of the
sources (R144, R145). -/
def LaneForm.lane (f : LaneForm) (s : State) (j : Nat) : Word32 × FFlags :=
  let old := elemAt s f.d f.t j
  let ops := f.srcs.map (fun r => elemAt s r.1 r.2 j) ++ if f.readsD then [old] else []
  match f.mask with
  | some m => if elemAt s m .i32 j = 0 then (old, 0) else f.op s.cur.vcsr.rm ops
  | none => f.op s.cur.vcsr.rm ops

/-- The forms of two floating or integer sources. -/
def laneForms3 (o : VArgs3) : List LaneForm :=
  let two (i : Instr) (b : Nat × Nat) (op : RoundMode → List Word32 → Word32 × FFlags) : LaneForm :=
    { instr := i, srcs := [(o.a, o.t), (o.b, o.t)], mask := o.mask, readsD := false, d := o.d, t := o.t, c := o.c, bounds := b, op := op }
  let cmp (i : Instr) (k : Cond) : LaneForm := { two i (22, 28) (fun _ => fpCmp o.t k) with t := .i32 }
  [two (.vadd o) (22, 28) (fpAdd o.t), two (.vsub o) (22, 28) (fpSub o.t), two (.vmul o) (22, 28) (fpMul o.t),
   { two (.vfma o) (28, 28) (fpFma o.t false) with readsD := true }, { two (.vfnma o) (28, 28) (fpFma o.t true) with readsD := true },
   two (.vdiv o) (40, 40) (fpDiv o.t),
   two (.vmin o) (22, 28) (fun _ => fpMinMax o.t false false), two (.vminNum o) (22, 28) (fun _ => fpMinMax o.t false true),
   two (.vmax o) (22, 28) (fun _ => fpMinMax o.t true false), two (.vmaxNum o) (22, 28) (fun _ => fpMinMax o.t true true),
   cmp (.vcmpEq o) .eq, cmp (.vcmpLt o) .lt, cmp (.vcmpLe o) .le, cmp (.vcmpUnord o) .unord, cmp (.vcmpNe o) .ne, cmp (.vcmpGt o) .gt,
   cmp (.vcmpGe o) .ge, cmp (.vcmpOrd o) .ord,
   two (.vand o) (22, 28) (fun _ => int2 o.t fun a b => a &&& b), two (.vor o) (22, 28) (fun _ => int2 o.t fun a b => a ||| b),
   two (.vxor o) (22, 28) (fun _ => int2 o.t fun a b => a ^^^ b), two (.vandn o) (22, 28) (fun _ => int2 o.t fun a b => a &&& ~~~ b)]

/-- The integer forms. -/
def laneFormsI (o : VArgsI) : List LaneForm :=
  let two (i : Instr) (op : Word32 → Word32 → Word32) : LaneForm :=
    { instr := i, srcs := [(o.a, .i32), (o.b, .i32)], mask := o.mask, readsD := false, d := o.d, t := .i32, c := o.c, bounds := (22, 28)
      op := fun _ vs => (op (vs[0]?.getD 0) (vs[1]?.getD 0), 0) }
  [two (.viadd o) fun a b => BitVec.ofInt 32 (a.toInt + b.toInt), two (.visub o) fun a b => BitVec.ofInt 32 (a.toInt - b.toInt),
   two (.vimul o) fun a b => BitVec.ofInt 32 (a.toInt * b.toInt), two (.vsll o) fun a b => BitVec.ofNat 32 (a.toNat * 2 ^ (b.toNat % 32)),
   two (.vsrl o) fun a b => BitVec.ofNat 32 (a.toNat / 2 ^ (b.toNat % 32)), two (.vsra o) fun a b => BitVec.ofInt 32 (a.toInt / 2 ^ (b.toNat % 32)),
   two (.vimin o) fun a b => if a.toInt ≤ b.toInt then a else b, two (.vimax o) fun a b => if a.toInt ≤ b.toInt then b else a,
   two (.viminu o) fun a b => if a.toNat ≤ b.toNat then a else b, two (.vimaxu o) fun a b => if a.toNat ≤ b.toNat then b else a]

/-- The forms of one source. -/
def laneForms2 (o : VArgs2) : List LaneForm :=
  let one (i : Instr) (b : Nat × Nat) (op : RoundMode → List Word32 → Word32 × FFlags) : LaneForm :=
    { instr := i, srcs := [(o.a, o.t)], mask := o.mask, readsD := false, d := o.d, t := o.t, c := o.c, bounds := b, op := op }
  [one (.vsqrt o) (40, 40) (fpSqrt o.t), one (.vabs o) (22, 28) (fun _ => fpAbs o.t), one (.vneg o) (22, 28) (fun _ => fpNeg o.t),
   one (.vrint o) (22, 28) (fpRint o.t)]

/-- The special functions. -/
def laneForms1 (o : VArgs1) : List LaneForm :=
  let one (i : Instr) (k : Sfu) : LaneForm :=
    { instr := i, srcs := [(o.a, o.t)], mask := none, readsD := false, d := o.d, t := o.t, c := o.c, bounds := (40, 40), op := fun _ => fpSfu k o.t }
  [one (.vexp2 o) .exp2, one (.vlog2 o) .log2, one (.vrcp o) .rcp, one (.vrsq o) .rsq, one (.vtanh o) .tanh, one (.vsin o) .sin,
   one (.vcos o) .cos, one (.verf o) .erf]

/-- VCVT and VSEL. -/
def laneFormCvt (o : VCvtArgs) : LaneForm :=
  { instr := .vcvt o, srcs := [(o.a, o.src)], mask := o.mask, readsD := false, d := o.d, t := o.t, c := o.c, bounds := (22, 28), op := cvtOp o.src o.t }
def laneFormSel (o : VSelArgs) : LaneForm :=
  { instr := .vsel o, srcs := [(o.a, o.t), (o.b, o.t), (o.m, .i32)], mask := none, readsD := false, d := o.d, t := o.t, c := o.c, bounds := (28, 28)
    op := fun _ vs => (if vs[2]?.getD 0 ≠ 0 then vs[0]?.getD 0 else vs[1]?.getD 0, 0) }

/-- Every element-wise instruction. -/
def IsLaneForm (f : LaneForm) : Prop :=
  (∃ o, f ∈ laneForms3 o) ∨ (∃ o, f ∈ laneFormsI o) ∨ (∃ o, f ∈ laneForms2 o) ∨ (∃ o, f ∈ laneForms1 o) ∨ (∃ o, f = laneFormCvt o) ∨
    ∃ o, f = laneFormSel o

/-- The largest number of runs a result of the inputs of a form can have (R147). -/
def LaneForm.worst (f : LaneForm) (s : State) : Nat :=
  (f.reads.map fun r => (s.cur.getV r).nruns).sum - (f.reads.length - 1)

/-- A position at which an interval of the inputs begins: a run that is not the last of its register ends there (R145). -/
def runEnds : Nat → List Run → List Nat
  | _, [] => []
  | _, [_] => []
  | n, r :: t => (n + r.count) :: runEnds (n + r.count) t

/-- The number of runs that a result of a form needs: one for each interval, and after coalescing one for each stretch of equal bits
(R145). -/
def LaneForm.needed (f : LaneForm) (s : State) : Nat :=
  let cut (j : Nat) : Bool := f.reads.any fun r => (runEnds 0 ((s.cur.getV r).read .f32 (lanes s))).contains j
  let starts (j : Nat) : Bool :=
    if f.c || s.cur.vcsr.autoc then decide ((f.lane s (j - 1)).1 ≠ (f.lane s j).1) else cut j
  1 + ((List.range (lanes s)).filter fun j => decide (j ≠ 0) && starts j).length

/-- The vector stream stands at its word and holds issue until a cycle within a bound, with the fault that it will take then, if any
(R92, R147). -/
def HoldsIssue (s u : State) (bound : Nat) (f : Option PendFault) : Prop :=
  ∃ due, s.cycle < due ∧ due ≤ s.cycle + bound ∧ u.cur.vector = { s.cur.vector with holdUntil := some due, holdFault := f }

/-- A node of the summation tree of R72 over 2^m indices of some elements, none where it is absent. -/
def treeOver (f : Word32 → Word32 → Word32) : Nat → List Word32 → Option Word32
  | _, [] => none
  | 0, v :: _ => some v
  | m + 1, vs =>
    match treeOver f m (vs.take (2 ^ m)), treeOver f m (vs.drop (2 ^ m)) with
    | some x, some y => some (f x y)
    | some x, none => some x
    | none, y => y

/-- The reductions to an exchange register and their values. -/
def redForms (o : VRedArgs) : List (Instr × (VType → List Run → Word × FFlags)) := [
  (.vredSumT o, redSum sumTree), (.vredSumR o, redSum sumRuns), (.vredMax o, redExtreme true), (.vredMin o, redExtreme false)]

/-- The reductions of rows and their values. -/
def rowForms (o : VArgs1) : List (Instr × (VType → List Run → Word32 × FFlags)) := [
  (.vredrowSum o, sumTree), (.vredrowMax o, fun t => extremeOf t true), (.vredrowMin o, fun t => extremeOf t false)]

/-- The scans, the elements they may have, and the runs of their results. -/
def scanForms (o : VArgs1) (s : State) : List (Instr × Nat × List Run) :=
  let rs := widenRuns o.t ((s.cur.getV o.a).read o.t (lanes s))
  [(.vscanSumI o, 256, elemRuns ((scanSum true o.t (runElems rs)).map Prod.fst)),
   (.vscanSumE o, 256, elemRuns ((scanSum false o.t (runElems rs)).map Prod.fst)),
   (.vscanMaxI o, 65536, scanMaxRuns (redType o.t) [] rs)]

/-- The segment forms: operation, result type, and whether a result covers its segment. -/
def segForms (o : VSegArgs) : List (Instr × SegOp × VType × Bool) := [
  (.vsegsumE o, .sumE, redType o.t, true), (.vsegsumP o, .sumP, redType o.t, false), (.vsegmaxE o, .maxE, redType o.t, true),
  (.vsegcntP o, .cntP, .i32, false)]

/-- The runs of a segment form's result: one for each segment, which are the runs of b (R171). -/
def segRuns (s : State) (o : VSegArgs) (g : SegOp) (spread : Bool) : List Run :=
  let lens := ((s.cur.getV o.b).read .f32 (lanes s)).map fun r => r.count
  (lens.zip (cutRuns lens ((s.cur.getV o.a).read o.t (lanes s)))).map fun x =>
    { val := (g.value o.t x.1 x.2).1, count := if spread then x.1 else 1 }

/-- Runs after the coalescing of a form, if it coalesces (R145, R167). -/
def kept (s : State) (c : Bool) (rs : List Run) : List Run := if c || s.cur.vcsr.autoc then coalesce rs else rs

/-- A group of loaded registers is in flight and the vector stream holds issue until its data has been checked (R162, R163). -/
def GroupLoading (s u : State) (o : VMemArgs) (rs : List (List Run)) : Prop :=
  ∃ l, InFlight s u (64 + 16 * (2 ^ o.g.toNat - 1)) l ∧ l.runs = (groupRegs o.d o.g).zip (rs.map fun x => RunReg.runs o.t x) ∧ l.stores = []
    ∧ VectorFrame s u ∧ u.cur.vector.pc = s.cur.vector.pc ∧ u.cur.vector.holdFault = none
    ∧ ∃ due, u.cur.vector.holdUntil = some due ∧ s.cycle < due ∧ due ≤ s.cycle + 48 + 8 * 2 ^ o.g.toNat

end Sys2Proof.Claims

section
open Sys2Proof Sys2Proof.Machine Sys2Proof.Claims

/-- THE VALUES OF AN ELEMENT-WISE RESULT DO NOT DEPEND ON THE RUNS. Where every register read is readable and VCAP holds the runs that the
result needs, each of the 46 element-wise instructions issues a result whose element j is the operation on the elements j of its sources,
whatever the runs that hold them; it has one run for each interval of its inputs, under .c or autoc one for each stretch of equal bits,
and at most the bound of R147; its flags are those of its elements; and until it lands nothing else changes. The stream goes on where the
bound is within VCAP, and else holds issue until the runs are counted. Where VCAP is too small for the result, nothing goes into flight, d
and VCSR stay, and the held issue ends in F_RUNOVF with the number of runs needed (R145–R147, R149–R157). The cycle of a landing and the
length of a hold are open within their bound (log entry 34). -/
def Obligations.ElementwiseResultsAreElementwise : Prop :=
  ∀ (f : LaneForm) (s : State), IsLaneForm f → VectorReady s → (∀ r ∈ f.reads, RunReadable s r) →
    let bound := if f.mask.isSome then f.bounds.2 else f.bounds.1
    f.needed s ≤ f.worst s ∧
    (s.cur.bind.vcap < f.needed s →
      ∃ u, exec f.instr s = .next u ∧ VectorFrame s u ∧ u.cur.vfly = s.cur.vfly
        ∧ HoldsIssue s u bound (some { flt := flt 0x08 (min (f.needed s) 65535) 0, fpc := pcWord s.cur.vector.pc, finsn := s.insn })) ∧
    (f.needed s ≤ s.cur.bind.vcap → ∃ u l out, exec f.instr s = .next u ∧ InFlight s u bound l ∧ VectorFrame s u
      ∧ (f.worst s ≤ s.cur.bind.vcap → u.cur.vector = seqNext 6 s.cur.vector)
      ∧ (s.cur.bind.vcap < f.worst s → HoldsIssue s u bound none)
      ∧ l.runs = [(f.d, .runs f.t out)] ∧ l.ereg = none ∧ l.mreg = none ∧ l.stores = []
      ∧ runElems out = (List.range (lanes s)).map (fun j => (f.lane s j).1)
      ∧ l.flags = flagsOf ((List.range (lanes s)).map (f.lane s))
      ∧ out.length = f.needed s ∧ (∀ x ∈ out, 1 ≤ x.count)
      ∧ ((f.c || s.cur.vcsr.autoc) = true → ∀ i, i + 1 < out.length → (out[i]?.map Run.val) ≠ (out[i + 1]?.map Run.val)))

/-- An element-wise instruction one of whose registers has not the length N raises F_SHAPE, with the detail of the first that fails in the
order a, b, mask, d: 0 for a, 1 for b, 2 for the mask or VSEL's third source, 3 for d; nothing is written (R145, R146). -/
def Sys2Proof.Claims.WrongShapesFault : Prop :=
  ∀ (f : LaneForm) (s : State), IsLaneForm f → Free s .vector → s.cur.vfly = [] →
    ∀ (before after : List (BitVec 5 × Nat)) (r : BitVec 5) (n : Nat), f.checked = before ++ (r, n) :: after →
      (∀ x ∈ before, (s.cur.getV x.1).fits (lanes s) = true) → (s.cur.getV r).fits (lanes s) = false →
        exec f.instr s = .next (s.raise .vector (flt 0x09 n 0))

/-- VRED puts the reduction of a readable register into e at its landing; VRCNT and VRLEN put its runs and its length there, of a ZERO
register 1 and N (R22, R168, R172). -/
def Sys2Proof.Claims.ReductionsLandInExchangeRegisters : Prop :=
  (∀ (o : VRedArgs) (s : State), ∀ f ∈ redForms o, VectorReady s → RunReadable s o.a →
    let v := f.2 o.t ((s.cur.getV o.a).read o.t (lanes s))
    ∃ u l, exec f.1 s = .next u ∧ VectorIssued s u 48 l ∧ l.ereg = some (o.e, v.1) ∧ l.flags = v.2 ∧ l.runs = [] ∧ l.stores = []) ∧
  (∀ (e : BitVec 3) (a : BitVec 5) (s : State), VectorReady s → RunReadable s a →
    (∃ u l, exec (.vrcnt e a) s = .next u ∧ VectorIssued s u 22 l ∧ l.flags = 0
      ∧ l.ereg = some (e, BitVec.ofNat 64 (match s.cur.getV a with | .zero => 1 | .runs _ rs => rs.length))) ∧
    (∃ u l, exec (.vrlen e a) s = .next u ∧ VectorIssued s u 22 l ∧ l.flags = 0 ∧ l.ereg = some (e, BitVec.ofNat 64 (lanes s))))

/-- The sum tree of R72 depends on the elements alone: over any runs it is the tree over their elements, and the integer sum is the
sum of the elements (R72, R73). -/
def Sys2Proof.Claims.SumsDependOnElementsAlone : Prop :=
  (∀ (m : Nat) (rs : List Run), (∀ r ∈ rs, 1 ≤ r.count) → runsLen rs ≤ 2 ^ m →
    (treeF32 m rs).map Prod.fst = treeOver (fun a b => (addF32 a b).1) m (runElems rs)) ∧
  (∀ rs : List Run, sumInt rs = ((runElems rs).map fun v => v.toInt).sum)

/-- VREDROW gives one element for each row, the reduction of the row's elements; the scans and segment forms give the runs of R170 and
R171; each result that VCAP can hold goes into flight (R167, R169–R171). -/
def Sys2Proof.Claims.RowScanAndSegmentResults : Prop :=
  (∀ (o : VArgs1) (s : State), ∀ f ∈ rowForms o, VectorReady s → RunReadable s o.a → s.cur.rows ≤ s.cur.bind.vcap →
    let rows := (cutRuns (List.replicate s.cur.rows s.cur.cols) ((s.cur.getV o.a).read o.t (lanes s))).map (f.2 o.t)
    ∃ u l, exec f.1 s = .next u ∧ VectorIssued s u 56 l ∧ l.stores = [] ∧ rows.length = s.cur.rows
      ∧ l.runs = [(o.d, .runs (redType o.t) (kept s o.c (rows.map fun v => { val := v.1, count := 1 })))]) ∧
  (∀ (o : VArgs1) (s : State), ∀ f ∈ scanForms o s, VectorReady s → RunReadable s o.a → lanes s ≤ f.2.1 → f.2.2.length ≤ s.cur.bind.vcap →
    ∃ u l, exec f.1 s = .next u ∧ VectorIssued s u 64 l ∧ l.stores = [] ∧ l.runs = [(o.d, .runs (redType o.t) (kept s o.c f.2.2))]) ∧
  (∀ (o : VSegArgs) (s : State), ∀ f ∈ segForms o, VectorReady s → RunReadable s o.a → RunReadable s o.b →
    (segRuns s o f.2.1 f.2.2.2).length ≤ s.cur.bind.vcap →
    ∃ u l, exec f.1 s = .next u ∧ VectorIssued s u 64 l ∧ l.stores = []
      ∧ l.runs = [(o.d, .runs f.2.2.1 (kept s o.c (segRuns s o f.2.1 f.2.2.2)))])

/-- A cut of runs into rows cuts their elements: piece r holds the elements r × cols to r × cols + cols − 1 (R169). -/
def Sys2Proof.Claims.RowsAreCutByElements : Prop :=
  ∀ (rows cols : Nat) (rs : List Run), runsLen rs = rows * cols → ∀ r, r < rows →
    ((cutRuns (List.replicate rows cols) rs)[r]?.map runElems) = some (((runElems rs).drop (r * cols)).take cols)

/-- VRCOAL merges adjacent runs of equal bits and keeps the elements and a ZERO tag; VIOTA gives element i the value i; VSPLAT and
VSPLATI give one run over N (R22, R172–R174). -/
def Obligations.ConstantsAndCoalescing : Prop :=
  ∀ s : State, VectorReady s → 1 ≤ s.cur.bind.vcap →
    (∀ d a : BitVec 5, (∀ l ∈ s.cur.vfly, ∀ w ∈ l.runs, w.1 ≠ a) →
      ∃ u l, exec (.vrcoal d a) s = .next u ∧ VectorIssued s u 22 l ∧ l.flags = 0 ∧ l.stores = [] ∧
        (match s.cur.getV a with
        | .zero => l.runs = [(d, .zero)]
        | .runs t rs => ∃ out, l.runs = [(d, .runs t out)] ∧ runElems out = runElems rs
            ∧ ∀ i, i + 1 < out.length → (out[i]?.map Run.val) ≠ (out[i + 1]?.map Run.val))) ∧
    (∀ (d : BitVec 5) (t : VType), lanes s ≤ s.cur.bind.vcap →
      ∃ u l out, exec (.viota d t) s = .next u ∧ VectorIssued s u 22 l ∧ l.stores = [] ∧ l.runs = [(d, .runs t out)]
        ∧ runElems out = (List.range (lanes s)).map (fun i => (iotaElem t i).1)
        ∧ (t = .i32 → runElems out = (List.range (lanes s)).map (fun i => BitVec.ofNat 32 i))) ∧
    (∀ (d r : BitVec 5) (t : VType),
      ∃ u l, exec (.vsplat d r t) s = .next u ∧ VectorIssued s u 22 l ∧ l.flags = 0 ∧ l.stores = []
        ∧ l.runs = [(d, .runs t [{ val := BitVec.ofNat 32 ((s.getS r).toNat % if t = .bf16 then 65536 else 2 ^ 32), count := lanes s }])]) ∧
    (∀ (d : BitVec 5) (imm : BitVec 16),
      ∃ u l, exec (.vsplati d imm) s = .next u ∧ VectorIssued s u 22 l ∧ l.flags = 0 ∧ l.stores = []
        ∧ l.runs = [(d, .runs .f32 [{ val := BitVec.ofNat 32 (imm.toNat * 65536), count := lanes s }])])

/-- VSHAPE sets rows to bits [7:0] plus 1 and columns to bits [15:8] plus 1 of the immediate or of the scalar register, ignores the
register's other bits, and changes nothing else (R159). -/
def Obligations.ShapeIsSet : Prop :=
  (∀ (cols rows : BitVec 8) (s : State), Free s .vector →
    exec (.vshapeImm cols rows) s = .next ((s.upd fun t => { t with rows := rows.toNat + 1, cols := cols.toNat + 1 }).advance .vector)) ∧
  (∀ (r : BitVec 5) (s : State), Free s .vector →
    exec (.vshapeReg r) s =
      .next ((s.upd fun t => { t with rows := (s.getS r).toNat % 256 + 1, cols := (s.getS r).toNat / 256 % 256 + 1 }).advance .vector))

/-- VLD and VLDR whose checks pass and whose data is legal bring the rows of their tensor into a group of registers; VST and VSTR send the
elements or the records of a group to theirs; memory changes only when the stores land (R160–R164). How long issue is held is open
within the bound (log entry 36). -/
def Sys2Proof.Claims.VectorLoadsAndStores : Prop :=
  ∀ (o : VMemArgs) (s : State), Free s .vector →
    let x := s.vmTensor o
    let row0 := s.vmRow o
    let g := 2 ^ o.g.toNat
    let es := elemBits (typeFmt o.t) / 8
    let view := s.seeing s.cur.vStores
    let foots := rowFoots x s.cur.key.core row0 (List.replicate (g * s.cur.rows) s.cur.cols)
    let inShape := lanes s ≤ 4096 ∧ s.cur.cols ≤ x.e0 ∧ row0 + g * s.cur.rows ≤ x.e1
    (∀ rs, s.vmCheck x (typeFmt o.t) es .load foots = .ok () → inShape →
      (List.range g).mapM (fun j => view.vldReg x es s.cur.rows s.cur.cols (row0 + j * s.cur.rows)) = .ok rs →
      (∀ r ∈ rs, r.length ≤ s.cur.bind.vcap) → ∃ u, exec (.vld o) s = .next u ∧ GroupLoading s u o rs) ∧
    (∀ rs, s.vmCheck x 7 8 .load (rowFoots x s.cur.key.core row0 (List.replicate g x.e0)) = .ok () → x.e0 ≤ 2048 → row0 + g ≤ x.e1 →
      (List.range g).mapM (fun j => view.vldrFrom x o.t (row0 + j) (lanes s) x.e0 0 0 []) = .ok rs →
      (∀ r ∈ rs, r.length ≤ s.cur.bind.vcap) → ∃ u, exec (.vldr o) s = .next u ∧ GroupLoading s u o rs) ∧
    ((∀ r ∈ groupRegs o.d o.g, RunReadable s r) → s.vmCheck x (typeFmt o.t) es .store foots = .ok () → inShape →
      ∃ u l, exec (.vst o) s = .next u ∧ VectorIssued s u (64 + 16 * (g - 1)) l ∧ l.runs = [] ∧ l.flags = 0
        ∧ l.stores = s.engineStores .release (((groupRegs o.d o.g).map s.cur.getV).zipIdx.flatMap fun p =>
            ((runElems (p.1.read o.t (lanes s))).zipIdx).flatMap fun q =>
              s.rowCells x (row0 + p.2 * s.cur.rows + q.2 / s.cur.cols) (q.2 % s.cur.cols * es) (bytesOf es q.1.toNat))) ∧
    ((∀ r ∈ groupRegs o.d o.g, RunReadable s r ∧ (s.cur.getV r).nruns ≤ x.e0) → x.e0 ≤ 2048 → row0 + g ≤ x.e1 →
      s.vmCheck x 7 8 .store (rowFoots x s.cur.key.core row0 ((groupRegs o.d o.g).map fun r => (s.cur.getV r).nruns)) = .ok () →
      ∃ u l, exec (.vstr o) s = .next u ∧ VectorIssued s u (64 + 16 * (g - 1)) l ∧ l.runs = [] ∧ l.flags = 0
        ∧ l.stores = s.engineStores .release (((groupRegs o.d o.g).map s.cur.getV).zipIdx.flatMap fun p =>
            ((p.1.read o.t (lanes s)).zipIdx).flatMap fun q =>
              s.rowCells x (row0 + p.2) (8 * q.2) (bytesOf 4 q.1.val.toNat ++ bytesOf 4 q.1.count)))

/-- VFROMM reads a row or column of a FULL matrix register into a run register, and blocks while the register is EMPTY; VTOM writes a
row or column; VMOV copies a group whole; the full/empty bit changes at the landing (R165, R166, R179). -/
def Sys2Proof.Claims.MatrixRowsAndGroupMoves : Prop :=
  (∀ (o : VTileArgs) (s : State), Free s .vector → o.mr.toNat < s.cur.bind.mregs → s.vsIdx o < 128 → lanes s = 128 →
    ((s.cur.getM o.mr).full = false → exec (.vfromm o) s = .next s) ∧
    ((s.cur.getM o.mr).full = true → 128 ≤ s.cur.bind.vcap →
      let vs := (lineElems o.col (s.vsIdx o)).map fun i => fromA80 o.t s.cur.vcsr.rm (s.cur.readElem o.mr s.freeCtr i)
      ∃ u l, exec (.vfromm o) s = .next u ∧ VectorIssued s u 40 l ∧ l.runs = [(o.d, .runs o.t (coalesce (elemRuns (vs.map Prod.fst))))]
        ∧ (o.ef = true → l.mreg = some o.mr ∧ l.full = some false) ∧ (o.ef = false → l.mreg = none)) ∧
    (RunReadable s o.d →
      ∃ u l, exec (.vtom o) s = .next u ∧ VectorIssued s u 40 l ∧ l.mreg = some o.mr ∧ l.runs = []
        ∧ l.elems = (lineElems o.col (s.vsIdx o)).zip ((List.range 128).map fun j => toA80 o.t (elemAt s o.d o.t j))
        ∧ l.full = (if o.ef then some true else none))) ∧
  (∀ (d a : BitVec 5) (g : BitVec 2) (s : State), Free s .vector →
    (groupsClash d a g = true → exec (.vmov d a g) s = .next (s.raise .vector (flt 0x0A 0 0))) ∧
    (groupsClash d a g = false → s.cur.vfly = [] →
      ∃ u l, exec (.vmov d a g) s = .next u ∧ VectorIssued s u (22 + 8 * (2 ^ g.toNat - 1)) l ∧ l.flags = 0
        ∧ l.runs = (groupRegs d g).zip ((groupRegs a g).map s.cur.getV)))

/-- VSETRM completes and sets the rounding mode; VLAND, VEND and VCLRF complete once every result of the stream has landed: they go on, end
the stream, and clear the named flags; until then, and while the stream holds issue, they wait with no effect (R175, R220). -/
def Sys2Proof.Claims.VectorControl : Prop :=
  (∀ (s : State) (rm : RoundMode), Free s .vector →
    exec (.vsetrm rm) s = .next ((s.upd fun t => { t with vcsr := { t.vcsr with rm := rm } }).advance .vector)) ∧
  (∀ s : State, Free s .vector → s.cur.vfly = [] → exec .vland s = .next (s.advance .vector)) ∧
  (∀ (s : State) (flags : BitVec 5), Free s .vector → s.cur.vfly = [] →
    exec (.vclrf flags) s =
      .next ((s.upd fun t => { t with vcsr := { t.vcsr with flags := t.vcsr.flags &&& ~~~ flags } }).advance .vector)) ∧
  (∀ s : State, Free s .vector → s.cur.vfly = [] →
    ∃ u, exec .vend s = .next u ∧ u = (s.upd fun t => { t with vector := u.cur.vector }) ∧ u.cur.vector.ended = true
      ∧ u.cur.vector.pc = s.cur.vector.pc) ∧
  (∀ (s : State) (flags : BitVec 5), s.cur.vfly ≠ [] → exec .vland s = .next s ∧ exec .vend s = .next s ∧ exec (.vclrf flags) s = .next s) ∧
  (∀ (s : State) (rm : RoundMode) (flags : BitVec 5), ¬ Free s .vector →
    exec (.vsetrm rm) s = .next s ∧ exec .vland s = .next s ∧ exec .vend s = .next s ∧ exec (.vclrf flags) s = .next s)

/-- The bytes of some stores stand in memory, and every other byte is as before. -/
def Sys2Proof.Claims.StoresPerformed (s u : State) (ps : List PendStore) : Prop :=
  (s.bad = [] → (∀ p ∈ ps, NotLost s p.va.toNat) → ((ps.flatMap fun p => p.bytes).map Prod.fst).Nodup →
    ∀ c ∈ ps.flatMap fun p => p.bytes, u.byteAt c.1 = c.2) ∧
  ∀ a, (∀ c ∈ ps.flatMap fun p => p.bytes, c.1 ≠ a) → u.byteAt a = s.byteAt a

/-- A result lands in its registers: run registers, an exchange register, elements of a matrix register and its full/empty bit, with an EMPTY
one's poison mask and step count cleared, the flags ORed into VCSR, and its stores performed; it leaves the list of results in flight, and
no other register changes (R90, R179). -/
def Sys2Proof.Claims.VectorResultsLand : Prop :=
  ∀ (s : State) (l : VLanding) (before after : List VLanding), let t := seen s
    t.cur.vfly = before ++ l :: after → l.id = s.ev.num → (∀ x ∈ before ++ after, x.id ≠ l.id) →
    (∀ x ∈ before ++ after, x.id < l.id → x.clash l = false) → (∀ p ∈ l.stores, t.storeOpen p = true) → (l.runs.map Prod.fst).Nodup →
      ∃ u, exec .vectorLanding s = .next (back s u) ∧ u.cur.vfly = before ++ after
        ∧ u.cur.vcsr = { t.cur.vcsr with flags := t.cur.vcsr.flags ||| l.flags }
        ∧ (∀ w ∈ l.runs, u.cur.getV w.1 = w.2) ∧ (∀ q, (∀ w ∈ l.runs, w.1 ≠ q) → u.cur.getV q = t.cur.getV q)
        ∧ (∀ e v, l.ereg = some (e, v) → u.cur.getE e = v ∧ ∀ q, q ≠ e → u.cur.getE q = t.cur.getE q)
        ∧ (l.ereg = none → u.cur.e = t.cur.e) ∧ (l.mreg = none → u.cur.m = t.cur.m)
        ∧ (∀ m, l.mreg = some m → (∀ q, q ≠ m → u.cur.getM q = t.cur.getM q)
            ∧ (u.cur.getM m).tile = tileSets (t.cur.getM m).tile l.elems
            ∧ (l.full = some true → (u.cur.getM m).full = true)
            ∧ (l.full = some false → (u.cur.getM m).full = false ∧ (u.cur.getM m).pmask = 0 ∧ (u.cur.getM m).nsteps = 0)
            ∧ (l.full = none → (u.cur.getM m).full = (t.cur.getM m).full))
        ∧ u.cur.s = t.cur.s ∧ u.cur.h = t.cur.h ∧ u.cur.k = t.cur.k ∧ StoresPerformed t u l.stores

/-- A stream's hold of issue is over. -/
def Sys2Proof.Claims.holdOver (t : State) (e : Stream) : State := t.updStr e fun x => { x with holdUntil := none, holdFault := none }

/-- Every byte that an MLDA of the acting thread reads on another die has crossed its circuit (R342, R343). -/
def Sys2Proof.Claims.DataHere (t : State) : Prop := ∀ l ∈ t.cur.mfly, ∀ q ∈ l.loads, q.ch = none

/-- RUN_COUNT, VLD_DATA_CHECK and MLDA_DATA_CHECK complete: the stream that holds issue, the vector stream for the first two, the matrix
stream for the last, which first waits for its data's frames, goes on in sequence where no fault was found, and takes at its word the
fault that was; with no hold nothing changes (R92, R147, R163, R189). -/
def Sys2Proof.Claims.HoldsEnd : Prop :=
  ∀ p ∈ [(Instr.runCount, Stream.vector), (Instr.vldDataCheck, Stream.vector), (Instr.mldaDataCheck, Stream.matrix)],
    (∀ (s : State) (due : Nat), (p.2 = .matrix → DataHere (seen s)) → ((seen s).cur.str p.2).holdUntil = some due →
      ((seen s).cur.str p.2).holdFault = none → exec p.1 s = .next (back s ((holdOver (seen s) p.2).advance p.2))) ∧
    (∀ (s : State) (due : Nat) (f : PendFault), (p.2 = .matrix → DataHere (seen s)) → ((seen s).cur.str p.2).holdUntil = some due →
      ((seen s).cur.str p.2).holdFault = some f →
      exec p.1 s = .next (back s ((holdOver (seen s) p.2).raiseAt p.2 f))) ∧
    (∀ s : State, ((seen s).cur.str p.2).holdUntil = none → exec p.1 s = .next (back s (seen s)))

/-- Reductions, row reductions, scans and segment forms issue the results of their rules. -/
def Obligations.ReductionsAndScans : Prop :=
  Sys2Proof.Claims.ReductionsLandInExchangeRegisters ∧ Sys2Proof.Claims.RowScanAndSegmentResults

/-- The sum tree and the cut into rows depend on the elements alone, not on the runs. -/
def Obligations.SumsFollowTheElements : Prop :=
  Sys2Proof.Claims.SumsDependOnElementsAlone ∧ Sys2Proof.Claims.RowsAreCutByElements

/-- Vector loads and stores, rows of matrix registers, and moves of groups. -/
def Obligations.VectorMemoryAndMatrixMoves : Prop :=
  Sys2Proof.Claims.VectorLoadsAndStores ∧ Sys2Proof.Claims.MatrixRowsAndGroupMoves

/-- Shape faults, vector control, the landing of vector results, and the end of holds. -/
def Obligations.VectorControlAndLanding : Prop :=
  Sys2Proof.Claims.WrongShapesFault ∧ Sys2Proof.Claims.VectorControl ∧ Sys2Proof.Claims.VectorResultsLand ∧ Sys2Proof.Claims.HoldsEnd
end

/-! ### The matrix stream -/

namespace Sys2Proof.Claims
open Sys2Proof.Machine

/-- What an issue of the matrix stream leaves as it was: until its result lands no register and no byte of memory changes. -/
def MatrixFrame (s u : State) : Prop :=
  u.cur.s = s.cur.s ∧ SameFiles s.cur u.cur ∧ SameCsrs s.cur u.cur ∧ u.cur.scalar = s.cur.scalar ∧ u.cur.vector = s.cur.vector
    ∧ u.cur.copy = s.cur.copy ∧ u.cur.vfly = s.cur.vfly ∧ u.cur.copies = s.cur.copies ∧ u.cur.stores = s.cur.stores ∧ SameMem s u

/-- A matrix result is in flight, issued now, to land in a later cycle within a bound (R89, R90). -/
def MatrixInFlight (s u : State) (bound : Nat) (l : MLanding) : Prop :=
  (∃ older, u.cur.mfly = older ++ [l] ∧ older.length = s.cur.mfly.length) ∧ l.id = s.cur.nextOp ∧ l.issued = s.cycle ∧ s.cycle < l.due
    ∧ l.due ≤ s.cycle + bound

/-- The matrix stream has issued a result and gone on. -/
def MatrixIssued (s u : State) (bound : Nat) (l : MLanding) : Prop :=
  MatrixInFlight s u bound l ∧ MatrixFrame s u ∧ u.cur.matrix = seqNext 6 s.cur.matrix

/-- A tile as every operation leaves it: entries rising, within the 128 × 128 elements. -/
def TileOk (x : Tile) : Prop := (x.map Prod.fst).Pairwise (· < ·) ∧ ∀ e ∈ x, e.1 < 16384

/-- No write of a matrix register is in flight (R91). -/
def TileQuiet (s : State) (m : BitVec 3) : Prop := (∀ l ∈ s.cur.mfly, l.mreg ≠ some m) ∧ ∀ l ∈ s.cur.vfly, l.mreg ≠ some m

/-- The multiply forms; `trans` reads the second operand with k on dimension 1 (R181). -/
def mmaForms (o : MmaArgs) : List (Instr × Bool) := [(.mma o, false), (.mmat o, true)]

/-- Blocks k · per to (k + 1) · per − 1 of a line: those of K-step k. -/
def stepBlocks (per k : Nat) (line : List MBlock) : List MBlock := (line.drop (k * per)).take per

/-- Element (i, j) of an accumulator after n K-steps: each adds the sum over the step's blocks of row i of A and column j of B, or +0
where A has no row i or B no column j (R67, R181). -/
def mmaElement (as bs : List (List MBlock)) (per i j : Nat) (start : A80) : Nat → A80
  | 0 => start
  | n + 1 => accStep (mmaElement as bs per i j start n)
      (if i < as.length ∧ j < bs.length then stepSum (stepBlocks per n (as[i]?.getD [])) (stepBlocks per n (bs[j]?.getD [])) else FVal.zero)

/-- Row r of a tile that an MLDA reads: element numbers and values (R189). -/
def mldaRow (s : State) (x : Tensor) (o : MldaArgs) (r : Nat) : Chk (List (Nat × A80)) :=
  (List.range 128).mapM fun c =>
    ((s.seeing s.cur.mStores).rowBytes x r (c * (elemBits x.fmt / 8)) (elemBits x.fmt / 8)).map fun bs =>
      (128 * (rowFirst o.rm + r) + c, toA80 (mldaType x.fmt) (BitVec.ofNat 32 (ofBytes bs)))

/-- The bytes of row r that an MSTQ writes: codes, and the headers of its blocks (R191). -/
def mstqRow (s : State) (x : Tensor) (o : MstaArgs) (bs r : Nat) : List (Nat × Nat × Byte) :=
  let qs := (chunksOf bs 128 (s.storedRow o.md (rowFirst o.rm + r))).map quantBlock
  s.rowCells x r 0 (packNibbles (qs.flatMap Prod.snd)) ++
    (qs.zipIdx.flatMap fun q =>
      let a := x.base + BitVec.ofNat 64 (x.hdr + 4 * (x.hdrIndex bs 0 r 0 + q.2))
      (bytesOf 4 q.1.1).zipIdx.map fun b =>
        let va := (x.va s.cur.key.core (a + BitVec.ofNat 64 b.2)).toNat
        (va, s.tensorKey x va, b.1))

/-- The rows of a matrix load or store: within the tensor, aligned, not wrongly swizzled, and admitted (R188). -/
def RowsAdmitted (s : State) (x : Tensor) (kind : AccKind) (fs : List (Nat × Nat)) (rows : Nat) : Prop :=
  x.space < 2 ∧ x.swzBad = false ∧ s.spaceCheck x kind fs = none ∧ x.e2 = 1 ∧ 128 ≤ x.e0 ∧ rows ≤ x.e1

/-- The base and stride are aligned to elements of es bytes. -/
def RowsAligned (x : Tensor) (es : Nat) : Prop := x.base.toNat % es = 0 ∧ x.str1 % (es : Int) = 0

/-- A result that lands alone: the landing event takes it, no older result to the same place is to land first, and it met no storage
error (R90). -/
def LandsAlone (t : State) (l : MLanding) (before after : List MLanding) : Prop :=
  t.cur.mfly = before ++ l :: after ∧ (∀ x ∈ before ++ after, x.id ≠ l.id) ∧ (∀ x ∈ before ++ after, x.id < l.id → x.clash l = false)
    ∧ l.eccAt = none

end Sys2Proof.Claims

section
open Sys2Proof Sys2Proof.Machine Sys2Proof.Claims

/-- AN MMA COMPUTES ELEMENT BY ELEMENT. MMA and MMAT whose checks pass issue a result whose element (i, j) is the chain of K-steps over
row i of A and column j of B, from +0 under z and else from what the register holds once every earlier matrix result has landed (an
element that a VTOM in flight writes is open, R91); with z the scale
product is that of the operands' scales; with f the register becomes FULL and a record is due. A FULL register, or eight held records
under f, blocks it without effect (R67, R181–R186). -/
def Obligations.MatrixProductsAreElementwise : Prop :=
  ∀ (o : MmaArgs) (s : State), ∀ f ∈ mmaForms o, Free s .matrix → o.md.toNat < s.cur.bind.mregs →
    (((s.cur.getM o.md).full = true ∨ (o.f = true ∧ 8 ≤ s.heldMma s.cur)) → exec f.1 s = .next s) ∧
    (∀ step, (s.cur.getM o.md).full = false → (o.f = true → s.heldMma s.cur < 8) →
      let e := s.cur.selectFt o.fs
      let a := (s.cur.getH o.ha).tensor (offTerm (s.cur.getOm o.ao) s.cur.matrix)
      let b := (s.cur.getH o.hb).tensor (offTerm (s.cur.getOm o.bo) s.cur.matrix)
      let bs := if e.lbs = 0 then step else 2 ^ e.lbs
      let view := s.seeing s.cur.mStores
      let as := view.mmaLines a bs a.e0 e.x8a false a.e1
      let bl := view.mmaLines b bs a.e0 e.x8b f.2 (b.lines f.2)
      let n := (a.e0 + step - 1) / step
      let old := s.cur.chainTile o.md s.freeCtr
      e.mmaStep = some step → s.mmaCheck e step f.2 a b = .ok () → (o.z = false → TileOk old) →
        ∃ u l, exec f.1 s = .next u ∧ MatrixIssued s u (24 + 128 * n) l ∧ l.mreg = some o.md ∧ l.lo = 0 ∧ l.hi = 128 ∧ l.frames.length = n
          ∧ (∀ i j, i < 128 → j < 128 →
              tileGet l.tile (128 * i + j) = mmaElement as bl (step / bs) i j (if o.z then 0 else tileGet old (128 * i + j)) n)
          ∧ l.nsteps = BitVec.ofNat 32 n ∧ l.restart = o.z ∧ l.ts = (if o.z then some (fmul a.tscale b.tscale).toA80 else none)
          ∧ l.full = (if o.f then some true else none) ∧ l.post = o.f ∧ l.stores = [])

/-- MLDA brings rows of a tensor into a register that is EMPTY, with the stream holding issue until its data has been checked; MSTA and
MSTQ send rows of a register, converted, to a tensor, what goes to other dies in chunks of 4 KiB; memory changes only when their stores
land (R188–R192, R343). How long issue is held is open within the bound (log entry 36). -/
def Obligations.MatrixLoadsAndStores : Prop :=
  (∀ (o : MldaArgs) (s : State), Free s .matrix → o.md.toNat < s.cur.bind.mregs → let x := s.msTensor o.h o.om
    let rows := rowCount o.rm
    let foots := x.msFoots s.cur.key.core rows
    ((s.cur.getM o.md).full = true → exec (.mlda o) s = .next s) ∧
    (∀ es, (s.cur.getM o.md).full = false → (x.fmt = 0 ∨ x.fmt = 1 ∨ x.fmt = 6) → RowsAligned x (elemBits x.fmt / 8) →
      RowsAdmitted s x .load foots rows → (x.space = 0 ∨ s.tagsAre x.swz foots = true) →
      (List.range rows).mapM (mldaRow s x o) = .ok es →
        ∃ u l, exec (.mlda o) s = .next u ∧ MatrixInFlight s u 160 l ∧ MatrixFrame s u ∧ u.cur.matrix.pc = s.cur.matrix.pc
          ∧ u.cur.matrix.holdFault = none ∧ (∃ due, u.cur.matrix.holdUntil = some due ∧ s.cycle < due ∧ due ≤ s.cycle + 96)
          ∧ l.mreg = some o.md ∧ l.lo = rowFirst o.rm ∧ l.hi = rowFirst o.rm + rows ∧ l.tile = tileOf es.flatten ∧ l.ts = some a80One
          ∧ l.full = (if o.e then some true else none) ∧ l.stores = [] ∧ (x.space = 1 → l.loads = []))) ∧
  (∀ (o : MstaArgs) (s : State), Free s .matrix → o.md.toNat < s.cur.bind.mregs → let x := s.msTensor o.h o.om
    let e := s.cur.selectFt o.fs
    let rows := rowCount o.rm
    let foots := x.msFoots s.cur.key.core rows
    let sent (i : Instr) (cells : List (Nat × Nat × Byte)) : Prop := ∃ u l, exec i s = .next u ∧ MatrixIssued s u 160 l
      ∧ l.stores = numberChunks ((s.engineStores .release cells).flatMap PendStore.cut) ∧ l.tile = [] ∧ l.lo = 0 ∧ l.hi = 0
      ∧ l.mreg = (if o.e then some o.md else none) ∧ l.full = (if o.e then some false else none)
    (e.high = 0 → e.ofmt < 4 → x.fmt = e.ofmt → RowsAligned x (elemBits x.fmt / 8) → RowsAdmitted s x .store foots rows →
      sent (.msta o) ((List.range rows).flatMap fun r => s.rowCells x r 0
        ((s.storedRow o.md (rowFirst o.rm + r)).flatMap fun v => bytesOf (elemBits x.fmt / 8) (outBits x.fmt e.rm e.sat v)))) ∧
    (e.high = 0 → e.ofmt = 4 → 3 ≤ e.lbs → e.lbs ≤ 5 → x.fmt = 4 → x.hdr ≠ 0 → x.e0 % 2 ^ e.lbs = 0 →
      (x.base + BitVec.ofNat 64 x.hdr).toNat % 4 = 0 →
      RowsAdmitted s x .store (foots ++ x.msHdrs s.cur.key.core rows (2 ^ e.lbs)) rows →
      sent (.mstq o) ((List.range rows).flatMap (mstqRow s x o (2 ^ e.lbs)))))

/-- The register forms of MCTL: MCLR clears a register to +0, scale 1.0 and EMPTY; MFULL and MEMPTY change the bit at issue; MADD adds two
registers element by element; MSCAL multiplies by a scalar; MTRANS transposes, and blocks while md is FULL; MLAND and MEND wait for every
result (R179, R194). That MTRANS copies the scale product, which R60 does not have it do, is the model's reading (log entry 93). -/
def Obligations.MatrixRegisterForms : Prop :=
  ∀ (md ms : BitVec 3) (rs : BitVec 5) (s : State), Free s .matrix → md.toNat < s.cur.bind.mregs → ms.toNat < s.cur.bind.mregs →
    let a := (s.cur.getM md).tile
    let b := (s.cur.getM ms).tile
    (∃ u l, exec (.mclr md) s = .next u ∧ MatrixIssued s u 16 l ∧ l.mreg = some md ∧ l.lo = 0 ∧ l.hi = 128 ∧ l.tile = []
      ∧ l.ts = some a80One ∧ l.full = some false) ∧
    exec (.mfull md) s = .next ((s.upd fun t => t.setM md { t.getM md with full := true }).advance .matrix) ∧
    exec (.mempty md) s = .next ((s.upd fun t => t.setM md { t.getM md with full := false, pmask := 0, nsteps := 0 }).advance .matrix) ∧
    (∃ u l, exec (.madd md ms) s = .next u ∧ MatrixIssued s u 160 l ∧ l.mreg = some md ∧ l.lo = 0 ∧ l.hi = 128 ∧ l.ts = none
      ∧ l.full = none ∧ (TileQuiet s md → TileQuiet s ms → TileOk a → TileOk b →
          (∀ i, i < 16384 → tileGet l.tile i = a80Add (tileGet a i) (tileGet b i))
            ∧ l.restart = false ∧ l.pmask = (s.cur.getM ms).pmask ∧ l.nsteps = (s.cur.getM ms).nsteps)) ∧
    (∃ u l, exec (.mscal md rs) s = .next u ∧ MatrixIssued s u 160 l ∧ l.mreg = some md ∧ l.lo = 0 ∧ l.hi = 128 ∧ l.ts = none
      ∧ l.full = none ∧ (TileQuiet s md → TileOk a →
          ∀ i, i < 16384 → tileGet l.tile i = a80Mul (tileGet a i) (toA80 .f32 ((s.getS rs).setWidth 32)))) ∧
    ((s.cur.getM md).full = true → exec (.mtrans md ms) s = .next s) ∧
    ((s.cur.getM md).full = false → ∃ u l, exec (.mtrans md ms) s = .next u ∧ MatrixIssued s u 160 l ∧ l.mreg = some md ∧ l.lo = 0
      ∧ l.hi = 128 ∧ l.full = none ∧ (TileQuiet s ms → TileOk b →
          (∀ i j, i < 128 → j < 128 → tileGet l.tile (128 * j + i) = tileGet b (128 * i + j))
            ∧ l.ts = some (s.cur.getM ms).ts ∧ l.restart = true ∧ l.pmask = (s.cur.getM ms).pmask ∧ l.nsteps = (s.cur.getM ms).nsteps)) ∧
    (s.cur.mfly ≠ [] → exec .mland s = .next s ∧ exec .mend s = .next s) ∧
    (s.cur.mfly = [] → exec .mland s = .next (s.advance .matrix) ∧
      ∃ u, exec .mend s = .next u ∧ u.cur.matrix.ended = true ∧ u.cur.matrix.pc = s.cur.matrix.pc ∧ u.cur.mfly = [] ∧ MatrixFrame s u)

/-- A matrix result lands: the register takes the rows, the marks and the full/empty bit, the other registers stay, the stores of an MSTA
or MSTQ are performed once all of them have crossed their circuits, and an MMA with f = 1 posts its record of the register as it then stands (R60, R179,
R183, R186). An MMA that a trap or a pre-emption stops does so at its K-step boundary and lands no more until it goes on (R92, R187). -/
def Sys2Proof.Claims.MatrixResultsAreTaken : Prop :=
  ∀ (s : State) (l : MLanding) (before after : List MLanding), let t := seen s
    LandsAlone t l before after → l.id = s.ev.num →
      let landed := t.upd fun c => c.landM l
      (∀ m, l.mreg = some m → ∀ q, landed.cur.getM q = if q = m then (t.cur.getM m).apply l else t.cur.getM q) ∧
      (l.mreg = none → landed.cur.m = t.cur.m) ∧
      landed.cur.mfly = before ++ after ∧ landed.cur.s = t.cur.s ∧ landed.cur.v = t.cur.v ∧ landed.cur.h = t.cur.h ∧ SameMem s landed ∧
      (l.frames = [] → l.post = false → l.run = .on → l.crossed = true →
        let u := landed.performAll l.stores
        exec .matrixLanding s = .next (back s u) ∧ StoresPerformed t u l.stores ∧ u.cur.m = landed.cur.m ∧ u.cur.s = t.cur.s) ∧
      (l.frames ≠ [] → l.stores = [] →
        (l.run = .on → l.post = false → exec .mmaLanding s = .next (back s landed)) ∧
        (∀ m, l.run = .on → l.post = true → l.mreg = some m → exec .mmaLanding s = .next (back s (landed.complete
          { rcd := mmaRecord m ((t.cur.getM m).apply l), op := none, async := none
            mma := some (t.cur.bind.launch, t.cur.bind.lin), routed := false, bufs := [] }))) ∧
        (∀ k, l.run = .stopping k → s.cycle < l.boundary k → exec .mmaLanding s = .next (back s t)) ∧
        (∀ k, l.run = .stopping k → l.boundary k ≤ s.cycle → exec .mmaLanding s = .next (back s (t.stopMma l k))) ∧
        (l.run = .stopped → exec .mmaLanding s = .next (back s t)))

/-- An MMA that stops after k of its K-steps has landed those k: the register holds the accumulator after them, and the rest stays in flight
with its own K-steps and nothing of the first k (R187, R244). -/
def Sys2Proof.Claims.StoppedMmasKeepTheirSteps : Prop :=
  ∀ (t : State) (l : MLanding) (before after : List MLanding) (k : Nat) (f : MmaFrame) (m : BitVec 3), LandsAlone t l before after →
    l.mreg = some m → l.frames[k]? = some f →
      let u := t.stopMma l (k + 1)
      (u.cur.getM m).tile = ((t.cur.getM m).apply (l.first (k + 1))).tile ∧ (∀ q, q ≠ m → u.cur.getM q = t.cur.getM q)
        ∧ u.cur.mfly = before ++ l.rest (k + 1) :: after ∧ (l.rest (k + 1)).frames.length = l.frames.length - (k + 1)
        ∧ (TileOk (t.cur.getM m).tile → l.lo = 0 → l.hi = 128 → (u.cur.getM m).tile = f.tile)
        ∧ (l.rest (k + 1)).run = .stopped ∧ u.cur.s = t.cur.s ∧ SameMem t u

/-- Matrix results land whole, and MMAs that stop land the K-steps they have done. -/
def Obligations.MatrixResultsLand : Prop := Sys2Proof.Claims.MatrixResultsAreTaken ∧ Sys2Proof.Claims.StoppedMmasKeepTheirSteps
end

/-! ### The copy stream -/

namespace Sys2Proof.Claims
open Sys2Proof.Machine

/-- The forms of CPY with a source and a destination handle, by transform (R200, R201). -/
def cpyForms : List ((CcArgs → Instr) × CopyMajor × Transform) := [
  (.cpy, .cpy, .none), (.cpyCvt, .cpy, .cvt), (.cpyTr2d, .cpy, .tr2d), (.cpySwz, .cpy, .swz), (.cpyRle, .cpy, .rle),
  (.cpyUnrle, .cpy, .unrle), (.cpyQ4, .cpy, .q4), (.cpyDeq, .cpy, .deq), (.cpyGather, .cpy, .gather),
  (.cpyScatter, .cpy, .scatter), (.cpyRadd, .cpy, .radd),
  (.lcpy, .lcpy, .none), (.lcpyCvt, .lcpy, .cvt), (.lcpyRle, .lcpy, .rle), (.lcpyUnrle, .lcpy, .unrle)]

/-- The forms of XCPY and WPUT, by transform (R200). -/
def farForms : List ((CxArgs → Instr) × CopyMajor × Transform) := [
  (.xcpy, .xcpy, .none), (.xcpyCvt, .xcpy, .cvt), (.xcpyRle, .xcpy, .rle), (.xcpyUnrle, .xcpy, .unrle),
  (.wput, .wput, .none), (.wputCvt, .wput, .cvt), (.wputRle, .wput, .rle), (.wputUnrle, .wput, .unrle)]

/-- Every instruction that moves a tensor, with what it asks of the engine: the operands of its form, crc always with a record
(R198, R204). -/
def copyForms (a : CcArgs) (x : CxArgs) (f : CdArgs) : List (Instr × CopyReq) :=
  (cpyForms.map fun p => (p.1 a, { major := p.2.1, tr := p.2.2, hs := a.hs, hd := a.hd, p := a.p, ch := 0, tag := a.tag, post := a.r }))
    ++ (farForms.map fun p => (p.1 x, { major := p.2.1, tr := p.2.2, hs := x.hs, hd := x.hd, p := x.p, ch := x.ch, tag := 0, post := x.r }))
    ++ [(.cpyFill f, { major := .cpy, tr := .fill, hs := 0, hd := f.hd, p := f.p, ch := 0, tag := f.tag, post := f.r }),
      (.cpyCrc { hs := a.hs, hd := a.hd, p := a.p, tag := a.tag },
        { major := .cpy, tr := .crc, hs := a.hs, hd := a.hd, p := a.p, ch := 0, tag := a.tag, post := true }),
      (.lcpyCrc { hs := a.hs, hd := a.hd, p := a.p, tag := a.tag },
        { major := .lcpy, tr := .crc, hs := a.hs, hd := a.hd, p := a.p, ch := 0, tag := a.tag, post := true }),
      (.xcpyCrc { hs := x.hs, hd := x.hd, ch := x.ch, p := x.p },
        { major := .xcpy, tr := .crc, hs := x.hs, hd := x.hd, p := x.p, ch := x.ch, tag := 0, post := true }),
      (.wputCrc { hs := x.hs, hd := x.hd, ch := x.ch, p := x.p },
        { major := .wput, tr := .crc, hs := x.hs, hd := x.hd, p := x.p, ch := x.ch, tag := 0, post := true })]

/-- The atomic operations of CATOM (R205). -/
noncomputable def catomForms (o : CdArgs) : List (Instr × AtomOp) := [
  (.catomAdd o, .add), (.catomAnd o, .and), (.catomOr o, .or), (.catomXor o, .xor), (.catomMin o, .min), (.catomMax o, .max),
  (.catomMinu o, .minu), (.catomMaxu o, .maxu), (.catomSwap o, .swap), (.catomCas o, .cas)]

/-- What an issue of the copy stream leaves as it was: no register and no byte of memory changes, and no other stream. -/
def CopyFrame (s u : State) : Prop :=
  u.cur.s = s.cur.s ∧ SameFiles s.cur u.cur ∧ SameCsrs s.cur u.cur ∧ u.cur.scalar = s.cur.scalar ∧ u.cur.vector = s.cur.vector
    ∧ u.cur.matrix = s.cur.matrix ∧ u.cur.vfly = s.cur.vfly ∧ u.cur.mfly = s.cur.mfly ∧ u.cur.stores = s.cur.stores ∧ SameMem s u

/-- A copy operation has been started: it joins those of the thread under the next number, nothing of it is performed, and the stream
goes on (R196). -/
def Started (s u : State) (o : CopyOp) : Prop :=
  u.cur.copies = s.cur.copies ++ [o] ∧ o.id = s.cur.nextOp ∧ u.cur.nextOp = s.cur.nextOp + 1 ∧ o.done = [] ∧ o.counted = []
    ∧ o.fpc = pcWord s.cur.copy.pc ∧ o.finsn = s.insn ∧ s.cycle < o.due ∧ o.due ≤ s.cycle + 4096
    ∧ u.cur.copy = seqNext 6 s.cur.copy ∧ CopyFrame s u

/-- The destination of a form: the shadow view of a pair, but for LCPY, whose destination is on another module; and the state with the
region marked as a pair (R141, R199). -/
def Shadowed (q : CopyReq) (s : State) (y0 y : Tensor) (s' : State) : Prop :=
  if q.major = .lcpy then y = y0 ∧ s' = s
  else s.toShadow (s.cur.getH q.hd) y0 = .ok y ∧ s' = s.markPair (s.cur.getH q.hd) y

/-- An operation of a slot, replaced. -/
def OpBecomes (t u : State) (o o' : CopyOp) : Prop := u.cur.copies = t.cur.copies.map fun x => if x.id = o.id then o' else x

/-- The event in hand is about an operation of its slot. -/
def EventOp (s : State) (o : CopyOp) : Prop := (seen s).cur.findOp s.ev.num = some o

end Sys2Proof.Claims

section
open Sys2Proof Sys2Proof.Machine Sys2Proof.Claims

/-- COPIES ARE STARTED. An instruction that moves a tensor is blocked without effect while 32 operations are in flight; a named circuit
that it cannot use raises F_NOCIRC before anything else, and values that are not legal raise F_ILLEGAL; with its checks passed it starts
one operation with its operands, footprints and translations as they are at issue, one chunk for each 4 KiB of its image, and changes no
register and no byte of memory (R78, R196–R201, R207, R299). That the link of an LCPY is checked before its addresses is the model's
reading (log entry 104). -/
def Sys2Proof.Claims.CopiesAreStarted : Prop :=
  ∀ (a : CcArgs) (b : CxArgs) (c : CdArgs) (s : State), ∀ f ∈ copyForms a b c, let q := f.2
    let cw := s.param q.p 0
    let tw := if q.tr.hasWord then s.param q.p 1 else 0
    let x := (s.copyTensors q cw).1
    let y0 := (s.copyTensors q cw).2
    (32 ≤ s.cur.copies.length → exec f.1 s = .next s) ∧
    (∀ e, s.cur.copies.length < 32 → s.namedCircuit q.major q.ch.toNat = some e → exec f.1 s = .next (s.raise .copy e)) ∧
    (s.cur.copies.length < 32 → s.namedCircuit q.major q.ch.toNat = none → q.valuesOk cw tw x y0 = false →
      exec f.1 s = .next (s.raise .copy (flt 0x01 4 0))) ∧
    (∀ y s', s.cur.copies.length < 32 → s.namedCircuit q.major q.ch.toNat = none → q.valuesOk cw tw x y0 = true →
      (q.major = .lcpy → s.linkCheck (cw.toNat / 2 ^ 32 % 16) (cw.toNat / 2 ^ 16 % 2 ^ 16) = none) → Shadowed q s y0 y s' →
      s'.copyFault (s'.copyOp q x y cw tw) q.ch.toNat 0 = none → copyShape q.tr x y = none →
        ∃ u o, exec f.1 s = .next u ∧ Started s u o ∧ o.phase = .running ∧ u.tokens = s'.tokens
          ∧ o.major = q.major ∧ o.tr = q.tr ∧ o.ctl = cw ∧ o.tw = tw ∧ o.post = q.post
          ∧ o.x = { x with pages := s'.pagesOf o.rdSpans } ∧ o.y = { y with pages := s'.pagesOf o.wrSpans }
          ∧ o.rdSpans = o.srcFoots s.cur.key.core 0 ++ o.idxFoots
          ∧ o.wrSpans = (if q.major = .lcpy then [] else o.dstFoots s.cur.key.core 0)
          ∧ o.tag = (if q.major = .xcpy ∨ q.major = .wput then cw.toNat / 2 ^ 10 % 64 else q.tag.toNat)
          ∧ o.chunks = max 1 ((o.imageOf.imageLen + 4095) / 4096))

/-- CATOM starts one read-modify-write at the home of its target, local or on another module, with the operand and the compare value as
they are at issue; an illegal target word raises F_ILLEGAL (R205). -/
def Sys2Proof.Claims.CatomsAreStarted : Prop :=
  ∀ (a : CdArgs) (s : State), ∀ f ∈ catomForms a, let tw := s.param a.p 2
    let y := (s.cur.getH a.hd).tensor 0
    let size := 4 * 2 ^ (tw.toNat % 4 - 2)
    let va := y.va s.cur.key.core y.base
    let made (o : CopyOp) : Prop := o.major = .catom ∧ o.atom = f.2 ∧ o.tw = tw ∧ o.y = { y with pages := o.y.pages } ∧ o.argB = s.param a.p 0 ∧ o.argC = s.param a.p 1
      ∧ o.tag = a.tag.toNat ∧ o.post = a.r ∧ o.phase = .running ∧ o.chunks = 1
    (32 ≤ s.cur.copies.length → exec f.1 s = .next s) ∧
    (s.cur.copies.length < 32 → catomOk tw y.space = false → exec f.1 s = .next (s.raise .copy (flt 0x01 4 0))) ∧
    (∀ acc chs, s.cur.copies.length < 32 → catomOk tw y.space = true → tw.getLsbD 2 = false → s.catomAdmit y va size = .ok acc →
      s.catomCircuit acc.home va = .ok chs →
        ∃ u o, exec f.1 s = .next u ∧ Started s u o ∧ made o ∧ o.chs = chs ∧ o.wrSpans = [(va.toNat, size)]
          ∧ o.y.pages = s.pagesOf [(va.toNat, size)] ∧ u.tokens = s.tokens) ∧
    (s.cur.copies.length < 32 → catomOk tw y.space = true → tw.getLsbD 2 = true → va.toNat % size = 0 →
      s.linkCheck (tw.toNat / 256 % 16) (tw.toNat / 2 ^ 16 % 2 ^ 16) = none →
        ∃ u o, exec f.1 s = .next u ∧ Started s u o ∧ made o ∧ u.tokens = s.tokens)

/-- COLL with its record read and its checks passed starts an operation whose contribution goes to its Millstone unit chunk by chunk,
lends both buffers to the unit, and changes no register and no byte of memory; it waits without effect while the read of its record is
held on a circuit or its banks stream an MMA operand, and for the thread's own work in the buffers (R184, R206, R207, R279, R327, R342). -/
def Sys2Proof.Claims.CollectivesAreContributed : Prop :=
  ∀ (a : CollArgs) (s : State) (accs : List Access) (r : List Byte) (j : Job) (ex ey : Entry) (up down : Nat),
    let va := s.getS a.p
    let x := (collHandle r 0x80).tensor 0
    let y := (collHandle r 0xA0).tensor 0
    let unit := unitAgent (collUnit r).1 (collUnit r).2
    let busy := s.cur.busyIn ex.base (2 ^ ex.log2) || s.cur.busyIn ey.base (2 ^ ey.log2) || !s.fencedFor (unitAgent 0 0)
    s.cur.copies.length < 32 → s.recordAccess a = .ok accs →
    ((∃ c ∈ accs, c.held ≠ none ∨ s.banksHeld c.key = true) → exec (.coll a) s = .next s) ∧
    ((∀ c ∈ accs, c.held = none ∧ s.banksHeld c.key = false) →
    s.recordBytes va accs = .ok r → s.job? = some j → collOk j r (dieOf s.cur.key.core) = true → collFmtOk r x = true → collFmtOk r y = true →
    s.bufferRegion r x = .ok ex → s.bufferRegion r y = .ok ey → ownerCheck (me s) ex false = .ok () → ownerCheck (me s) ey false = .ok () →
    s.collCircuits (collUnit r).1 = some (up, down) → collFits r x WalkLevel.ss = true → collFits r y WalkLevel.ds = true →
      (busy = true → exec (.coll a) s = .next s) ∧
      (busy = false → ∃ u o, exec (.coll a) s = .next u ∧ Started (s.dropRead .copy) u o ∧ o.major = .coll ∧ o.phase = .toUnit ∧ o.chs = [up, down]
        ∧ o.chunks = (if readsSource r (memberOf j r (dieOf s.cur.key.core)) then (x.imageLen + 4095) / 4096 else 0)
        ∧ o.rdSpans = [ex.span] ∧ o.wrSpans = [ey.span] ∧ o.recd = r ∧ o.tag = a.tag.toNat ∧ o.post = a.r
        ∧ u.tokens = (if ey.base = ex.base ∧ ey.log2 = ex.log2 then putEntry s.tokens (ex.lendTo unit)
            else putEntry (putEntry s.tokens (ex.lendTo unit)) (ey.lendTo unit))))

/-- CFENCE and CREC wait without effect for every operation of the stream; CFENCE then goes on, CREC posts a SIGNAL record with its tag to
the launch's completion destination and goes on; CEND ends the stream (R9, R213, R215). -/
def Sys2Proof.Claims.CopyControlForms : Prop :=
  ∀ (s : State) (n : BitVec 16),
    (s.cur.copies ≠ [] → exec .cfence s = .next s ∧ exec (.crec n) s = .next s) ∧
    (s.cur.copies = [] → exec .cfence s = .next (s.advance .copy) ∧
      exec (.crec n) s = .next ((s.complete (.plain (signalRecord n) none)).advance .copy)) ∧
    (s.cur.copies = [] → (∀ l, s.launch? = some l → l.num8 0x80 4 ≠ 1) → s.cur.waitRecs = [] → s.cur.cqCount < 64 → s.bad = [] →
      ∃ u, exec (.crec n) s = .next u ∧ u.cur.cqCount = s.cur.cqCount + 1 ∧ u.cur.cqTail = (s.cur.cqTail + 1) % 64
        ∧ MemHolds s u (s.cur.ringBase + s.cur.cqTail * 32) 32 (8 + n.toNat * 2 ^ 32) ∧ u.cur.s = s.cur.s ∧ SameFiles s.cur u.cur
        ∧ SameCsrs s.cur u.cur ∧ u.cur.copy = seqNext 6 s.cur.copy ∧ u.cur.scalar = s.cur.scalar) ∧
    ∃ u, exec .cend s = .next u ∧ u.cur.copy.ended = true ∧ u.cur.copy.pc = s.cur.copy.pc ∧ u.cur.copies = s.cur.copies ∧ CopyFrame s u

/-- A CHUNK OR A CATOM IS PERFORMED: a chunk of a running operation that crosses no circuit in frames writes at the homes that its
bytes had at issue what its transform gives for the source as it is now, and no other byte; the chunk is done, and with the last one the
operation ends; what it gives to the operation's byte count and CRC is kept with its number; a CATOM updates its target in one step and
ends; a fault in the data ends the operation with that fault; while an MMA streams from banks of a scratchpad that the operation touches
it waits (R184, R196, R202, R204, R205, R207–R212, R299). When a chunk reads its source is the model's reading (log entry 42). -/
def Obligations.ChunksWriteTheirBytes : Prop :=
  ∀ (s : State) (o : CopyOp), let t := seen s
    let n := s.ev.addr.toNat
    (EventOp s o → t.opHeld o = true → exec .chunkPerformed s = .next (back s t)) ∧
    (EventOp s o → t.framed o = false → o.remote = false → o.major ≠ .coll → t.opLive o = true → o.mayDo n = true → t.opHeld o = false →
      s.bad = [] →
      (∀ r, o.major ≠ .catom → t.chunkOut o n = .ok r →
        ((r.cells.map fun c => t.tensorKey o.y c.1).Nodup) → (∀ c ∈ r.cells, c.1 < 2 ^ 64 ∧ NotLost t c.1) →
          ∃ u o', exec .chunkPerformed s = .next (back s u) ∧ OpBecomes t u o o' ∧ o'.done = n :: o.done
            ∧ o'.phase = (if o'.progress = o.chunks then .ended (if o'.range then 4 else 0) 0 0 else .running)
            ∧ o'.range = (o.range || r.range) ∧ o'.parts.find? (fun p => p.1 = n) = some (n, r.out, r.crc) ∧ o'.poison = o.poison ||| r.poison
            ∧ (∀ c ∈ r.cells, u.byteAt (t.tensorKey o.y c.1) = c.2)
            ∧ (∀ a, (∀ c ∈ r.cells, t.tensorKey o.y c.1 ≠ a) → u.byteAt a = s.byteAt a) ∧ u.cur.s = t.cur.s ∧ SameFiles t.cur u.cur) ∧
      (∀ f, o.major ≠ .catom → t.chunkOut o n = .error f →
        ∃ u o', exec .chunkPerformed s = .next (back s u) ∧ OpBecomes t u o o' ∧ o'.phase = .ended 2 f.cause f.detail ∧ SameMem s u) ∧
      (o.major = .catom → let va := (o.y.va t.cur.key.core o.y.base).toNat
        let size := 4 * 2 ^ (o.tw.toNat % 4 - 2)
        let key := t.tensorKey o.y va
        let old := memNat s.mem key size
        NotLost t va →
          ∃ u o', exec .chunkPerformed s = .next (back s u) ∧ OpBecomes t u o o' ∧ o'.phase = .ended 0 0 0 ∧ o'.acc = BitVec.ofNat 64 old
            ∧ MemHolds s u key size (atomLeaves o.atom size old (o.argB.toNat % 256 ^ size) (o.argC.toNat % 256 ^ size))))

/-- AN OPERATION COMPLETES once it has ended: with status 0 and r = 0 it goes without a record; with r = 1 its record goes to the
completion destination; with any other status the record goes where the launch routes copy faults, and FADDR is the address kept with the fault. A
restart under automatic retry puts it back to its progress point and counts one retry (R209, R213, R232, R239). That
a CATOM under automatic retry starts again is the model's reading (log entry 44). -/
def Sys2Proof.Claims.OperationsCompleteOrRestart : Prop :=
  ∀ (s : State) (o : CopyOp), let t := seen s
    EventOp s o →
      (o.phase = .ended 0 0 0 → o.post = false →
        ∃ u, exec .copyComplete s = .next (back s u) ∧ u.cur.copies = t.cur.copies.filter (fun x => decide (x.id ≠ o.id))
          ∧ u = { t with cur := u.cur, others := u.others, images := u.images } ∧ u.cur.s = t.cur.s ∧ SameFiles t.cur u.cur) ∧
      (∀ cause detail, o.phase = .ended 0 cause detail → o.post = true →
        exec .copyComplete s = .next (back s
          (({ t with freeCtr := t.freeCtr + 1 }.putOp { o with phase := .posting }).complete
            (o.report (o.record 0 cause detail t.freeCtr) (t.cur.opId o.id))))) ∧
      (∀ n cause detail, o.phase = .ended n cause detail → n ≠ 0 →
        exec .copyComplete s = .next (back s (({ t with freeCtr := t.freeCtr + 1 }.putOp { o with phase := .posting }).deliver 1
          (o.report (o.record n cause detail t.freeCtr) (t.cur.opId o.id))
          { cause := cause, detail := detail, stream := 3, fpc := o.fpc, finsn := o.finsn, addr := o.failAddr }))) ∧
      ((o.phase = .awaitCircuit ∧ t.opLive o = true) ∨ (o.phase = .awaitLink ∧ t.linkUp o = true) →
        ∃ u o', exec .copyRestart s = .next (back s u) ∧ OpBecomes t u o o' ∧ o'.phase = .running ∧ o'.retries = o.retries + 1
          ∧ (∀ n, n ∈ o'.done ↔ n ∈ o.done ∧ n < o.progress) ∧ SameMem s u)

/-- Every copy, CATOM and COLL form starts one operation with its operands as at issue. -/
def Obligations.CopyOperationsAreStarted : Prop :=
  Sys2Proof.Claims.CopiesAreStarted ∧ Sys2Proof.Claims.CatomsAreStarted ∧ Sys2Proof.Claims.CollectivesAreContributed

/-- CFENCE, CREC and CEND, and how operations complete or restart. -/
def Obligations.CopyControlAndCompletion : Prop :=
  Sys2Proof.Claims.CopyControlForms ∧ Sys2Proof.Claims.OperationsCompleteOrRestart
end

/-! ### The life of a thread -/

namespace Sys2Proof.Claims
open Sys2Proof.Machine

/-- The registers of a thread: every file, the shape, and the CSRs that hold its state. -/
def SameRegs (t u : Slot) : Prop :=
  u.s = t.s ∧ SameFiles t u ∧ u.vcsr = t.vcsr ∧ u.ftoff = t.ftoff ∧ u.fscratch0 = t.fscratch0 ∧ u.fscratch1 = t.fscratch1 ∧ u.tvec = t.tvec
    ∧ u.fcause = t.fcause ∧ u.fstream = t.fstream ∧ u.fpc = t.fpc ∧ u.finsn = t.finsn ∧ u.faddr = t.faddr ∧ u.ih = t.ih
    ∧ u.handled = t.handled ∧ u.divert = t.divert

/-- The streams stand where they stood: counters, loops, ended and stopped bits. -/
def SameStreams (t u : Slot) : Prop :=
  ∀ e, (u.str e).pc = (t.str e).pc ∧ (u.str e).loops = (t.str e).loops ∧ (u.str e).ended = (t.str e).ended
    ∧ (u.str e).stopped = (t.str e).stopped

/-- Every register file but the scalar one, the engines' work and the CSRs of a thread at bind (R12, R25). -/
def FreshSlot (t : Slot) : Prop :=
  t.e = Vector.replicate 8 0 ∧ t.k = Vector.replicate 16 0 ∧ t.v = Vector.replicate 32 RunReg.zero ∧ t.rows = 1 ∧ t.cols = 1
    ∧ t.m = Vector.replicate 8 MatReg.reset ∧ t.vcsr = { rm := .rne, flags := 0, autoc := false } ∧ t.ftoff = 0 ∧ t.tvec = 0
    ∧ t.fcause = 0 ∧ t.fpc = 0 ∧ t.finsn = 0 ∧ t.faddr = 0 ∧ t.ih = false ∧ t.fscratch0 = 0 ∧ t.fscratch1 = 0
    ∧ t.cqCount = 0 ∧ t.copies = [] ∧ t.vfly = [] ∧ t.mfly = [] ∧ t.stores = []

/-- The two halves of a thread as they are at bind: regions that it owns alone (R34). -/
def halvesOf (t : Slot) (p : Place) : List Entry :=
  halfEntries t.bind.job t.bind.partition p.key p.a t.bind.spsize ++ halfEntries t.bind.job t.bind.partition p.key p.b t.bind.spsize

/-- An address lies in the halves of a slot. -/
def InHalves (t : Slot) (a : Nat) : Prop :=
  (windowAddr t.key.core t.bind.spbaseA ≤ a ∧ a < windowAddr t.key.core t.bind.spbaseA + t.bind.spsize)
    ∨ (windowAddr t.key.core t.bind.spbaseB ≤ a ∧ a < windowAddr t.key.core t.bind.spbaseB + t.bind.spsize)

/-- The bytes that an image puts back in the halves of a slot, at their new addresses (R244, R245). -/
def imageCells (t : Slot) (gs : List Granule) : List (Nat × Byte) :=
  gs.flatMap fun g => g.cells.map fun c => (windowAddr t.key.core (t.granOff g.num) + c.1, c.2)

/-- The fixed part of a context image: what the slot held, but for the ages of its streams (R245). -/
def SavedFixed (c i : Slot) : Prop :=
  i.s = c.s ∧ i.h = c.h ∧ i.e = c.e ∧ i.k = c.k ∧ i.ft = c.ft ∧ i.om = c.om ∧ i.rows = c.rows ∧ i.cols = c.cols ∧ SameCsrs c i
    ∧ SameStreams c i ∧ i.cqHead = c.cqHead ∧ i.cqTail = c.cqTail ∧ i.cqCount = c.cqCount

/-- The run and matrix registers of an image: all in a base, those that have changed since the last image in a delta (R246). -/
def SavedUnits (c : Slot) (i : Image) : Prop :=
  (∀ n : Fin 32, i.ctx.v[n] = if i.depth = 0 ∨ n.val ∈ c.dirtyV then c.v[n] else RunReg.reset) ∧
  (∀ (n : Fin 8) (x : Nat), x < 16384 → TileOk c.m[n].tile → tileGet i.ctx.m[n].tile x =
    if (i.depth = 0 ∧ n.val < c.bind.mregs) ∨ (i.depth ≠ 0 ∧ 8 * n.val + x / 2048 ∈ c.dirtyM) then tileGet c.m[n].tile x else 0)

/-- A slot whose streams have no read held on a circuit. -/
def NoReads (t : Slot) : Slot :=
  { t with
    scalar := { t.scalar with heldRead := none }, vector := { t.vector with heldRead := none }
    matrix := { t.matrix with heldRead := none }, copy := { t.copy with heldRead := none } }

/-- A saved thread has been ended with a cause: its image is gone, its launch counts it as killed, and no slot has changed but for
monitors that wake (R125, R247, R248). -/
def ImageEnded (s u : State) (l : Launch) (i : Image) (cause : BitVec 8) : Prop :=
  u.images = s.images.filter (fun x => decide (x.num ≠ i.num)) ∧ u.cur = { s.cur with waiting := u.cur.waiting } ∧
    (∃ l', findLaunch u.launches l.num = some l' ∧ l'.killed = l.killed + 1 ∧ l'.live = l.live - 1 ∧ (l.killCause = 0 → l'.killCause = cause)) ∧
    (i.prev = none → ∀ a, ¬ (i.addr ≤ a ∧ a < i.addr + imageSize) → u.byteAt a = s.byteAt a)

/-- The records that wait for room in a saved thread's ring are those of its own work. -/
def OwnRecords (i : Image) : Prop := ∀ w ∈ i.ctx.waitRecs, i.ctx.ownRecord w = true

/-- The slot is scrubbing: the registers at their reset values, its identity kept for the scrub alone (R248). -/
def Scrubbing (s : State) (c : Slot) (launch : Nat) (u : State) : Prop :=
  u.cur = { Slot.reset c.key with status := .scrubbing, bind := u.cur.bind, readyAt := s.cycle + 2 * c.bind.spsize / 4096 }
    ∧ u.cur.bind.spsize = c.bind.spsize ∧ u.cur.bind.spbaseA = c.bind.spbaseA ∧ u.cur.bind.spbaseB = c.bind.spbaseB
    ∧ u.cur.bind.launch = launch ∧ (∀ e ∈ u.tokens, c.inOwnHalves e = false) ∧ (∀ a, InHalves c a → u.byteAt a = 0)

end Sys2Proof.Claims

section
open Sys2Proof Sys2Proof.Machine Sys2Proof.Claims

/-- BIND begins to bind the first candidate that fits: its slot is taken, with s2 one past the first half, s3 the record's address,
every other register at its reset value, the streams at the record's entry points, the format table of the record and the halves its
own; the launch counts one unbound instance less. A GANG launch binds whole. When the bind is over the slot is BOUND, the streams start,
and the first thread of a launch sets its launch step 0. Without a candidate that fits nothing changes (R12, R313–R320). That one
candidate begins to bind in one step, and when a bind is over, are the model's choices (log entry 47). -/
def Obligations.InstancesBind : Prop :=
  ∀ s : State,
    (∀ l lin p, s.ev.num ≠ 1 → s.nextBind = some (.inst l lin, some p) → findLaunch s.launches l.num = some l →
      ∃ u, exec .bind s = .next u ∧ SameMem s u ∧ (let t := u.slotAt p.key
        t.status = .binding ∧ s.cycle < t.readyAt ∧ t.bind.launch = l.num ∧ t.bind.lin = lin ∧ t.bind.job = l.job
          ∧ t.bind.supervisor = l.supervisor ∧ t.bind.spbaseA = p.a ∧ t.bind.spbaseB = p.b ∧ t.bind.spsize = l.num8 8 8
          ∧ t.bind.mregs = l.byte 6 ∧ t.bind.vcap = 2 ^ l.byte 7 ∧ t.bind.recordCopy = l.copyAddr
          ∧ (∀ i, t.getS i = if i = 2 then BitVec.ofNat 64 (windowAddr p.key.core (p.a + l.num8 8 8)) else if i = 3 then l.recordAddr else 0)
          ∧ (∀ e, (t.str e).pc = toPc (BitVec.ofNat 64 (l.num8 (0x10 + 8 * e.num) 8)) ∧ (t.str e).ended = false ∧ (t.str e).stopped = false)
          ∧ (∀ i : BitVec 4, t.getFt i = BitVec.ofNat 32 (l.num8 (0x1C0 + 4 * i.toNat) 4)) ∧ FreshSlot t
          ∧ (l.byte 0x71 = 0 → u.tokens = s.tokens ++ halvesOf t p)) ∧
        (∃ l', findLaunch u.launches l.num = some l' ∧ l'.unbound = l.unbound.filter (fun x => decide (x ≠ lin)) ∧ l'.live = l.live + 1
          ∧ l'.step0 = l.step0)) ∧
    (∀ l lin, s.ev.num ≠ 1 → s.nextBind = some (.inst l lin, none) →
      ∃ u l', exec .bind s = .next u ∧ findLaunch u.launches l.num = some l' ∧ l'.unbound = []) ∧
    (s.ev.num ≠ 1 → s.nextBind = none → exec .bind s = .next s ∧ exec .resumption s = .next s) ∧
    (s.ev.num = 1 → let t := seen s
      (t.cur.status ≠ .binding ∨ s.cycle < t.cur.readyAt → exec .bind s = .next (back s t)) ∧
      (∀ l, t.cur.status = .binding → t.cur.readyAt ≤ s.cycle → t.cur.ending = none → t.launch? = some l →
        (t.cur.bind.lin = l.num8 0x74 4 → l.heldRecs = []) →
          ∃ u l', exec .bind s = .next (back s u) ∧ u.cur = { t.cur with status := .bound } ∧ SameMem s u ∧ u.tokens = s.tokens
            ∧ findLaunch u.launches l.num = some l' ∧ l'.step0 = l.step0.or (some (s.cycle / 128)) ∧ l'.unbound = l.unbound))

/-- RESUMPTION begins to restore a saved thread whose images match their digests: the slot and its halves are taken. When the restore is
over the slot holds registers, streams and record ring as saved, each unit from the newest image that wrote it, the halves' bytes at the
new bases and no other byte changed, its regions under the new name, and its image is no longer one of a saved thread. An image whose
digest does not match ends the thread with F_ECC and binds nothing, once the puts into the thread's windows are performed (R244–R246,
R248, R320). -/
def Sys2Proof.Claims.SavedThreadsResume : Prop :=
  (∀ (s : State) (l : Launch) (i : Image) (p : Place), s.ev.num ≠ 1 → s.nextBind = some (.image l i, some p) →
    (s.chainGood i = true →
      ∃ u, exec .resumption s = .next u ∧ u.slotAt p.key = i.slot p (s.cycle + 1 + Config.freeNat s.freeCtr)
        ∧ u.images = s.images.map (fun x => if x.num = i.num then { x with restoring := some p.key } else x) ∧ u.tokens = s.tokens
        ∧ u.launches = s.launches ∧ SameMem s u) ∧
    (s.chainGood i = false → findLaunch s.launches i.launch = some l → OwnRecords i →
      (s.putsOpen (imageMark i.num) i.ctx.bind.job = false → ∃ u, exec .resumption s = .next u ∧ ImageEnded s u l i 0x11) ∧
      (s.putsOpen (imageMark i.num) i.ctx.bind.job = true →
        exec .resumption s = .next { s.closeWindows (imageMark i.num) i.ctx.bind.job with
          images := s.images.map fun x => if x.num = i.num then { x with ending := some 0x11 } else x }))) ∧
  (∀ (s : State) (i : Image), s.ev.num = 1 → let t := seen s
    let c := t.cur
    let w := t.whole 16 i
    (c.status ≠ .restoring ∨ s.cycle < c.readyAt → exec .resumption s = .next (back s t)) ∧
    (c.status = .restoring → c.readyAt ≤ s.cycle → t.images.find? (fun x => decide (x.restoring = some c.key)) = some i →
      w.ctx.waitRecs = [] → (∀ e, (w.ctx.str e).pending = none) → c.ending = none →
      ∃ u, exec .resumption s = .next (back s u) ∧ u.cur.key = c.key ∧ u.cur.status = .bound ∧ SameRegs w.ctx u.cur ∧ SameStreams w.ctx u.cur
        ∧ u.cur.bind.launch = w.ctx.bind.launch ∧ u.cur.bind.lin = w.ctx.bind.lin ∧ u.cur.bind.spbaseA = c.bind.spbaseA
        ∧ u.cur.bind.spbaseB = c.bind.spbaseB ∧ u.cur.bind.spsize = w.ctx.bind.spsize
        ∧ u.cur.cqHead = w.ctx.cqHead ∧ u.cur.cqTail = w.ctx.cqTail ∧ u.cur.cqCount = w.ctx.cqCount
        ∧ u.tokens = t.tokens.map (fun e => e.rename (imageMark i.num) c.key.agent)
            ++ (halfEntries w.ctx.bind.job w.ctx.bind.partition c.key c.bind.spbaseA w.ctx.bind.spsize
              ++ halfEntries w.ctx.bind.job w.ctx.bind.partition c.key c.bind.spbaseB w.ctx.bind.spsize)
        ∧ u.images = t.images.filter (fun x => decide (x.num ≠ i.num)) ∧ u.launches = t.launches
        ∧ (((imageCells u.cur w.grans).map Prod.fst).Nodup → ∀ x ∈ imageCells u.cur w.grans, u.byteAt x.1 = x.2)
        ∧ (∀ a, (∀ x ∈ imageCells u.cur w.grans, x.1 ≠ a) → u.byteAt a = s.byteAt a))) ∧
  (∀ new old : Image, let b := new.over old
    (∀ n : Fin 32, b.ctx.v[n] = if n.val ∈ new.ctx.dirtyV then new.ctx.v[n] else old.ctx.v[n]) ∧
    (∀ (n : Fin 8) (x : Nat), TileOk new.ctx.m[n].tile → TileOk old.ctx.m[n].tile → x < 16384 → tileGet b.ctx.m[n].tile x =
      if 8 * n.val + x / 2048 ∈ new.ctx.dirtyM then tileGet new.ctx.m[n].tile x else tileGet old.ctx.m[n].tile x) ∧
    b.ctx.s = new.ctx.s ∧ b.ctx.h = new.ctx.h ∧ (∀ g ∈ new.grans, g ∈ b.grans) ∧
    (∀ g ∈ old.grans, (∀ h ∈ new.grans, h.num ≠ g.num) → g ∈ b.grans))

/-- A THREAD ENDS. One whose streams have ended and whose work is over retires, once the puts into its windows are performed; until then
its windows take no new put. Its tokens are handed back, its launch counts it, its halves read as zero, no other byte has changed, and
its slot goes to scrubbing with every register at its reset value; one that Corelo ends does the same, once no write of another into its
halves is under way either, and is counted as killed, with its fault's cause; so does a saved one, whose image goes. When the scrub is
over the slot is free (R125, R138, R247–R249, R277). -/
def Sys2Proof.Claims.ThreadsRetireAndAreScrubbed : Prop :=
  ∀ (s : State) (l : Launch), let t := seen s
    let c := t.cur
    let gone (u : State) : Prop := ∀ e ∈ u.tokens, e.job = c.bind.job → e.owner ≠ c.key.agent ∧ e.homeAgent ≠ c.key.agent ∧ e.sharesOf c.key.agent = 0
    (c.status = .bound → c.allOver = true → t.halvesBack = true → t.putsOpen c.key.agent c.bind.job = false → t.launch? = some l →
      ∃ u l', exec .retirement s = .next (back s u) ∧ Scrubbing s c c.bind.launch u ∧ gone u ∧ findLaunch u.launches l.num = some l'
        ∧ l'.retired = l.retired + 1 ∧ l'.killed = l.killed ∧ l'.live = l.live
        ∧ (c.chain = none → ∀ a, ¬ InHalves c a → u.byteAt a = s.byteAt a)) ∧
    (c.status = .bound → c.allOver = true → t.halvesBack = true → t.putsOpen c.key.agent c.bind.job = true →
      exec .retirement s = .next (back s { t with
        tokens := t.tokens.map fun e => if e.windowOf c.key.agent c.bind.job then { e with closing := true } else e })) ∧
    (c.allOver = false ∨ t.halvesBack = false ∨ c.status ≠ .bound → exec .retirement s = .next (back s t)) ∧
    (∀ cause : BitVec 8, s.ev.word ≠ 1 → (c.status = .bound ∨ c.status = .saving) → c.ending.or (c.corelo.map fun x => x.cause) = some cause → t.launch? = some l →
      c.scop = none → c.orphans = [] → (∀ e ∈ t.tokens, e.windowOf c.key.agent c.bind.job = false) → t.writesOpen = false →
      ∃ u l', exec .threadEndByCorelo s = .next (back s u) ∧ Scrubbing s c c.bind.launch u ∧ gone u ∧ findLaunch u.launches l.num = some l'
        ∧ l'.retired = l.retired ∧ l'.killed = l.killed + 1 ∧ l'.killCause = (if l.killCause = 0 then cause else l.killCause)) ∧
    (s.ev.word ≠ 1 → c.corelo = none → c.ending = none → exec .threadEndByCorelo s = .next (back s t)) ∧
    (∀ i cause, s.ev.word = 1 → s.images.find? (fun x => decide (x.num = s.ev.num) && x.ending.isSome) = some i → i.ending = some cause →
      findLaunch s.launches i.launch = some l → OwnRecords i → s.putsOpen (imageMark i.num) i.ctx.bind.job = false →
        ∃ u, exec .threadEndByCorelo s = .next u ∧ ImageEnded s u l i cause) ∧
    (c.status = .scrubbing → c.readyAt ≤ s.cycle →
      ∃ u, exec .scrubComplete s = .next (back s u) ∧ u.cur = Slot.reset c.key ∧ SameMem s u ∧ u.tokens = s.tokens
        ∧ (∀ x, findLaunch s.launches c.bind.launch = some x → findLaunch u.launches c.bind.launch = some { x with live := x.live - 1 })) ∧
    (c.status ≠ .scrubbing ∨ s.cycle < c.readyAt → exec .scrubComplete s = .next (back s t))

/-- A launch with no thread left and none to bind ends: its entry goes, and its LAUNCH record, with the number of instances that retired
and were killed, goes to its submitter; until then the event changes nothing (R323). -/
def Sys2Proof.Claims.LaunchesEndWithTheirRecord : Prop :=
  ∀ (s : State) (l : Launch), findLaunch s.launches s.ev.num = some l →
    (l.live = 0 → l.unbound = [] → l.heldRecs = [] →
      ∃ u, exec .launchRecord s = .next u ∧ findLaunch u.launches l.num = none ∧
        (l.submitter = .host → u.corelo = s.corelo ++ [(l.endRecord, true)]) ∧
        (l.submitter = .corelo → u.corelo = s.corelo ++ [(l.endRecord, false)]) ∧
        (∀ k n lin, l.submitter = .thread k n lin → s.slotOfLin n lin = some s.cur.key → s.cur.waitRecs = [] →
          s.cur.cqCount < 64 → s.bad = [] →
            u.cur.cqCount = s.cur.cqCount + 1 ∧ MemHolds s u (s.cur.ringBase + s.cur.cqTail * 32) 32 (ofBytes l.endRecord.bytes))) ∧
    (l.live ≠ 0 ∨ l.unbound ≠ [] → exec .launchRecord s = .next s) ∧
    l.endRecord.status = (if l.cancelled then 3 else if l.killed ≠ 0 then 2 else 0) ∧
    l.endRecord.count = BitVec.ofNat 64 (l.num + l.retired * 2 ^ 32) ∧ l.endRecord.poison = BitVec.ofNat 64 l.killed

/-- PRE-EMPTION: a request lapses when the thread may no longer be pre-empted; at a boundary, with its halves its own, it stops the
streams, each MMA at its next K-step; and once nothing is in flight but such MMAs the thread is saved: an image with its registers,
streams and halves, all of them in a base, and those that have changed in a delta, its digest written with it, its tokens under the
image's mark, its slot scrubbing (R187, R241–R246). That a request lapses, and where an image stands, are the model's readings (log
entries 49 to 51 and 108). -/
def Sys2Proof.Claims.PreemptionSavesTheThread : Prop :=
  ∀ s : State, let t := seen s
    let c := t.cur
    (c.status = .bound → c.preemptReq = true → t.mayPreempt = false →
      exec .preemption s = .next (back s (t.upd fun x => { x with preemptReq := false }))) ∧
    (c.status = .bound → c.preemptReq = true → t.mayPreempt = true → c.atBoundary = true → t.halvesExcl = true →
      exec .preemption s = .next (back s (t.upd fun x =>
        { NoReads x with status := .saving, preemptReq := false, mfly := (c.stopMmas s.cycle).mfly, waiting := .none, heldOn := none
                         waitsFor := t.waitedChild }))) ∧
    (c.status = .bound → c.preemptReq = true → t.mayPreempt = true → c.atBoundary = false ∨ t.halvesExcl = false →
      exec .preemption s = .next (back s t)) ∧
    (c.status = .saving → c.ending = none → c.drained = true → t.framesOut = false → t.halvesExcl = true →
      ∃ u i, exec .preemption s = .next (back s u) ∧ u.images = s.images ++ [i] ∧ i.num = s.nextImage ∧ i.launch = c.bind.launch
        ∧ SavedFixed c i.ctx ∧ SavedUnits c i ∧ i.blockedOn = c.waitsFor
        ∧ i.depth = (match c.chain with | some (_, d) => if d < 15 then d + 1 else 0 | none => 0)
        ∧ i.prev = (if i.depth = 0 then none else c.chain.map Prod.fst)
        ∧ ((∀ x ∈ c.mfly, x.stores = []) →
            u.tokens = (s.tokens.filter fun e => !c.inOwnHalves e).map fun e => e.rename c.key.agent (imageMark s.nextImage))
        ∧ Scrubbing s c 0 u
        ∧ (c.mfly = [] → c.chain = none → memBytesAt u.mem (i.addr + 0x40) 64 = i.digest
            ∧ ∀ a, ¬ InHalves c a → ¬ (i.addr ≤ a ∧ a < i.addr + imageSize) → u.byteAt a = s.byteAt a))

/-- Pre-emption saves a thread with its halves, and resumption restores it. -/
def Obligations.ThreadsAreSavedAndResumed : Prop :=
  Sys2Proof.Claims.PreemptionSavesTheThread ∧ Sys2Proof.Claims.SavedThreadsResume

/-- Threads retire or are ended and scrubbed, and a launch ends with its record. -/
def Obligations.ThreadsAndLaunchesEnd : Prop :=
  Sys2Proof.Claims.ThreadsRetireAndAreScrubbed ∧ Sys2Proof.Claims.LaunchesEndWithTheirRecord
end

/-! ### The fabric and the collectives -/

namespace Sys2Proof.Claims
open Sys2Proof.Machine

/-- The event in hand names a launch, in a launch step (R339). -/
def EventLaunch (s : State) (l : Launch) (t : Nat) : Prop := findLaunch s.launches s.ev.num = some l ∧ s.launchStep l = some t

/-- A launch in the step that runs: circuits that were faulted in an earlier step are established again (R339, R348). -/
def stepBegun (l : Launch) (t : Nat) : Launch := { l with ran := some t, circuits := l.circuits.map fun c => c.resettle t }

/-- A circuit of a launch after an event. -/
def CircuitIs (u : State) (n ch : Nat) (c : Circuit) : Prop := ∃ l, findLaunch u.launches n = some l ∧ findCircuit l.circuits ch = some c

/-- A frame that is in flight on the live circuit that the event names, neither dropped nor performed. -/
def FrameArrives (s : State) (l : Launch) (c : Circuit) (f : Frame) : Prop :=
  s.evCircuit = some (l, c) ∧ c.isLive = true ∧ (c.frames.find? fun f => decide (f.seq = s.ev.addr.toNat)) = some f ∧ f.st = .flying

/-- A port has failed and is counted, with nothing else changed (R346). -/
def portLost (s : State) (e : Endpoint) : State :=
  { s with badPorts := s.badPorts ++ [e], errors := { s.errors with fabric := s.errors.fabric + 1 } }

/-- A laser has failed and is counted, with nothing else changed (R336). -/
def laserLost (s : State) (src : Nat) : State :=
  { s with badLasers := s.badLasers ++ [src], errors := { s.errors with fabric := s.errors.fabric + 1 } }

/-- A collective that begins with its first contribution (R328). -/
def firstColl (mill unit job : Nat) (served : Bool) (x : Contribution) : Coll :=
  { mill := mill, unit := unit, job := job, key := collKey x.recd, served := served, recd := x.recd, got := [x], arrived := [x.member], ending := none
    cancelled := false, ended := [], delivering := false }

end Sys2Proof.Claims

section
open Sys2Proof Sys2Proof.Machine Sys2Proof.Claims

/-- THE SEQUENCER RUNS A LAUNCH'S PROGRAM once in each launch step: an entry whose step has not come advances the program step by one; END
ends the program; HOLD waits for the stage counter; JUMP goes on at the first entry at or above its target. An ESTABLISH whose ports
are usable and free makes a circuit that settles for 8 steps on the wavelengths its path shares, and the circuit is live once they are
over (R337–R341). -/
def Obligations.CircuitProgramsRun : Prop :=
  (∀ (s : State) (l : Launch) (t : Nat), EventLaunch s l t → let b := stepBegun l t
    let becomes (l' : Launch) : Prop := ∃ u, exec .fabricStep s = .next u ∧ findLaunch u.launches l.num = some l' ∧ u.cur = s.cur ∧ SameMem s u
    (l.ran = some t → exec .fabricStep s = .next s) ∧
    (l.ran ≠ some t → l.hold = .none →
      (l.progOver = true → becomes b) ∧
      (∀ e, l.progOver = false → l.prog[l.progNext]? = some e →
        (l.progStep < e.step → becomes { b with progStep := l.progStep + 1 }) ∧
        (e.step ≤ l.progStep → e.op = .fin → becomes { b with progOver := true }) ∧
        (∀ n, e.step ≤ l.progStep → e.op = .jump n → becomes { b with progStep := n, progNext := firstAt l.prog n }) ∧
        (∀ n, e.step ≤ l.progStep → e.op = .holdUntil n → l.stage.toNat < n → becomes { b with progNext := l.progNext + 1, hold := .stage n }))) ∧
    (∀ n, l.ran ≠ some t → l.hold = .stage n → l.stage.toNat < n → becomes b)) ∧
  (∀ (s : State) (l : Launch) (t ch n : Nat) (auto : Bool) (src dst : Endpoint), findLaunch s.launches n = some l →
    findCircuit l.circuits ch = none → s.badPorts = [] → s.portUser src true = none → s.portUser dst false = none →
    s.pathWaves [src, dst] ≠ 0 → s.controlLost = false →
      ∃ u l' c, s.establish n t ch auto false src [dst] = .done u ∧ findLaunch u.launches n = some l' ∧ l'.circuits = l.circuits ++ [c]
        ∧ c.ch = ch ∧ c.src = src ∧ c.dsts = [dst] ∧ c.autoretry = auto ∧ c.st = .settling (t + 8) ∧ c.waves = s.pathWaves [src, dst]
        ∧ c.nextSeq = 0 ∧ c.rxSeq = 0 ∧ c.frames = [] ∧ c.outbox = []) ∧
  (∀ (s : State) (l : Launch) (t n : Nat) (c : Circuit), EventLaunch s l t → findCircuit l.circuits s.ev.word.toNat = some c →
    c.st = .settling n ∨ c.st = .resettling n →
      (n ≤ t → ∃ u, exec .circuitLive s = .next u ∧ CircuitIs u l.num c.ch { c with st := .live } ∧ SameMem s u) ∧
      (t < n → ∃ u, exec .circuitLive s = .next u ∧ CircuitIs u l.num c.ch c ∧ SameMem s u))

/-- A FAULT OF THE FABRIC marks the port or the laser and counts it; one that is already marked changes nothing; every circuit that uses it
stops, and is faulted on its new path where the port search or the surviving wavelengths give one, and is torn down where they give none. A
failed port that no circuit names is retuned (R336, R344, R346–R348). That a faulted circuit is re-routed or torn down in the very update
that finds the fault is the model's reading (log entry 58). -/
def Obligations.FabricFaultsStopCircuits : Prop :=
  (∀ s : State, let e : Endpoint := { num := s.ev.num / 16, port := s.ev.num % 16 }
    let hit := s.circuitsWith fun c => c.path.contains e
    (e ∈ s.badPorts → exec .ringTuningLoss s = .next s) ∧
    (e ∉ s.badPorts → exec .ringTuningLoss s = .next (hit.foldl (fun u x => u.faultCircuit x.1 x.2 0x0E e 0x1FFFF) (portLost s e))) ∧
    (hit = [] → exec .portRetune s = .next { s with badPorts := s.badPorts.filter fun x => decide (x ≠ e) }) ∧
    (hit ≠ [] → exec .portRetune s = .next s)) ∧
  (∀ s : State, let src := s.ev.num
    let lost (e : Endpoint) : Nat := (~~~ (laserLost s src).wavesAt e.num).toNat + if 32 ∈ s.badLasers ++ [src] ∧ 33 ∈ s.badLasers ++ [src] then 65536 else 0
    let hit (c : Circuit) : Bool := (laserLost s src).laserHits src c
    (33 < src ∨ src ∈ s.badLasers → exec .laserFailure s = .next s) ∧
    (src ≤ 33 → src ∉ s.badLasers → (∀ l ∈ s.launches, ∀ c ∈ l.circuits, hit c = false) →
      exec .laserFailure s = .next (laserLost s src)) ∧
    (∀ l c, src ≤ 33 → src ∉ s.badLasers → s.launches = [l] → l.circuits = [c] → hit c = true →
      exec .laserFailure s = .next ((laserLost s src).faultCircuit l.num c.ch 0x0F (laserEndpoint src c) (lost (laserEndpoint src c)))) ∧
    (src ≤ 33 → src ∉ s.badLasers → ∃ u, exec .laserFailure s = .next u ∧ u.badLasers = s.badLasers ++ [src]
      ∧ u.errors.fabric = s.errors.fabric + 1)) ∧
  (∀ (s : State) (l : Launch) (c : Circuit) (n t lost : Nat) (cause : BitVec 8) (e : Endpoint), findLaunch s.launches n = some l →
    findCircuit l.circuits c.ch = some c → s.launchStep l = some t → ∃ l', findLaunch (s.faultCircuit n c.ch cause e lost).launches n = some l' ∧
      (s.reroute l c = none → (l'.circuits.map fun x => x.ch) = (l.circuits.map fun x => x.ch).filter fun x => decide (x ≠ c.ch)) ∧
      (∀ c', s.reroute l c = some c' → c'.ch = c.ch ∧ ∃ c'', findCircuit l'.circuits c.ch = some c'' ∧ c''.src = c'.src ∧ c''.dsts = c'.dsts
        ∧ c''.waves = c'.waves ∧ c''.st = .faulted t cause e lost ∧ c''.nextSeq = 0 ∧ c''.rxSeq = 0 ∧ c''.frames = []
        ∧ l'.rerouted c.ch = l.rerouted c.ch + 1))

/-- CHUNK FRAMES, ACKNOWLEDGEMENTS AND NOTICES. A sender has at most 64 frames unacknowledged. The CRC of a whole frame is good; an arriving
frame whose CRC is good is checked in once every earlier one is, one whose CRC is bad is dropped and counted, and its ninth failure loses
the receiving port; how a frame is changed on its way is open. A chunk that is checked in behind the last circuit of its way is written at
its home, and one of a result in its member's destination; one of rle, unrle, scatter, radd or a CATOM is written as its ACK reaches the
sender, the sum of a radd formed then at the home. An ACK covers the frames performed in order and marks their chunks at the sender; a
NACK has a dropped frame sent again; a notice ends its member's operation once every frame before it is in; a request held on a faulted
circuit goes once it is live (R203, R205, R329, R343–R345, R349). The times of frames and notices are open (log entry 59); that such a
chunk is performed at its ACK is the model's reading (log entry 106). -/
def Obligations.FramesAreCarriedInOrder : Prop :=
  (∀ (f : Frame) (ch ctr : Nat), frameGood (f.bytes ch) = true ∧ f.arrive (f.bytes ch) = { f with st := .here } ∧
    (Config.freeBool ctr = true → garble ctr (f.bytes ch) = f.bytes ch)) ∧
  (∀ (s : State) (l : Launch) (c : Circuit), c.isLive = false ∨ 64 ≤ c.frames.length → s.sendFrame l c = s) ∧
  (∀ (s : State) (l : Launch) (c : Circuit) (f : Frame), FrameArrives s l c f → let sent := f.bytes c.ch
    let come := garble s.freeCtr sent
    let s' : State := { s with freeCtr := s.freeCtr + 1 + sent.length }
    (frameGood come = true →
      exec .chunkFrame s = .next ((s'.updCircuit l.num c.ch fun c => c.updFrame f.seq fun f => f.arrive come).checkIn l.num c.ch 64)) ∧
    (frameGood come = false → f.fails < 8 →
      exec .chunkFrame s = .next (s'.updCircuit l.num c.ch fun c => c.updFrame f.seq fun f => { f with fails := f.fails + 1, st := .bad })) ∧
    (frameGood come = false → 8 ≤ f.fails → exec .chunkFrame s = .next (s'.loseRing (s.receivingPort c f)))) ∧
  (∀ (s : State) (c : Circuit) (f : Frame) (d : Endpoint), c.dsts = [d] → s.receivingPort c f = d) ∧
  (∀ (s : State) (l : Launch) (c : Circuit) (n k : Nat), findLaunch s.launches n = some l → findCircuit l.circuits c.ch = some c →
    ((∀ f ∈ c.frames, f.seq = c.rxSeq → f.st = .here → s.frameHeld f = true) → s.checkIn n c.ch k = s) ∧
    (∀ f, c.frames.find? (fun f => decide (f.seq = c.rxSeq) && decide (f.st = .here)) = some f → s.frameHeld f = false →
      s.checkIn n c.ch (k + 1) = (((s.performFrame c f).updCircuit n c.ch fun c =>
        { c.updFrame f.seq (fun f => { f with st := .done }) with rxSeq := (c.rxSeq + 1) % 2 ^ 32 }).checkIn n c.ch k))) ∧
  (∀ (s : State) (c : Circuit) (f : Frame) (id : OpId) (k : SlotId) (o : CopyOp), let t := s.focus k
    let u := s.performFrame c f
    let becomes (o' : CopyOp) : Prop := (u.slotAt k).copies = t.cur.copies.map fun x => if x.id = o.id then o' else x
    f.op = some id → s.slotOfLin id.launch id.lin = some k → t.cur.findOp id.op = some o →
      (o.major ≠ .coll → o.phase = .running → o.lastLeg c.ch = true → o.remote = false → o.atAck = true → u = t.focus s.cur.key) ∧
      (o.phase = .running → o.lastLeg c.ch = true → o.remote = true → SameMem s u ∧ becomes { o with arrived := (c.ch, f.chunk) :: o.arrived } ∧
        u.links = s.links.map fun l => if l.num = o.link then { l with queue := l.queue ++ [t.linkMsg o f.chunk f.out.cells] } else l) ∧
      (o.major ≠ .coll → o.phase = .running → o.lastLeg c.ch = false → SameMem s u ∧ becomes { o with arrived := (c.ch, f.chunk) :: o.arrived }) ∧
      (o.major ≠ .coll → o.remote = false → o.atAck = false → o.phase = .running → o.lastLeg c.ch = true → s.bad = [] →
        ((f.out.cells.map fun x => t.tensorKey o.y x.1).Nodup) → (∀ x ∈ f.out.cells, x.1 < 2 ^ 64 ∧ NotLost t x.1) →
          (∀ x ∈ f.out.cells, u.byteAt (t.tensorKey o.y x.1) = x.2) ∧
          (∀ a, (∀ x ∈ f.out.cells, t.tensorKey o.y x.1 ≠ a) → u.byteAt a = s.byteAt a)) ∧
      (o.major = .coll → 32 ≤ c.src.num → s.bad = [] → let key (a : Nat) : Nat := s.unitKey (o.argC.setWidth 9) t.cur.bind.job o.y a
        ((f.out.cells.map fun x => key x.1).Nodup) → (∀ x ∈ f.out.cells, x.1 < 2 ^ 64 ∧ NotLost t x.1) →
          (∀ x ∈ f.out.cells, u.byteAt (key x.1) = x.2) ∧ (∀ a, (∀ x ∈ f.out.cells, key x.1 ≠ a) → u.byteAt a = s.byteAt a))) ∧
  (∀ (s : State) (l : Launch) (c : Circuit), s.evCircuit = some (l, c) →
    (c.isLive = false → exec .ack s = .next s ∧ exec .nack s = .next s ∧ exec .chunkFrame s = .next s ∧ exec .notice s = .next s) ∧
    (∀ f rest, c.isLive = true → c.frames = f :: rest → f.st = .done → s.frameHeld f = false → s.ackedFrames rest = [] →
      ∃ u, exec .ack s = .next u ∧ CircuitIs u l.num c.ch { c with frames := rest } ∧ (f.op = none → SameMem s u) ∧
        (∀ id o, f.op = some id → s.slotOfLin id.launch id.lin = some s.cur.key → s.cur.findOp id.op = some o →
          let late : Prop := o.phase = .running ∧ o.lastLeg c.ch = true ∧ o.remote = false ∧ o.atAck = true
          (¬ late → SameMem s u ∧ OpBecomes s u o (o.acked c.ch f.chunk)) ∧
          (late → ∃ o', OpBecomes s u o o' ∧
            (o.major = .catom → s.bad = [] → let va := (o.y.va s.cur.key.core o.y.base).toNat
              let size := 4 * 2 ^ (o.tw.toNat % 4 - 2)
              let key := s.tensorKey o.y va
              let req := o.operands f.out.cells
              NotLost s va → o'.acc = BitVec.ofNat 64 (memNat s.mem key size) ∧ o'.phase = .ended 0 0 0 ∧
                MemHolds s u key size (atomLeaves o.atom size (memNat s.mem key size) (req.argB.toNat % 256 ^ size) (req.argC.toNat % 256 ^ size))) ∧
            (∀ cells, o.major ≠ .catom → s.bad = [] → (if o.tr = .radd then s.addCells o f.out.cells else .ok f.out.cells) = .ok cells →
              ((cells.map fun x => s.tensorKey o.y x.1).Nodup) → (∀ x ∈ cells, x.1 < 2 ^ 64 ∧ NotLost s x.1) →
                f.chunk ∈ o'.done ∧ (∀ x ∈ cells, u.byteAt (s.tensorKey o.y x.1) = x.2) ∧
                (∀ a, (∀ x ∈ cells, s.tensorKey o.y x.1 ≠ a) → u.byteAt a = s.byteAt a))))) ∧
    (∀ f, c.isLive = true → c.frames = [f] → f.seq = s.ev.addr.toNat →
      ∃ u, exec .nack s = .next u ∧ CircuitIs u l.num c.ch { c with frames := [{ f with st := if f.st = .bad then .flying else f.st }] } ∧ SameMem s u) ∧
    (∀ n rest, c.isLive = true → c.notices = n :: rest → let ahead := (c.rxSeq + 2 ^ 32 - n.seq) % 2 ^ 32
      (2 ^ 31 ≤ ahead → exec .notice s = .next s) ∧
      (ahead < 2 ^ 31 → s.slotOfLin l.num n.lin = some s.cur.key →
        ∃ u, exec .notice s = .next u ∧ CircuitIs u l.num c.ch { c with notices := rest } ∧ SameMem s u ∧
          (∀ o, s.cur.findColl n.op = some o → u.cur.copies = s.cur.copies.map fun x => if x.id = o.id then
            { o with acc := BitVec.ofNat 64 n.count, phase := .ended n.status n.cause n.detail } else x)))) ∧
  (∀ (s : State) (r : HeldReq), let t := s.slotAt s.ev.slot
    let live := ((findLaunch s.launches t.bind.launch).elim [] fun l => l.circuits).any fun c => decide (c.ch = r.ch) && c.isLive
    t.heldOn = some r → (live = true → t.status = .bound → exec .expressFrame s = .next { s with agenda := .issue s.ev.slot .scalar :: s.agenda }) ∧
      (live = false → exec .expressFrame s = .next s))

/-- COLLECTIVES. A contribution begins a collective at its unit, joins the one of its key that the unit serves, or waits; one of this module
does so once all of its chunks are on the Millstone; a record that differs, or a member that comes twice, fails the collective. A
collective waits for members that can still come; once all have come its result goes out to each member of this module in chunks of at
most 4,096 bytes on the circuit to it; once every chunk of it has been performed, or when it fails, it leaves no region with its unit
(R279, R328, R329, R331). The detail 4 of a mismatch (log entry 65), that the unit combines once the last member has come and is done once
every chunk has been performed (log entry 66), and that contributions of other modules are inputs (log entry 111) are the model's. -/
def Obligations.CollectivesMatchAndDeliver : Prop :=
  (∀ (s : State) (mill unit job member : Nat) (recd data out : List Byte), let x := remoteContribution member recd data out
    s.ev.msg = .contribution mill unit job member recd data out →
      (s.servedColl mill unit = none →
        exec .collContribution s = .next { s with colls := s.colls ++ [firstColl mill unit job true x] }) ∧
      (∀ c, s.servedColl mill unit = some c → c.job ≠ job ∨ c.key ≠ collKey recd →
        exec .collContribution s = .next { s with colls := s.colls ++ [firstColl mill unit job false x] }) ∧
      (∀ c, s.servedColl mill unit = some c → c.job = job → c.key = collKey recd →
        ∃ u c', exec .collContribution s = .next u ∧ u.servedColl mill unit = some c' ∧ c'.got = c.got ++ [x] ∧ member ∈ c'.arrived ∧
          (∀ m ∈ c.arrived, m ∈ c'.arrived) ∧
          (c.ending = none → member ∉ c.arrived → collHead recd = collHead c.recd → c'.ending = none) ∧
          (c.ending = none → member ∈ c.arrived ∨ collHead recd ≠ collHead c.recd →
            c'.ending = some { status := 2, cause := 0x01, detail := 4, count := 0, undef := false }))) ∧
  (∀ (s : State) (t : Slot) (o : CopyOp), let n := s.ev.num
    let first := firstColl (collUnit o.recd).1 (collUnit o.recd).2 t.bind.job true (o.contribution t)
    let reached (u : State) : Prop := SameMem s u ∧ u.tokens = s.tokens ∧ (s.slotOfLin n s.ev.word.toNat = some s.cur.key →
      u.cur.copies = s.cur.copies.map fun x => if x.id = o.id ∧ x.major = .coll then { x with phase := .atUnit } else x)
    s.ev.msg = .none → s.context n s.ev.word.toNat = some t → t.findColl s.ev.addr.toNat = some o →
      (o.phase = .toUnit → s.contributed n o = false → exec .collContribution s = .next s) ∧
      (s.contributed n o = true → s.servedColl (collUnit o.recd).1 (collUnit o.recd).2 = none →
        ∃ u, exec .collContribution s = .next u ∧ reached u ∧ u.colls = s.colls ++ [first]) ∧
      (∀ cause detail, o.phase = .hit cause detail → s.servedColl (collUnit o.recd).1 (collUnit o.recd).2 = none →
        ∃ u, exec .collContribution s = .next u ∧ reached u ∧
          u.colls = s.colls ++ [{ first with ending := some { status := 2, cause := cause, detail := detail, count := 0, undef := true } }])) ∧
  (∀ (s : State) (c : Coll) (j : Job), s.ev.num < 64 → s.servedColl (s.ev.num / 16) (s.ev.num % 16) = some c → findJob s.jobs c.job = some j →
    let known : Prop := ∀ x ∈ c.got, s.agentOfLin x.launch x.lin ≠ none
    (c.ending = none → c.delivering = false → c.full j = false → s.goneMembers c j = [] → s.starved c j = false →
      exec .collDelivery s = .next s) ∧
    (c.ending = none → c.delivering = true → s.delivers c = true → exec .collDelivery s = .next s) ∧
    (c.ending ≠ none ∨ (c.delivering = true ∧ s.delivers c = false) → known →
      ∃ u, exec .collDelivery s = .next u ∧ ∀ x ∈ c.got, x.here = true → u.unitRegions c x = []) ∧
    (∀ x bs l d, c.ending = none → c.delivering = false → c.full j = true → isWalk c.recd = false → s.bufferErr c = none →
      s.defaultBytes c j = .ok bs →
      (c.got.filter fun y => y.here) = [x] → findLaunch s.launches x.launch = some l → findCircuit l.circuits ((x.chs.drop 1).headD 0) = some d →
        ∃ u d' ps, exec .collDelivery s = .next u ∧ SameMem s u ∧ u.tokens = s.tokens ∧ CircuitIs u l.num d.ch d' ∧ d'.outbox = d.outbox ++ ps
          ∧ (ps.flatMap fun p => p.2.2.cells) = bs.zipIdx.map (fun p => (x.dst.imageVa x.core p.2, p.1))
          ∧ (∀ p ∈ ps, p.1 = x.opId ∧ p.2.2.cells.length ≤ 4096)))

/-- THE RESULT OF A REDUCTION IN TREE ORDER DOES NOT DEPEND ON THE ORDER OF ARRIVAL: over the members of one module, in whatever order they
have come, element e is the tree over element e of members 0, 1, 2, …, widened, combined and rounded once (R304, R329). -/
def Obligations.ReductionsIgnoreArrivalOrder : Prop :=
  ∀ (s : State) (c : Coll) (j : Job) (vs : Nat → Nat → Nat), let r := c.recd
    let l := (collDies j r).length
    collOp r < 3 → collTree r = true → collDims r = [] → (c.got.map fun x => x.member).Perm (List.range l) →
    (∀ x ∈ c.got, ∀ e, e < collElems r → s.sourceElem c x e = .ok (vs x.member e)) →
      s.defaultBytes c j = .ok ((List.range (collElems r)).flatMap fun e => bytesOf (collSize r)
        (collNarrow (collType r) (collFold (collOp r) (collType r) true ((List.range l).map fun m => collWiden (collType r) (vs m e)))))
end

/-! ### Module links -/

namespace Sys2Proof.Claims
open Sys2Proof.Machine

/-- The event in hand names a link. -/
def EventLink (s : State) (l : Link) : Prop := findLink s.links s.ev.num = some l

/-- An event has changed one link and no other part of the module but those named: its slots, memory and tokens are as before. -/
def LinkIs (s u : State) (l : Link) : Prop :=
  findLink u.links s.ev.num = some l ∧ u.cur = s.cur ∧ u.others = s.others ∧ u.tokens = s.tokens ∧ SameMem s u

/-- A message stands last in the queue of a link. -/
def Queued (u : State) (l : Link) (m : LinkMsg) : Prop := ∃ l', findLink u.links l.num = some l' ∧ l'.queue = l.queue ++ [m] ∧ l'.rx = l.rx

/-- No operation of a slot is in flight on a link, so that its records go to Corelo and the host (R234). -/
def NoneOnLink (s : State) (n : Nat) : Prop := ∀ t ∈ s.slots, ∀ o ∈ t.copies, o.onLink n = false

/-- The operation of the acting slot that a message from the peer names is in flight on its link. -/
def RefHere (s : State) (n : Nat) (r : OpRef) (o : CopyOp) : Prop :=
  r.key = s.cur.key ∧ s.cur.bind.launch = r.launch ∧ s.cur.bind.lin = r.lin ∧ s.cur.findOp r.op = some o ∧ o.onLink n = true ∧ o.phase = .running

/-- A Millstone holds the message of a link of a job that the event names. -/
def HeldHere (s : State) (h : HeldMsg) (l : Link) (j : Job) : Prop :=
  s.evHeld = some h ∧ findLink s.links h.link = some l ∧ s.linkJob h.link = some j

/-- A message has left its Millstone, and a message has gone to its link. -/
def AnsweredHeld (s u : State) (h : HeldMsg) (l : Link) (m : LinkMsg) : Prop :=
  u.held = s.held.filter (fun x => decide (x.link ≠ h.link ∨ x.last ≠ h.last)) ∧ (l.st ≠ .down → Queued u l m)

/-- A held message has been dealt with at its home die: its answer waits at the Millstone. -/
def HasAnswer (s u : State) (h : HeldMsg) (m : LinkMsg) : Prop :=
  u.held = s.held.map fun x => if x.link = h.link ∧ x.last = h.last then { x with answer := some m } else x

/-- The lane a link event names. -/
def laneBit (s : State) : BitVec 16 := 1#16 <<< s.ev.addr.toNat

end Sys2Proof.Claims

section
open Sys2Proof Sys2Proof.Machine Sys2Proof.Claims

/-- FLITS ARE CHECKED IN ORDER. A good flit with the number expected is checked in and its message taken when it is whole: a chunk or request
is held at the Millstone, or discarded once the path to its module has been declared failed, an answer reaches its operation; any other
good flit is discarded, and one past a gap makes a NACK; a bad one is discarded, counted and named by a NACK; an idle flit has no number. A
link sends one flit in a cycle, none with 4,096 unacknowledged, and an ACK after 64 flits or 256 CCLK. An ACK takes what lies below it out
of the replay buffer; a NACK sets the next flit to send (R281, R356–R358). The layout of a message's bytes is the model's (log entry 136). -/
def Obligations.FlitsAreCheckedInOrder : Prop :=
  (∀ (s : State) (l : Link), EventLink s l →
    let data (f : Flit) : List Byte := if f.kind = 1 then l.rxData ++ f.payload else l.rxData
    let taken (f : Flit) : Link := { l.passed f with
      rx := (l.rx + 1) % 2 ^ 24, nacked := none, rxData := if f.kind = 1 ∧ f.msg.isSome then [] else data f }
    (∀ f, s.ev.msg = .flit f → l.carries = false → exec .flit s = .next s) ∧
    (∀ f, s.ev.msg = .flit f → l.carries = true → f.good = true → f.kind ≠ 1 → f.kind ≠ 2 →
      ∃ u, exec .flit s = .next u ∧ LinkIs s u { l with flits := l.flits + 1 } ∧ u.held = s.held) ∧
    (∀ f, s.ev.msg = .flit f → l.carries = true → f.good = true → f.kind = 1 ∨ f.kind = 2 → f.seq ≠ l.rx →
      ∃ u l', exec .flit s = .next u ∧ LinkIs s u l' ∧ l'.rx = l.rx ∧ l'.rxData = l.rxData ∧ l'.flits = l.flits + 1 ∧ u.held = s.held ∧
        (seqPast l.rx f.seq = true → l.nacked ≠ some l.rx → l.st = .up → l'.ctl = l.ctl ++ [.nack l.rx] ∧ l'.nacked = some l.rx)) ∧
    (∀ f, s.ev.msg = .flit f → l.carries = true → f.good = true → f.kind = 1 ∨ f.kind = 2 → f.seq = l.rx →
      (f.msg = none → ∃ u, exec .flit s = .next u ∧ LinkIs s u (taken f) ∧ u.held = s.held) ∧
      (∀ m, f.msg = some m → (∃ r n pair cells, m = .chunk r n pair cells) ∨ (∃ r va size space code b c, m = .catom r va size space code b c) →
        ∃ u, exec .flit s = .next u ∧ LinkIs s u (taken f) ∧ u.held =
          if l.peerAgent ∈ s.lostModules then s.held
          else s.held ++ [{ link := l.num, msg := m.received (data f), since := s.cycle, last := f.seq, via := none, answer := none }]) ∧
      (∀ r o, RefHere s l.num r o →
        (∀ n, f.msg = some (.performed r n) → ∃ u, exec .flit s = .next u ∧ OpBecomes s u o (o.markDone n) ∧ SameMem s u) ∧
        (∀ old, f.msg = some (.response r old) → ∃ u, exec .flit s = .next u ∧ SameMem s u ∧
          OpBecomes s u o { o with acc := old, done := [0], phase := .ended 0 0 0 }) ∧
        (∀ c d, f.msg = some (.refused r c d) → ∃ u o', exec .flit s = .next u ∧ SameMem s u ∧ OpBecomes s u o o' ∧ o'.phase = .ended 2 c d))) ∧
    (∀ f, s.ev.msg = .flit f → l.carries = true → f.good = false → ∃ u l', exec .flit s = .next u ∧ LinkIs s u l' ∧ l'.rx = l.rx
      ∧ l'.rxData = l.rxData ∧ l'.flits = l.flits + 1 ∧ u.held = s.held ∧ u.errors.lanes = s.errors.lanes + 1
      ∧ (l.st = .up → l'.ctl = l.ctl ++ [.nack l.rx])) ∧
    (l.st = .down → ∃ u, exec .linkAck s = .next u ∧ LinkIs s u l) ∧
    (l.carries = false → ∃ u, exec .linkNack s = .next u ∧ LinkIs s u l) ∧
    (let n := s.ev.word.toNat % 2 ^ 24
      let k := seqDist l.acked n
      (l.st ≠ .down → k ≤ l.replay.length →
        ∃ u l', exec .linkAck s = .next u ∧ LinkIs s u l' ∧ l'.acked = n ∧ l'.replay = l.replay.drop k ∧ l'.tx = l.tx) ∧
      (l.st ≠ .down → l.replay.length < k → ∃ u, exec .linkAck s = .next u ∧ LinkIs s u l) ∧
      (l.carries = true → seqDist n l.tx ≤ l.replay.length → ∃ u, exec .linkNack s = .next u ∧ LinkIs s u { l with wire := n }) ∧
      (l.carries = true → l.replay.length < seqDist n l.tx → ∃ u, exec .linkNack s = .next u ∧ LinkIs s u l)) ∧
    (∀ n, n = seqDist l.ackSent (s.ackPoint l) → l.st ≠ .down → n ≤ 4096 → 64 ≤ n ∨ (0 < n ∧ l.ackAt + 256 ≤ s.cycle) →
        ∃ l', LinkIs s (s.linkCycle l) l' ∧ LaneMsg.ack (s.ackPoint l) ∈ l'.ctl ∧ l'.ackSent = s.ackPoint l ∧ l'.ackAt = s.cycle) ∧
    (∀ m rest, l.sends = true → l.wire = l.tx → l.queue = m :: rest →
      (l.replay.length < 4096 → ∃ l' f, LinkIs s (s.linkCycle l) l' ∧ l'.sent = some f ∧ f.seq = l.tx ∧ f.good = true
        ∧ l'.tx = (l.tx + 1) % 2 ^ 24 ∧ l'.replay = l.replay ++ [f]) ∧
      (4096 ≤ l.replay.length → ∃ l', LinkIs s (s.linkCycle l) l' ∧ l'.sent = none ∧ l'.tx = l.tx ∧ l'.replay = l.replay))) ∧
  (∀ (m : LinkMsg) (frameNo modl : Nat), m.received ((flitPieces m.flits (m.bytes frameNo modl)).flatten) = m)

/-- A MILLSTONE CARRIES ON what it holds over the live circuit of the job to the home die, chosen anew when that one is gone, and sends the
answer back over the link; what has no page is refused at once. At the home die a byte that the remote module may store is stored, in
the shadow view when it came through the handle of a pair; an atomic operation is done in one step and its old value is the answer; a
refused access stores nothing. What has had no circuit for 2^20 CCLK is refused with F_CIRCUIT (R141, R205, R280, R358). -/
def Obligations.MillstonesForwardOrRefuse : Prop :=
  ∀ (s : State) (h : HeldMsg) (l : Link) (j : Job), HeldHere s h l j →
    (h.via = none → h.answer ≠ none ∨ s.msgHome j h.msg ≠ none →
      exec .millstoneForward s = .next { s with
        held := s.held.map fun x => if x.link = h.link ∧ x.last = h.last then { x with via := s.carrier j (h.link / 4) ((s.msgHome j h.msg).getD 0) } else x }) ∧
    (∀ v, h.via = some v →
      (s.carrierLive v = false → exec .millstoneForward s = .next { s with
        held := s.held.map fun x => if x.link = h.link ∧ x.last = h.last then { x with via := none } else x }) ∧
      (s.carrierLive v = true → h.answer = none → exec .millstoneForward s = .next s) ∧
      (∀ m, s.carrierLive v = true → h.answer = some m → ∃ u, exec .millstoneForward s = .next u ∧ AnsweredHeld s u h l m ∧ SameMem s u)) ∧
    (∀ r n pair cells c d, h.via = none → h.answer = none → s.msgHome j h.msg = none → h.msg = .chunk r n pair cells →
      s.remoteShadow j pair cells = .ok cells → s.remoteFault j l.peerAgent cells = some (c, d) →
        ∃ u, exec .millstoneForward s = .next u ∧ AnsweredHeld s u h l (.refused r c (BitVec.ofNat 16 d)) ∧ SameMem s u) ∧
    (h.answer = none → let u := s.deliverHeld h.link h.last (s.heldCells j h.msg)
      (∀ r n pair va b va' a, h.msg = .chunk r n pair [(va, b)] → s.remoteShadow j pair [(va, b)] = .ok [(va', b)] → va' < 2 ^ 64 →
        s.remoteAdmit j l.peerAgent va' 0 .store = .ok a → s.bad = [] → (∀ e, findRegion s.tokens j.id va' = some e → e.st ≠ .lost) →
          HasAnswer s u h (.performed r n) ∧ u.byteAt a.key = b ∧ ∀ x, x ≠ a.key → u.byteAt x = s.byteAt x) ∧
      (∀ r n pair cells cells' c d, h.msg = .chunk r n pair cells → s.remoteShadow j pair cells = .ok cells' →
        s.remoteFault j l.peerAgent cells' = some (c, d) → HasAnswer s u h (.refused r c (BitVec.ofNat 16 d)) ∧ SameMem s u) ∧
      (∀ r va size space code b c a, h.msg = .catom r va size space code b c → s.remoteAdmit j l.peerAgent va.toNat space .rmw = .ok a →
        s.bad = [] → (∀ e, findRegion s.tokens j.id va.toNat = some e → e.st ≠ .lost) → let old := memNat s.mem a.key size
          HasAnswer s u h (.response r (BitVec.ofNat 64 old)) ∧
          MemHolds s u a.key size (atomLeaves code size old (b.toNat % 256 ^ size) (c.toNat % 256 ^ size))) ∧
      (∀ r va size space code b c x d, h.msg = .catom r va size space code b c →
        s.remoteAdmit j l.peerAgent va.toNat space .rmw = .error (x, d) → HasAnswer s u h (.refused r x (BitVec.ofNat 16 d)) ∧ SameMem s u)) ∧
    (∀ w0 base e cells, findRegion s.tokens j.id w0 = some e →
      s.remoteShadow j none cells = .ok cells ∧
      (e.log2 < 17 → s.remoteShadow j (some (w0, base)) cells = .error (0x01, 4)) ∧
      (17 ≤ e.log2 → s.remoteShadow j (some (w0, base)) cells =
        .ok (if e.base ≤ base ∧ base < e.base + 2 ^ (e.log2 - 1) then cells.map fun c => (c.1 + 2 ^ (e.log2 - 1), c.2) else cells))) ∧
    (s.cycle < h.since + 2 ^ 20 ∨ h.via ≠ none ∨ h.answer ≠ none → exec .millstoneHoldTimeout s = .next s) ∧
    (∀ r, h.since + 2 ^ 20 ≤ s.cycle → h.via = none → h.answer = none →
      (∃ n pair cells, h.msg = .chunk r n pair cells) ∨ (∃ va size space code b c, h.msg = .catom r va size space code b c) →
        ∃ u, exec .millstoneHoldTimeout s = .next u ∧ AnsweredHeld s u h l (.refused r 0x0D 0) ∧ SameMem s u)

/-- WIDTHS AND RATES. A lane lost or retuned, or a request for a lower rate, begins one handshake with a LANEMAP, whose boundary is the
smallest multiple of 16 at least 16 flits on; a LANEMAP of the peer joins it, or is answered; of two that cross, the lower end's holds. At
the boundary the link takes the largest power of two of the lowest lanes of the masks exchanged, or trains at its new rate first, for
at most 2^21 CCLK; a link without usable lanes goes down; a quiesce that waits then begins (R359–R364, R367). What shows that the boundary
has been reached is the model's reading (log entry 63). -/
def Obligations.LinksChangeWidthAndRate : Prop :=
  ∀ (s : State) (l : Link), EventLink s l →
    let begun (x : Link) (failed : BitVec 16) (rate : Option Nat) (l' : Link) : Prop := let b := (l.wire + 31) / 16 * 16 % 2 ^ 24
      l'.st = .restripe ∧ l'.usable = x.usable ∧ l'.lanes = x.lanes
        ∧ l'.shake = some
          { f := l.wire, b := b, failed := failed, before := l.lanes, rate := rate, mine := true, mask := x.usable, peerMask := none, passed := false }
        ∧ l'.ctl = x.ctl ++ [match rate with | none => .laneMap x.usable l.wire b | some r => .retrain x.usable l.wire b r]
    let lost : Link := { l with usable := l.usable &&& ~~~ laneBit s, laneErrs := l.laneErrs.filter fun e => decide (e.1 ≠ s.ev.addr.toNat) }
    (l.st ≠ .down → laneSet (lost.usable &&& l.peerUsable) ≠ 0 →
      (l.lanes.getLsbD s.ev.addr.toNat = false ∨ l.st ≠ .up ∨ l.shake ≠ none → ∃ u, exec .laneFailure s = .next u ∧ LinkIs s u lost) ∧
      (l.lanes.getLsbD s.ev.addr.toNat = true → l.st = .up → l.shake = none →
        ∃ u l', exec .laneFailure s = .next u ∧ LinkIs s u l' ∧ begun lost (laneBit s) none l')) ∧
    (l.st ≠ .down → laneSet (lost.usable &&& l.peerUsable) = 0 →
      ∃ u l', exec .laneFailure s = .next u ∧ findLink u.links s.ev.num = some l' ∧ l'.st = .down ∧ l'.lanes = 0) ∧
    (l.st = .up → l.shake = none → let x : Link := { l with usable := l.usable ||| laneBit s }
      ∃ u l', exec .laneRetuned s = .next u ∧ LinkIs s u l' ∧ begun x 0 none l') ∧
    (s.ev.word.toNat ≤ l.rate ∨ 2 < s.ev.word.toNat → exec .retrain s = .next s) ∧
    (l.rate < s.ev.word.toNat → s.ev.word.toNat ≤ 2 → l.st = .up → l.shake = none → s.ev.msg = .none →
      ∃ u l', exec .retrain s = .next u ∧ LinkIs s u l' ∧ begun l 0 (some s.ev.word.toNat) l') ∧
    (∀ mask f b, s.ev.msg = .laneMap mask f b → l.carries = true →
      (l.shake = none → let joined (rate : Option Nat) : Shake :=
          { f := f, b := b, failed := l.lanes &&& ~~~ mask, before := l.lanes, rate := rate, mine := false, mask := l.usable,
            peerMask := some mask, passed := false }
        let asked (rate : Option Nat) (m : LaneMsg) : Link :=
          { l with st := .restripe, peerUsable := mask, shake := some (joined rate), ctl := l.ctl ++ [m] }
        let r := s.ev.word.toNat
        (∃ u, exec .laneMap s = .next u ∧ LinkIs s u (asked none (.laneMap l.usable f b))) ∧
        (l.rate < r → r ≤ 2 → ∃ u, exec .retrain s = .next u ∧ LinkIs s u (asked (some r) (.retrain l.usable f b r)))) ∧
      (∀ h, l.shake = some h → let yields : Prop := h.mine = true ∧ (h.f, h.b) ≠ (f, b) ∧ s.lowerEnd l = false
        ∃ u l' h', exec .laneMap s = .next u ∧ LinkIs s u l' ∧ l'.shake = some h' ∧ h'.peerMask = some mask ∧ h'.rate = h.rate ∧ h'.mask = h.mask ∧
          (yields → h'.f = f ∧ h'.b = b ∧ h'.mine = false ∧ l'.ctl = l.ctl ++ [h'.message]) ∧
          (¬ yields → h'.f = h.f ∧ h'.b = h.b ∧ h'.mine = h.mine ∧ l'.ctl = l.ctl))) ∧
    (∀ h, l.shake = some h → NoneOnLink s l.num → let peer := h.peerMask.getD l.peerUsable
      let set := laneSet (h.mask &&& peer)
      let reached : Prop := (h.mine = true ∧ (seqPast h.b l.wire = true ∨ (l.queue = [] ∧ l.wire = l.tx)))
        ∨ (h.mine = false ∧ (seqPast h.b l.pos = true ∨ h.passed = true ∨ s.ev.word = 1))
      let ready : Prop := l.st = .restripe ∧ h.peerMask ≠ none ∧ reached
      let settled (u : State) : Prop := ∃ l' r, LinkIs s u l' ∧ l'.lanes = set ∧ l'.rate = h.rate.getD l.rate ∧ l'.wire = l.acked
        ∧ (laneSet (l.usable &&& peer) = set → l'.st = .up ∧ l'.shake = none)
        ∧ (laneSet (l.usable &&& peer) ≠ set → l'.st = .restripe ∧ ∃ x, l'.shake = some x ∧ x.mask = l.usable)
        ∧ (l.quiesceReq = true → l'.draining = true ∧ l'.drainAt = s.cycle)
        ∧ u.corelo = s.corelo ++ [(r, true)] ∧ r.kind = 5 ∧ r.status = 0
      (set ≠ 0 → ready → h.rate = none → ∃ u, exec .restripeBoundary s = .next u ∧ settled u) ∧
      (ready → h.rate ≠ none → ∃ u, exec .restripeBoundary s = .next u ∧ LinkIs s u { l with st := .retrain, since := s.cycle }) ∧
      (¬ ready → ∃ u, exec .restripeBoundary s = .next u
        ∧ LinkIs s u { l with shake := some { h with passed := h.passed || decide (s.ev.word = 1) } }) ∧
      (set ≠ 0 → l.st = .retrain → ∃ u, exec .retrainDone s = .next u ∧ settled u) ∧
      (l.st ≠ .retrain → exec .retrainDone s = .next s)) ∧
    (l.st = .retrain → l.since + 2 ^ 21 ≤ s.cycle →
      ∃ u l', exec .retrainTimeout s = .next u ∧ findLink u.links s.ev.num = some l' ∧ l'.st = .down ∧ l'.shake = none) ∧
    (l.st ≠ .retrain ∨ s.cycle < l.since + 2 ^ 21 → exec .retrainTimeout s = .next s) ∧
    (∀ m, m ≠ 0 → ∃ k, laneList (laneSet m) = (laneList m).take (2 ^ k) ∧ 2 ^ k ≤ laneCount m ∧ laneCount m < 2 * 2 ^ k)

/-- UP, DOWN AND QUIESCED. A link that goes down discards its flits and what its Millstone holds, ends or holds its operations, and
reports it; a try at bring-up begins when it is due, again 2^20 CCLK later, with the identity and version exchanges; one whose exchanges
agree takes the link up from flit 0 at rate code 0, one that is refused reports why; the port opens once every link has been tried; a
drain ends when everything is acknowledged and no veto is held, and no lane stays in use; a veto held for 200,000 CCLK is broken (R209,
R362–R369, R385). That sequence numbers restart at 0 and the order of the reasons of a refusal are the model's readings (log entries 61
and 62). -/
def Obligations.LinksGoDownAndComeUp : Prop :=
  ∀ (s : State) (l : Link), EventLink s l →
    let drained : Prop := l.draining = true ∧ l.st = .up ∧ l.shake = none ∧ l.replay = [] ∧ l.queue = [] ∧ s.vetoed l.num = false
    let late : Prop := l.draining = true ∧ l.drainAt + 200000 ≤ s.cycle
    let isPeer : Prop := ∃ job modl lnk coords lo hi mask, s.ev.msg = .peer job modl lnk coords lo hi mask
    let failed : Link := { l with trying := false, tried := true, expect := none }
    (l.st ≠ .down → ∃ u l', exec .linkDown s = .next u ∧ findLink u.links s.ev.num = some l' ∧ l'.st = .down ∧ l'.lanes = 0 ∧ l'.replay = []
      ∧ l'.queue = [] ∧ l'.shake = none ∧ l'.draining = false ∧ l'.tryAt = s.cycle + 2 ^ 20
      ∧ u.held = s.held.filter (fun h => decide (h.link ≠ s.ev.num)) ∧
      (NoneOnLink s l.num → ∃ r, u.corelo = s.corelo ++ [(r, true)] ∧ r.kind = 5 ∧ r.status = 2)) ∧
    (l.st = .down → ∃ u, exec .linkDown s = .next u ∧ u.links = s.links ∧ u.held = s.held ∧ u.corelo = s.corelo ∧ SameMem s u) ∧
    (l.mayTry = false → exec .bringUp s = .next s) ∧
    (l.mayTry = true → ¬ isPeer → ¬ (l.trying = true ∧ s.ev.word = 1) →
      (s.cycle < l.tryAt → exec .bringUp s = .next s) ∧
      (l.tryAt ≤ s.cycle → ∃ u l' modl coords, exec .bringUp s = .next u ∧ LinkIs s u l' ∧ l'.st = l.st ∧ l'.trying = true ∧ l'.tryAt = s.cycle + 2 ^ 20
        ∧ l'.ctl = [.identity (s.linkJobNum l.num) modl l.num coords, .versions Config.fantailLow Config.fantailHigh]
        ∧ ∀ j, s.linkJob l.num = some j → modl = j.moduleId.toNat ∧ coords = j.coords)) ∧
    (l.mayTry = true → isPeer → l.trying = false → exec .bringUp s = .next s) ∧
    (∀ job modl lnk coords lo hi mask, s.ev.msg = .peer job modl lnk coords lo hi mask → l.mayTry = true → l.trying = true → NoneOnLink s l.num →
      let set := laneSet (s.ev.word.setWidth 16 &&& mask)
      (s.refusal l job modl lnk lo hi = none → set ≠ 0 →
        ∃ u l' r, exec .bringUp s = .next u ∧ findLink u.links s.ev.num = some l' ∧ l'.st = .up ∧ l'.lanes = set ∧ l'.rate = 0
          ∧ l'.peer = some (modl, lnk) ∧ l'.peerCoords = coords ∧ l'.version = min hi Config.fantailHigh ∧ l'.tx = 0 ∧ l'.rx = 0 ∧ l'.replay = []
          ∧ u.corelo = s.corelo ++ [(r, true)] ∧ r.kind = 5 ∧ r.status = 0 ∧ SameMem s u) ∧
      (∀ reason, s.refusal l job modl lnk lo hi = some reason →
        ∃ u l' r, exec .bringUp s = .next u ∧ findLink u.links s.ev.num = some l' ∧ l'.st = .down ∧ l'.trying = false ∧ l'.tried = true
          ∧ u.corelo = s.corelo ++ [(r, true)] ∧ r.kind = 5 ∧ r.status = 2 ∧ r.code = BitVec.ofNat 32 (0x10 + l.num * 2 ^ 8 + reason * 2 ^ 16)
          ∧ SameMem s u) ∧
      (s.refusal l job modl lnk lo hi = none → set = 0 → l.st = .down → ∃ u, exec .bringUp s = .next u ∧ LinkIs s u failed ∧ u.corelo = s.corelo)) ∧
    (l.st = .down → l.trying = true → ¬ isPeer → s.ev.word = 1 → ∃ u, exec .bringUp s = .next u ∧ LinkIs s u failed ∧ u.corelo = s.corelo ∧
      (s.host.recovery = false → (∀ x ∈ u.links, x.tried = true) → u.host.opened = true)) ∧
    ((drained → NoneOnLink s l.num → ∃ u r, exec .quiesceDrained s = .next u ∧ LinkIs s u { l with st := .quiesced, draining := false, lanes := 0 }
        ∧ u.corelo = s.corelo ++ [(r, true)] ∧ r.kind = 5 ∧ r.status = 1) ∧
      (¬ drained → exec .quiesceDrained s = .next s)) ∧
    ((late → ∃ u, exec .vetoTimeout s = .next u ∧ SameMem s u ∧ u.vetoed l.num = false ∧ (∀ h ∈ u.held, h ∈ s.held) ∧
        (∀ t ∈ s.slots, ∀ o ∈ t.copies, o.vetoes l.num = true → ∃ t' ∈ u.slots, ∃ o' ∈ t'.copies, t'.key = t.key ∧ o'.id = o.id
          ∧ o'.phase = .ended 2 0x10 (BitVec.ofNat 16 l.num))) ∧
      (¬ late → exec .vetoTimeout s = .next s))
end

/-! ### The host port, reset and the memory's upkeep -/

namespace Sys2Proof.Claims
open Sys2Proof.Machine

/-- The commands by the event that names them, with what each does once it is accepted (R375). -/
def hostForms : List (Instr × Nat × (Cmd → State → State)) := [
  (.jobCreate, 0x01, runJobCreate), (.jobEnd, 0x02, runJobEnd), (.mapPage, 0x03, runMap), (.submit, 0x04, runSubmit),
  (.cancel, 0x05, runCancel), (.preemptCmd, 0x06, runPreempt), (.returnRegion, 0x07, runReturn), (.quiesce, 0x08, runQuiesce),
  (.resumeLink, 0x09, runResume), (.journalRead, 0x0A, runJournalRead), (.capRead, 0x0B, runCapRead), (.diagRead, 0x0C, runDiagRead),
  (.attest, 0x0D, runAttest), (.auditRead, 0x0E, runAuditRead), (.auditAck, 0x0F, runAuditAck), (.download, 0x10, runDownload),
  (.failUnit, 0x11, runFail)]

/-- A frame has come whose fields and digest are right, from a source that the port takes commands of this code from (R370, R373). -/
def FrameCame (s : State) (c : Cmd) : Prop := ∃ src f, s.ev.msg = .frame src f ∧ cmdOf src f = some c ∧ s.host.takes src c.code = true

/-- A command of a code is accepted: it is the next one, none waits for its answer, it may run before the first JOB_CREATE or that is
over, and a command that changes state finds room in the audit log (R370, R374, R384). -/
def Accepted (s : State) (c : Cmd) (code : Nat) : Prop :=
  FrameCame s c ∧ c.code = code ∧ c.seq = s.host.next ∧ s.host.waiting = none
    ∧ (s.host.recovery = true ∨ s.host.addrs ≠ [] ∨ code ∈ [1, 0x0A, 0x0B, 0x0C, 0x0D, 0x0E])
    ∧ ((code ≤ 9 ∨ code = 0x10 ∨ code = 0x11) → s.host.audit.length < 65536)

/-- The state in which an accepted command runs: its sequence number is taken and the audit log names it (R374, R384). -/
def taken (s : State) (c : Cmd) : State :=
  { s with host := { s.host with next := c.seq + 1 } }.audit 1 0x40000000 (bytesOf 8 c.seq ++ bytesOf 4 c.code ++ bytesOf 4 c.job)

/-- A command has been answered: the last frame sent is its answer, with a status and a body, and the journal keeps it (R373, R374,
R376). -/
def Answered (u : State) (c : Cmd) (status : Nat) (body : List Byte) : Prop :=
  let f := frameBytes 2 c.seq c.code c.job status body
  (∃ pre, u.host.sent = pre ++ [f]) ∧ ∃ e ∈ u.host.journal, e.seq = c.seq ∧ e.code = c.code ∧ e.status = status ∧ e.answer = f

/-- The command waits for its answer (R301, R367, R375). -/
def Waits (u : State) (c : Cmd) (arg : Nat) : Prop := ∃ p, u.host.waiting = some p ∧ p.seq = c.seq ∧ p.code = c.code ∧ p.arg = arg

/-- No instance of a launch is left to bind, and it counts as cancelled. -/
def LaunchCancelled (u : State) (n : Nat) : Prop := ∀ l ∈ u.launches, l.num = n → l.unbound = [] ∧ l.inPool = false ∧ l.cancelled = true

/-- A thread is asked to give way: an MWAIT or a SLEEP ends, and nothing else of its slot changes (R127, R130, R241). -/
def AskedToYield (t u : Slot) : Prop :=
  u = { t with preemptReq := true, waiting := match t.waiting with | .monitor .. => .woken | .sleeping _ => .woken | w => w }

/-- No slot stands twice in the state. -/
def SlotsStandOnce (s : State) : Prop := (s.slots.map fun t => t.key).Nodup

/-- The dies that a JOB_CREATE names are free, its torus is legal and its Millstone ports are unassigned (R350, R366, R375). -/
def PartitionFree (s : State) (c : Cmd) : Prop :=
  c.dies ≠ [] ∧ (∀ d ∈ c.dies, ∀ j ∈ s.jobs, d ∉ j.dies) ∧ c.torusOk = true ∧ ∀ p ∈ c.ports, ∀ q ∈ s.millPorts, q.1 ≠ p

end Sys2Proof.Claims

section
open Sys2Proof Sys2Proof.Machine Sys2Proof.Claims

/-- COMMANDS ARE TAKEN IN ORDER. A frame with a bad field or digest, from another source, or that names another command changes nothing; a
command ahead of its turn is answered with status 3; one that was answered gets the same answer again; one older than the journal gets
status 4; one that comes while another waits for its answer is kept for the next cycle; one that changes state is answered with status
5 when the audit log is full; the next one in order runs, by its own event or in a SEND (R370, R371, R373, R374, R384). The reason
code 1 is the model's choice (log entry 72). -/
def Obligations.CommandsAreTakenInOrder : Prop :=
  ∀ (s : State), ∀ f ∈ hostForms,
    (∀ src b, s.ev.msg = .frame src b → cmdOf src b = none → exec f.1 s = .next s ∧ exec .sendFrame s = .next s) ∧
    (∀ c, FrameCame s c → c.code ≠ f.2.1 → exec f.1 s = .next s) ∧
    (∀ c, FrameCame s c → c.code = f.2.1 → ∀ i, i = f.1 ∨ i = .sendFrame →
      let bare (status : Nat) : State := s.sendHost (frameBytes 2 c.seq c.code c.job status [])
      (s.host.next < c.seq → exec i s = .next (bare 3)) ∧
      (c.seq < s.host.next → ∀ e, (s.host.journal.find? fun e => decide (e.seq = c.seq)) = some e → exec i s = .next (s.sendHost e.answer)) ∧
      (c.seq + 65536 < s.host.next → (∀ e ∈ s.host.journal, e.seq ≠ c.seq) → exec i s = .next (bare 4)) ∧
      (c.seq = s.host.next → s.host.waiting ≠ none →
        exec i s = .next { s with inputs := { cycle := s.cycle + 1, what := i, args := s.ev } :: s.inputs }) ∧
      (c.seq = s.host.next → s.host.waiting = none → s.host.recovery = false → s.host.addrs = [] → c.code ∉ [1, 0x0A, 0x0B, 0x0C, 0x0D, 0x0E] →
        ∃ u, exec i s = .next u ∧ Answered u c 1 (bytesOf 4 1) ∧ u.launches = s.launches ∧ u.jobs = s.jobs) ∧
      (c.seq = s.host.next → s.host.waiting = none → (s.host.recovery = true ∨ s.host.addrs ≠ []) → (c.code ≤ 9 ∨ c.code = 0x10 ∨ c.code = 0x11) →
        65536 ≤ s.host.audit.length → ∃ u, exec i s = .next u ∧ Answered u c 5 [] ∧ u.launches = s.launches ∧ u.jobs = s.jobs) ∧
      (Accepted s c f.2.1 → exec i s = .next (f.2.2 c (taken s c))))

/-- JOBS, PAGES AND LAUNCHES BY COMMAND. JOB_CREATE makes a job on the lowest free partition and, the first time, fixes the host's
addresses; JOB_END cancels every launch of the job and is answered when nothing of it is left; MAP changes a page and is answered when
no access uses the old one; SUBMIT makes a launch, and a submission of Corelo's own makes one of supervisor threads; CANCEL ends one;
PREEMPT asks for a thread; RETURN, here or at the other module's Corelo, brings a loan home (R11, R280, R301, R311, R321, R323, R370,
R375, R389). The places of the fields in a body and the numbers of reasons are the model's choice (log entries 71 and 72). -/
def Obligations.JobAndLaunchCommands : Prop :=
  ∀ (s : State) (c : Cmd),
    (∀ part, Accepted s c 0x01 → s.freePartition = some part → PartitionFree s c →
      ∃ u j, exec .jobCreate s = .next u ∧ Answered u c 0 (bytesOf 4 s.host.nextJob ++ bytesOf 4 part) ∧ j ∈ u.jobs ∧ j.id = s.host.nextJob
        ∧ j.partition = BitVec.ofNat 16 part ∧ j.dies = c.dies ∧ u.host.nextJob = s.host.nextJob + 1
        ∧ (s.host.addrs = [] → c.src ∈ u.host.addrs) ∧ (s.host.addrs ≠ [] → u.host.addrs = s.host.addrs)) ∧
    (∀ j, Accepted s c 0x02 → findJob s.jobs c.job = some j →
      ∃ u, exec .jobEnd s = .next u ∧ Waits u c c.job ∧ ∀ l ∈ u.launches, l.job = c.job → l.unbound = [] ∧ l.cancelled = true) ∧
    (∀ p j, s.ev.msg = .none → s.host.waiting = some p → p.code = 2 → findJob s.jobs p.arg = some j →
      (s.jobIdle p.arg = false → exec .jobEnd s = .next s) ∧
      (s.jobIdle p.arg = true → ∃ u, exec .jobEnd s = .next u ∧ u.host.waiting = none ∧ (∀ x ∈ u.jobs, x.id ≠ p.arg)
        ∧ (∀ e ∈ u.tokens, e.job ≠ p.arg) ∧ ∃ pre, u.host.sent = pre ++ [frameBytes 2 p.seq p.code p.job 0 []])) ∧
    (∀ j v, Accepted s c 0x03 → findJob s.jobs c.job = some j → let va := c.num 0 8
      let pte := BitVec.ofNat 64 (c.num 8 8)
      let log2 := if c.num 16 1 = 0 then 16 else 25
      (taken s c).mapBad j va log2 pte = false → ((taken s c).copyFrames j log2 pte).setPage j va log2 pte = some v →
        ∃ u j', exec .mapPage s = .next u ∧ Waits u c (va * 64 + log2) ∧ findJob u.jobs c.job = some j' ∧ (pte.getLsbD 0 = true → (va, log2, pte) ∈ j'.maps)
          ∧ (pte.getLsbD 0 = false → ∀ m ∈ j'.maps, m.1 = va → m.2.1 ≠ log2)
          ∧ (u.tokens.map fun e => { e with forwards := [] }) = s.tokens.map fun e => { e with forwards := [] }) ∧
    (∀ p, s.ev.msg = .none → s.host.waiting = some p → p.code = 3 → let used := s.pageUsed p.job (p.arg / 64) (2 ^ (p.arg % 64))
      (used = true → exec .mapPage s = .next s) ∧
      (used = false → ∃ u, exec .mapPage s = .next u ∧ u.host.waiting = none ∧ ∃ pre, u.host.sent = pre ++ [frameBytes 2 p.seq p.code p.job 0 []])) ∧
    (∀ j i, Accepted s c 0x04 → findJob s.jobs c.job = some j → s.copyPage c.job = some i → c.body.length = 512 → let t := taken s c
      let r := t.submit j .host false (BitVec.ofNat 64 (keptVa i)) c.body (t.mgmtRead j)
      (∀ num v w, r = .accepted num v → v.keepPage j i true c.body = some w →
        ∃ u l, exec .submit s = .next u ∧ Answered u c 0 (bytesOf 4 num) ∧ l ∈ u.launches ∧ l.num = num ∧ l.recd = c.body ∧ l.submitter = .host
          ∧ l.job = c.job ∧ l.recordAddr = BitVec.ofNat 64 (keptVa i) ∧ (s.deadDies = [] → l.unbound = List.range (instanceCount (loopLevels c.body)) ∧ l.inPool = true)) ∧
      (r = .full → ∃ u, exec .submit s = .next u ∧ Answered u c 2 [] ∧ u.launches = s.launches) ∧
      (r = .rejected → ∃ u, exec .submit s = .next u ∧ Answered u c 1 (bytesOf 4 2) ∧ u.launches = s.launches)) ∧
    (∀ job r j i num v w, s.ev.msg = .management job r → r.length = 512 → findJob s.jobs job = some j → s.copyPage job = some i →
      s.submit j .corelo true (BitVec.ofNat 64 (keptVa i)) r (s.mgmtRead j) = .accepted num v → v.keepPage j i true r = some w →
        exec .submit s = .next w ∧ ∃ l ∈ w.launches, l.num = num ∧ l.recd = r ∧ l.supervisor = true ∧ l.submitter = .corelo) ∧
    (∀ l, Accepted s c 0x05 → c.num 4 1 ≠ 1 → findLaunch s.launches (c.num 0 4) = some l → l.job = c.job →
      ∃ u, exec .cancel s = .next u ∧ Answered u c 0 [] ∧ LaunchCancelled u l.num) ∧
    (Accepted s c 0x05 → c.num 4 1 = 1 → ∃ u, exec .cancel s = .next u ∧ Answered u c 0 []
      ∧ (u.launches.map fun l => (l.num, l.unbound, l.cancelled)) = (s.launches.map fun l => (l.num, l.unbound, l.cancelled))
      ∧ ∀ x ∈ u.colls, x.job = c.job → x.key = c.num 0 4 → x.served = true ∧ x.cancelled = true ∧ x.ending ≠ none) ∧
    (∀ k, Accepted s c 0x06 → s.slotOfLin (c.num 0 4) (c.num 4 4) = some k → (s.slotAt k).status = .bound →
      ∃ u, exec .preemptCmd s = .next u ∧ Answered u c 0 [] ∧ AskedToYield (s.slotAt k) (u.slotAt k) ∧ SameMem s u) ∧
    (s.ev.msg = .none → (∀ k, s.wanted = some k → ∃ u, exec .preemptCmd s = .next u ∧ AskedToYield (s.slotAt k) (u.slotAt k) ∧ SameMem s u) ∧
      (s.wanted = none → exec .preemptCmd s = .next s)) ∧
    (∀ e, Accepted s c 0x07 → let w := c.num 0 8
      findEntry s.tokens c.job (w / 65536 * 65536) (w % 64) = some e → (agentKind e.owner = 4 ∨ agentKind e.owner = 3) → e.st = .lent →
        ∃ u, exec .returnRegion s = .next u ∧ Answered u c 0 [] ∧ SameMem s u
          ∧ u.tokens = putEntry s.tokens { e with owner := e.homeAgent, st := .excl }) ∧
    (∀ modl job word, s.ev.msg = .loanBack modl job word → (s.tokens.map fun e => (e.job, e.base, e.log2)).Nodup →
      let lent (e : Entry) : Prop := e.job = job ∧ e.owner = BitVec.ofNat 32 (0x30000000 + modl % 65536) ∧ e.st = .lent
        ∧ ∀ w, word = some w → e.base = w / 65536 * 65536 ∧ e.log2 = w % 64
      ∃ u, exec .returnRegion s = .next u ∧ SameMem s u ∧ u.tokens.length = s.tokens.length ∧ ∀ (i : Nat) (e : Entry), s.tokens[i]? = some e →
        (lent e → u.tokens[i]? = some { e with owner := e.homeAgent, st := .excl }) ∧ (¬ lent e → u.tokens[i]? = some e))

/-- LINKS, LOGS, FIRMWARE AND FAILURES BY COMMAND. QUIESCE begins a drain, or waits for a handshake to end; RESUME makes a bring-up due;
the read commands answer from the journal, the slot table, the measurements and the audit log and change no thread, launch or byte of
memory; AUDIT_ACK discards what was read; DOWNLOAD fills the firmware slot, raises the counter and resets the module; FAIL takes a core
or a die out of use, with the instances that could bind there only, and its threads' regions are LOST (R271, R281, R320, R367, R368,
R375–R377, R381–R384, R388). The places of the fields in a body, the numbers of reasons, the layout of a bundle and what a full audit
log loses are the model's choice (log entries 71, 72, 76 and 142); that an AUDIT_READ returns 45 entries is an inference, from the
largest body and an entry's size. -/
def Obligations.ManagementCommands : Prop :=
  ∀ (s : State) (c : Cmd), let kept (u : State) : Prop := u.cur = s.cur ∧ u.others = s.others ∧ u.launches = s.launches ∧ u.tokens = s.tokens ∧ SameMem s u
    (∀ l, Accepted s c 0x08 → findLink s.links (c.num 0 4) = some l → l.draining = false → l.quiesceReq = false → l.st ≠ .down → l.st ≠ .quiesced →
      ∃ u, exec .quiesce s = .next u ∧ Waits u c l.num ∧ kept u ∧ findLink u.links l.num =
        some (if l.st = .up then { l with draining := true, drainAt := s.cycle } else { l with quiesceReq := true })) ∧
    (∀ l, Accepted s c 0x09 → findLink s.links (c.num 0 4) = some l → l.st = .quiesced ∨ l.st = .down →
      ∃ u, exec .resumeLink s = .next u ∧ Waits u c l.num ∧ kept u ∧ findLink u.links l.num =
        some { l with expect := some (c.num 4 4, c.num 8 4), trying := false, tryAt := s.cycle }) ∧
    (Accepted s c 0x0A → ∃ u, exec .journalRead s = .next u ∧ kept u ∧ Answered u c
      (if s.host.journal.head?.elim false fun e => decide (c.num 0 8 < e.seq) then 4 else 0)
      (((s.host.journal.filter fun e => decide (c.num 0 8 ≤ e.seq)).take 64).flatMap JournalEntry.bytes)) ∧
    (Accepted s c 0x0B → ∃ u, exec .capRead s = .next u ∧ kept u ∧ Answered u c 0 capBytes) ∧
    (Accepted s c 0x0C → ∃ u, exec .diagRead s = .next u ∧ kept u ∧ Answered u c 0
      (((dieCores (c.num 0 4 % 32)).flatMap fun g => (s.coreSlots g).flatMap fun t => t.bindBytes (s.core g).fused)
        ++ bytesOf 8 s.errors.soft ++ bytesOf 8 s.errors.fabric ++ bytesOf 8 s.errors.lanes ++ bytesOf 8 s.errors.links)) ∧
    (Accepted s c 0x0D → c.body.length = 64 → ∃ u sig, exec .attest s = .next u ∧ kept u ∧ sig.length = 4627
      ∧ Answered u c 0 ((taken s c).report c.body ++ sig)) ∧
    (Accepted s c 0x0E → ∃ u, exec .auditRead s = .next u ∧ kept u ∧ Answered u c 0 (((taken s c).host.audit.take 45).flatMap AuditEntry.bytes)) ∧
    (Accepted s c 0x0F → ∃ u, exec .auditAck s = .next u ∧ kept u ∧ Answered u c 0 []
      ∧ ∀ e, e ∈ u.host.audit ↔ e ∈ (taken s c).host.audit ∧ (c.num 0 8 < e.index ∨ s.host.auditRead ≤ e.index)) ∧
    (Accepted s c 0x10 → let fs := bundleImages c.body
      let good := (s.host.recovery || s.jobs.isEmpty) && fs.all s.host.accepts
      (good = true → ∃ u, exec .download s = .next u ∧ kept u ∧ Answered u c 0 [] ∧ u.host.firmware = fs
        ∧ s.host.fuse.toNat ≤ u.host.fuse.toNat ∧ u.agenda = .event .moduleReset EvArgs.none :: s.agenda) ∧
      (good = false → ∃ u, exec .download s = .next u ∧ kept u ∧ Answered u c 1 (bytesOf 4 1) ∧ u.host.firmware = s.host.firmware)) ∧
    (Accepted s c 0x11 → c.num 0 4 = 0 → c.num 4 4 < 512 → SlotsStandOnce s → let g : CoreId := BitVec.ofNat 9 (c.num 4 4)
      ∃ u, exec .failUnit s = .next u ∧ Answered u c 0 [] ∧ (u.core g).failed = true
        ∧ (∀ e ∈ u.tokens, agentKind e.owner = 1 → (agentSlot e.owner).core = g → e.st = .lost)
        ∧ ∀ t ∈ u.slots, t.key.core = g → t.status = .free) ∧
    (Accepted s c 0x11 → c.num 0 4 = 1 → c.num 4 4 < 32 → SlotsStandOnce s → let d := c.num 4 4
      ∃ u, exec .failUnit s = .next u ∧ Answered u c 0 [] ∧ d ∈ u.deadDies ∧ (∀ g, dieOf g = d → (u.core g).failed = true)
        ∧ (∀ e ∈ u.tokens, agentKind e.owner = 1 → dieOf (agentSlot e.owner).core = d → e.st = .lost)
        ∧ (∀ t ∈ u.slots, dieOf t.key.core = d → t.status = .free)
        ∧ ∀ l ∈ u.launches, ∀ i ∈ l.unbound, u.dieOfLin l i ≠ d)

/-- RDMA, RESET, THERMAL EVENTS, PAGE WALKS AND PATROL. A frame from a source outside the host address set is dropped, and one before the
first JOB_CREATE refused; a served RDMA write whose bytes the host may touch writes them all, a read returns them, and any other gets a
NAK and changes no memory; module reset leaves no job, launch, thread or byte of memory, keeps the firmware, the fused counter and the
audit log, and leaves the port closed; a throttle lowers the clock by 100 MHz, to 1200 at the lowest; a trip stops every core; a walk
brings its page into the TLB; the patrol corrects and counts a core's soft errors (R287, R299, R370–R372, R380, R382, R384, R385). The
NAKs of an early request and of a read that meets an uncorrectable word are the model's choice, and a PATROL of no core is left out
(log entries 138 and 84). -/
def Obligations.PortAndModuleEvents : Prop :=
  (∀ (s : State) (src : BitVec 128) (qp job va : Nat) (bytes : List Byte), s.ev.msg = .rdma src qp job va bytes →
    let answers (i : Instr) (a : RdmaAnswer) : Prop := exec i s = .next { s with host := { s.host with rdma := s.host.rdma ++ [(qp, a)] } }
    let keys (j : Job) (write : Bool) : Option (List Nat) := (List.range bytes.length).mapM fun i => s.rdmaKey j (va + i) write
    (s.host.opened = false ∨ s.host.recovery = true ∨ 1024 ≤ qp ∨ (s.host.addrs ≠ [] ∧ src ∉ s.host.addrs) →
      exec .rdmaWrite s = .next s ∧ exec .rdmaRead s = .next s ∧ exec .invalidRequest s = .next s) ∧
    (s.host.opened = true → s.host.recovery = false → qp < 1024 →
      (s.host.addrs = [] → answers .rdmaWrite .invalidRequest ∧ answers .rdmaRead .invalidRequest ∧ answers .invalidRequest .invalidRequest) ∧
      (src ∈ s.host.addrs → answers .invalidRequest .invalidRequest ∧
        (findJob s.jobs job = none → answers .rdmaWrite .accessError ∧ answers .rdmaRead .accessError) ∧
        (∀ j, findJob s.jobs job = some j →
          (keys j true = none → answers .rdmaWrite .accessError) ∧ (keys j false = none → answers .rdmaRead .accessError) ∧
          (∀ ks, keys j true = some ks → ks.Nodup → s.bad = [] →
            ∃ u, exec .rdmaWrite s = .next u ∧ u.host = { s.host with rdma := s.host.rdma ++ [(qp, .ok [])] }
              ∧ (∀ (i k : Nat) (b : Byte), ks[i]? = some k → bytes[i]? = some b → u.byteAt k = b) ∧ ∀ a, a ∉ ks → u.byteAt a = s.byteAt a) ∧
          (∀ ks, keys j false = some ks → ∃ u, exec .rdmaRead s = .next u ∧ SameMem s u ∧
            ((∀ k ∈ ks, eccAt s.bad k = none) → u.host = { s.host with rdma := s.host.rdma ++ [(qp, .ok (ks.map s.byteAt))] }) ∧
            ((∃ k ∈ ks, eccAt s.bad k ≠ none) → u.host = { s.host with rdma := s.host.rdma ++ [(qp, .accessError)] })))))) ∧
  (∀ s : State,
    (∃ u, exec .moduleReset s = .next u ∧ u.cur = Slot.reset SlotId.first ∧ u.others = [] ∧ u.cores = [] ∧ u.mem = [] ∧ u.tokens = [] ∧ u.jobs = []
      ∧ u.launches = [] ∧ u.images = [] ∧ u.colls = [] ∧ u.cycle = 0 ∧ u.host.next = 0 ∧ u.host.journal = [] ∧ u.host.addrs = []
      ∧ u.host.firmware = s.host.firmware ∧ u.host.fuse = s.host.fuse ∧ u.host.audit = s.host.audit ∧ u.host.opened = false) ∧
    (∃ u, exec .thermalThrottle s = .next u ∧ u.cclk = max 1200 (s.cclk - 100) ∧ u.cur = s.cur ∧ SameMem s u
      ∧ u.host.sent = s.host.sent ++ [frameBytes 3 s.host.noticeSeq 3 0 0 (bytesOf 4 u.cclk)]) ∧
    (∃ u, exec .thermalTrip s = .next u ∧ u.tripped = true ∧ ∀ l ∈ u.launches, l.unbound = []) ∧
    (s.ev.num < 512 → let mine (a : Nat) : Bool := inWindows a && decide ((windowCore a).toNat = s.ev.num)
      exec .patrol s = .next { s with errors := { s.errors with soft := s.errors.soft + (s.soft.filter mine).length }, soft := s.soft.filter fun a => !mine a })) ∧
  (∀ (s : State) (j : Job), let g : CoreId := BitVec.ofNat 9 s.ev.num
    let va := s.ev.addr.toNat
    let walk := walkFrom s.mem s.bad (dieOf g) va 4 1 j.root
    findJob s.jobs s.ev.word.toNat = some j → inPages va = true → tlbFind (s.core g).tlb s.ev.word.toNat va = none →
      (∀ l, walk = .error l → exec .pageWalk s = .next s) ∧
      (∀ p log2, walk = .ok (p, log2) → ∃ u, exec .pageWalk s = .next u ∧ SameMem s u ∧ u.cur = s.cur ∧ u = { s with cores := u.cores } ∧
        tlbFind (u.core g).tlb s.ev.word.toNat va = some { job := s.ev.word.toNat, base := va / 2 ^ log2, log2 := log2, pte := p.raw, die := dieOf g }))
end

/-! ### The whole machine -/

namespace Sys2Proof.Claims
open Sys2Proof.Machine

/-- Words that the manual writes out, with what they stand for. -/
def sampleWords : List (Stream × Nat × Instr) := [
  (.scalar, 0x04A63800, .add 5 6 7), (.scalar, 0x08A00001, .addi 5 0 1), (.scalar, 0x21290203, .srai 9 9 3),
  (.scalar, 0x68042800, .ownLend 0 4 5), (.scalar, 0x74240000, .hld 1 4), (.scalar, 0x94250000, .ftset 1 5),
  (.scalar, 0x9CC00041, .cirq 6 2), (.scalar, 0xA0030000, .publish 3),
  (.vector, 0x04611000, .vadd { d := 3, a := 1, b := 2, mask := none, c := false, t := .f32 }),
  (.vector, 0x9D000002, .vmov 8 0 2), (.vector, 0xA0800000, .vland),
  (.matrix, 0x18180000, .mclr 3), (.matrix, 0x19CA0000, .madd 1 2), (.matrix, 0x19400000, .mland),
  (.copy, 0x0402350B, .cpy { hs := 2, hd := 3, p := 10, tag := 5, r := true }),
  (.copy, 0x08056099, .xcpy { hs := 5, hd := 6, ch := 2, p := 12, r := true }), (.copy, 0x1C800000, .cfence)]

/-- The state in which the word that a turn has fetched is executed (R76, R236). -/
def issuing (s : State) (k : SlotId) (e : Stream) (rest : List Turn) : State :=
  { ({ s with agenda := rest }).focus k with ev := { EvArgs.none with slot := k, stream := e } }

/-- A tile's entries rise and lie in rows lo to hi − 1. -/
def TileIn (x : Tile) (lo hi : Nat) : Prop := (x.map Prod.fst).Pairwise (· < ·) ∧ ∀ e ∈ x, 128 * lo ≤ e.1 ∧ e.1 < 128 * hi

/-- A register that is not ZERO holds 1 to VCAP runs, each of 1 to 65,536 elements, and at most 65,536 in all (R21, R142). -/
def RunsOk (cap : Nat) (r : RunReg) : Prop :=
  ∀ t rs, r = .runs t rs → 1 ≤ rs.length ∧ rs.length ≤ cap ∧ runsLen rs ≤ 65536 ∧ ∀ x ∈ rs, 1 ≤ x.count ∧ x.count ≤ 65536

/-- A thread's vector and matrix registers, and the results that are to land in them, are well formed: a shape of 1 to 256 rows and columns,
runs within R142, tiles with rising entries inside the register (R21, R23, R142, R159). -/
def RegistersOk (t : Slot) : Prop :=
  1 ≤ t.rows ∧ t.rows ≤ 256 ∧ 1 ≤ t.cols ∧ t.cols ≤ 256 ∧ (∀ i, RunsOk t.bind.vcap (t.getV i)) ∧
    (∀ l ∈ t.vfly, (∀ w ∈ l.runs, RunsOk t.bind.vcap w.2) ∧ ∀ e ∈ l.elems, e.1 < 16384) ∧
    (∀ m, TileIn (t.getM m).tile 0 128) ∧
    (∀ l ∈ t.mfly, l.hi ≤ 128 ∧ TileIn l.tile l.lo l.hi ∧ ∀ f ∈ l.frames, TileIn f.tile l.lo l.hi)

/-- The registers of every thread, in its slot or saved, are well formed. -/
def AllRegistersOk (s : State) : Prop := ∀ t ∈ s.contexts, RegistersOk t

end Sys2Proof.Claims

section
open Sys2Proof Sys2Proof.Machine Sys2Proof.Claims

/-- THE STATE AFTER RESET: no job, launch, thread or token; memory lists nothing; the links are DOWN; the boot stages are what comes next.
Every register of a slot is 0, run registers have the ZERO tag, the shape is one element, scales are 1.0, GOV_AGE is 256; and the
invariants of the machine hold there (R12, R23, R25, R31, R312, R370, R380). The empty bookkeeping, the agenda and the memory that
lists nothing are the model's choice (log entries 1 to 3). -/
def Obligations.ResetState : Prop :=
  let s := State.reset
  s.cycle = 0 ∧ s.mem = [] ∧ s.tokens = [] ∧ s.jobs = [] ∧ s.launches = [] ∧ s.images = [] ∧ s.others = [] ∧ s.colls = []
    ∧ (∀ l ∈ s.links, l.st = .down) ∧ s.links.length = 16 ∧ s.host.next = 0 ∧ s.host.addrs = [] ∧ s.nextLaunch = 1
    ∧ s.agenda = [.event .moduleReset EvArgs.none] ∧ (∀ g, (s.core g).govAge = 256) ∧
    (∀ k, let t := s.slotAt k
      t.status = .free ∧ (∀ i, t.getS i = 0) ∧ (∀ i, t.getE i = 0) ∧ (∀ i, t.getK i = 0) ∧ (∀ i, t.getV i = .zero) ∧ t.rows = 1 ∧ t.cols = 1
        ∧ (∀ i, (t.getM i).tile = [] ∧ (t.getM i).full = false ∧ (t.getM i).ts = a80One) ∧ t.vcsr = { rm := .rne, flags := 0, autoc := false }
        ∧ t.ih = false ∧ t.tvec = 0) ∧
    Memory.wf s.mem = true ∧ SlotsStandOnce s ∧ AllRegistersOk s

/-- EVERY STEP KEEPS THE MEMORY CANONICAL: addresses rise and no cell holds the value of an unlisted one, so that equal memories are equal
data. -/
def Obligations.MemoryStaysCanonical : Prop :=
  ∀ s t : State, Memory.wf s.mem = true → step s = .next t → Memory.wf t.mem = true

/-- EVERY STEP KEEPS EACH SLOT IN ONE PLACE: no slot stands twice in the state. -/
def Obligations.SlotsStayDistinct : Prop := ∀ s t : State, SlotsStandOnce s → step s = .next t → SlotsStandOnce t

/-- EVERY STEP KEEPS THE VECTOR AND MATRIX REGISTERS WELL FORMED, those of saved threads included (R21, R23, R142, R159). -/
def Obligations.RegistersStayWellFormed : Prop := ∀ s t : State, AllRegistersOk s → step s = .next t → AllRegistersOk t

/-- DECODING UNDOES ENCODING: every well-formed instruction that has an encoding, with every operand at every value that the encoding
admits, is decoded from its own 32-bit word in its own stream's map (R76–R88). -/
def Obligations.DecodeUndoesEncode : Prop :=
  ∀ (i : Instr) (e : Stream) (w : Nat), i.wellFormed = true → encode i = some (e, w) → w < 2 ^ 32 ∧ decode e w = some i

/-- Words that the manual writes out decode to the instructions it says they are. -/
def Obligations.SampleWordsDecode : Prop := ∀ x ∈ sampleWords, decode x.1 x.2.1 = some x.2.2

/-- A STEP RUNS THE DECODED INSTRUCTION: when the turn is a stream's issue, the thread is bound and the stream runs, the word it fetches is
executed as the instruction it decodes to, in the state that the fetch leaves; one that reads a register with an uncorrectable error raises
F_ECC; a word that is no instruction, and a fetch that faults, take their exceptions; a turn that is an event is executed with its
operands; a turn that is a pick is the Governor's; and with no turn left the next cycle begins (R76, R77, R220, R223, R235). That a
step takes one turn of an agenda, and that a cycle begins when it is empty, is the model's reading (log entry 6), and so is it that a
register error strikes scalar registers alone (log entry 113); a COLL keeps the read of its record that waits on a circuit (R342). -/
def Obligations.StepRunsTheDecodedInstruction : Prop :=
  (∀ (s : State) (k : SlotId) (e : Stream) (rest : List Turn), s.agenda = .issue k e :: rest → let t := issuing s k e rest
    t.cur.status = .bound → t.cur.running e = true ∨ (e = .scalar ∧ t.cur.locked = true) → s.tripped = false →
      (∀ w v i, t.fetch e = .word w v → decode e w.toNat = some i → v.regFault e w.toNat = none → (∀ a, i ≠ .coll a) →
        step s = exec i { v.dropRead e with insn := w }) ∧
      (∀ w v a, t.fetch e = .word w v → decode e w.toNat = some (.coll a) → v.regFault e w.toNat = none →
        step s = exec (.coll a) { v with insn := w }) ∧
      (∀ w v f, t.fetch e = .word w v → v.regFault e w.toNat = some f → f.cause = 0x11 ∧ f.detail = 3 ∧
        step s = .next ({ v with insn := w }.raise e f)) ∧
      (∀ w v, t.fetch e = .word w v → v.cur.badS = [] → v.regFault e w.toNat = none) ∧
      (∀ w v, t.fetch e = .word w v → decode e w.toNat = none → step s = exec .notAnInstruction { v.dropRead e with insn := w }) ∧
      (∀ f, t.fetch e = .fault f → step s = exec .instructionFetchFault { t.dropRead e with ev := { t.ev with flt := f } }) ∧
      (∀ r, t.fetch e = .held r → step s = .next t)) ∧
  (∀ (s : State) (k : SlotId) (e : Stream) (rest : List Turn), s.agenda = .issue k e :: rest → let t := issuing s k e rest
    t.cur.status ≠ .bound ∨ (t.cur.running e = false ∧ (e = .scalar → t.cur.locked = false)) ∨ s.tripped = true → step s = .next t) ∧
  (∀ (s : State) (i : Instr) (a : EvArgs) (rest : List Turn), s.agenda = .event i a :: rest → step s = exec i { s with agenda := rest, ev := a }) ∧
  (∀ (s : State) (g : CoreId) (rest : List Turn), s.agenda = .pick g :: rest → step s = .next ({ s with agenda := rest }.govern g)) ∧
  (∀ s : State, s.agenda = [] → step s = .next s.tick)

/-- NOTHING BUT A PATROL OF A CORE THAT DOES NOT EXIST STOPS THE MACHINE: every instruction and every other event answers a next state, in
every state: what cannot be done raises an exception that the thread or Corelo takes, or waits (R29, R233, R235). That nothing stops it is
a property of the whole model, which no one rule states; that a PATROL of no core does is the model's choice (log entry 84). -/
def Obligations.EveryInstructionGoesOn : Prop :=
  ∀ (i : Instr) (s : State), (i = .patrol → s.ev.num < 512) → ∃ t, exec i s = .next t

/-- NO INSTRUCTION REACHES ANOTHER THREAD'S REGISTERS, OR CHANGES WHO ITS OWN THREAD IS: whatever an encoded instruction does, the register
files of every other slot, and its own thread's slot, launch, role and privilege, are as before (R9, R12, R26). -/
def Obligations.ThreadsAreIsolated : Prop :=
  ∀ (i : Instr) (s u : State), encode i ≠ none → SlotsStandOnce s → exec i s = .next u →
    u.cur.key = s.cur.key ∧ u.cur.bind = s.cur.bind ∧
      ∀ k, k ≠ s.cur.key → (u.slotAt k).s = (s.slotAt k).s ∧ SameFiles (s.slotAt k) (u.slotAt k) ∧ (u.slotAt k).bind = (s.slotAt k).bind
end
end

