-- ==== Sys2Proof/Laws/Mem.lean ====
section
/-! SUPPORT. Memory: every operation keeps the canonical form; a read after a write; what a store, a scrub and a copy to every die leave
alone. -/

namespace Sys2Proof.Machine

/-! ### The canonical form -/

theorem memWfFrom_cons (lo x : Nat) (v : Byte) (t : List Host.Cell) :
    memWfFrom lo ((x, v) :: t) = true ↔ lo ≤ x ∧ v ≠ 0 ∧ memWfFrom (x + 1) t = true := by
  simp [memWfFrom, and_assoc]

theorem memWfFrom_mono {lo lo' : Nat} {m : List Host.Cell} (h : memWfFrom lo m = true) (hl : lo' ≤ lo) : memWfFrom lo' m = true := by
  cases m with
  | nil => rfl
  | cons c t => obtain ⟨x, v⟩ := c; rw [memWfFrom_cons] at h ⊢; exact ⟨by omega, h.2⟩

theorem memDrop_wfFrom {m : List Host.Cell} {a : Nat} : ∀ {lo : Nat}, memWfFrom lo m = true → memWfFrom lo (memDrop m a) = true := by
  induction m with
  | nil => exact id
  | cons c t ih =>
    obtain ⟨x, v⟩ := c
    intro lo h
    have hc := (memWfFrom_cons lo x v t).1 h
    unfold memDrop
    rw [List.filter_cons]
    split
    · rw [memWfFrom_cons]; exact ⟨hc.1, hc.2.1, ih hc.2.2⟩
    · exact memWfFrom_mono (ih hc.2.2) (by omega)

theorem memInsert_wfFrom {m : List Host.Cell} {a : Nat} {b : Byte} (hb : b ≠ 0) : ∀ {lo : Nat}, memWfFrom lo m = true →
    (∀ c ∈ m, c.1 ≠ a) → lo ≤ a → memWfFrom lo (memInsert m a b) = true := by
  induction m with
  | nil => intro lo _ _ hl; rw [memInsert, memWfFrom_cons]; exact ⟨hl, hb, rfl⟩
  | cons c t ih =>
    obtain ⟨x, v⟩ := c
    intro lo h hn hl
    have hc := (memWfFrom_cons lo x v t).1 h
    have hx : x ≠ a := hn _ List.mem_cons_self
    unfold memInsert
    split
    · rw [memWfFrom_cons, memWfFrom_cons]; exact ⟨hl, hb, by omega, hc.2⟩
    · rw [memWfFrom_cons]; exact ⟨hc.1, hc.2.1, ih hc.2.2 (fun c h => hn c (List.mem_cons_of_mem _ h)) (by omega)⟩

theorem memWrite_wfFrom {m : List Host.Cell} {lo a : Nat} (b : Byte) (h : memWfFrom lo m = true) (hl : lo ≤ a) :
    memWfFrom lo (memWrite m a b) = true := by
  unfold memWrite
  split
  · exact memDrop_wfFrom h
  · exact memInsert_wfFrom ‹_› (memDrop_wfFrom h) (fun c hc => of_decide_eq_true (List.mem_filter.1 hc).2) hl

theorem memWrite_wf {m : List Host.Cell} (a : Nat) (b : Byte) (h : Memory.wf m = true) : Memory.wf (memWrite m a b) = true :=
  memWrite_wfFrom b h (Nat.zero_le a)

theorem memWrites_wf {cells : List (Nat × Byte)} : ∀ {m : List Host.Cell}, Memory.wf m = true → Memory.wf (memWrites m cells) = true := by
  induction cells with
  | nil => exact id
  | cons c t ih => exact fun h => ih (memWrite_wf _ _ h)

theorem memZero_wfFrom {m : List Host.Cell} {lo' hi : Nat} : ∀ {lo : Nat}, memWfFrom lo m = true → memWfFrom lo (memZero m lo' hi) = true := by
  induction m with
  | nil => exact id
  | cons c t ih =>
    obtain ⟨x, v⟩ := c
    intro lo h
    have hc := (memWfFrom_cons lo x v t).1 h
    unfold memZero
    rw [List.filter_cons]
    split
    · rw [memWfFrom_cons]; exact ⟨hc.1, hc.2.1, ih hc.2.2⟩
    · exact memWfFrom_mono (ih hc.2.2) (by omega)

theorem memZero_wf {m : List Host.Cell} (lo hi : Nat) (h : Memory.wf m = true) : Memory.wf (memZero m lo hi) = true := memZero_wfFrom h

theorem memFold_wf {α : Type} (f : List Host.Cell → α → List Host.Cell) (hf : ∀ m x, Memory.wf m = true → Memory.wf (f m x) = true) :
    ∀ (l : List α) {m : List Host.Cell}, Memory.wf m = true → Memory.wf (l.foldl f m) = true := by
  intro l
  induction l with
  | nil => exact id
  | cons x t ih => exact fun h => ih (hf _ x h)

/-- A store keeps the canonical form. -/
theorem State.store_wf (s : State) (cells : List (Nat × Byte)) (h : Memory.wf s.mem = true) : Memory.wf (s.store cells).mem = true :=
  memWrites_wf h

/-- A fold of steps that each keep the canonical form keeps it. -/
theorem State.fold_wf {α : Type} {f : State → α → State} (hf : ∀ s x, Memory.wf s.mem = true → Memory.wf (f s x).mem = true) :
    ∀ (l : List α) {s : State}, Memory.wf s.mem = true → Memory.wf (l.foldl f s).mem = true := by
  intro l
  induction l with
  | nil => exact id
  | cons x t ih => exact fun h => ih (hf _ x h)

/-- A copy of bytes to every die of a job keeps the canonical form. -/
theorem State.putAll_wf (s : State) (j : Job) (off : Nat) (bs : List Byte) (h : Memory.wf s.mem = true) :
    Memory.wf (s.putAll j off bs).mem = true :=
  State.fold_wf (fun _ _ h => State.store_wf _ _ h) _ h

/-! ### Reads and writes -/

theorem memRead_cons (x : Nat) (v : Byte) (t : List Host.Cell) (a : Nat) : memRead ((x, v) :: t) a = if a = x then v else memRead t a := rfl

/-- An address that no cell lists reads as zero. -/
theorem memRead_absent {m : List Host.Cell} {a : Nat} (h : ∀ c ∈ m, c.1 ≠ a) : memRead m a = 0 := by
  induction m with
  | nil => rfl
  | cons c t ih =>
    rw [memRead_cons, if_neg fun he => h c List.mem_cons_self he.symm]
    exact ih fun d hd => h d (List.mem_cons_of_mem _ hd)

theorem memRead_below {m : List Host.Cell} : ∀ {lo a : Nat}, memWfFrom lo m = true → a < lo → memRead m a = 0 := by
  induction m with
  | nil => intros; rfl
  | cons c t ih =>
    obtain ⟨x, v⟩ := c
    intro lo a h ha
    have hc := (memWfFrom_cons lo x v t).1 h
    rw [memRead_cons, if_neg (by omega)]
    exact ih hc.2.2 (by omega)

theorem memRead_filter {m : List Host.Cell} {p : Nat → Bool} {a : Nat} :
    memRead (m.filter fun c => p c.1) a = if p a then memRead m a else 0 := by
  induction m with
  | nil => simp [memRead]
  | cons c t ih =>
    obtain ⟨x, v⟩ := c
    rw [List.filter_cons, memRead_cons]
    by_cases hx : a = x
    · subst hx
      by_cases hp : p a = true
      · simp [hp, memRead_cons]
      · simp [hp, ih]
    · by_cases hp : p x = true
      · simp [hp, memRead_cons, hx, ih]
      · simp [hp, hx, ih]

theorem memRead_drop (m : List Host.Cell) (a c : Nat) : memRead (memDrop m a) c = if c = a then 0 else memRead m c := by
  unfold memDrop
  rw [memRead_filter (p := fun x => decide (x ≠ a))]
  by_cases h : c = a <;> simp [h]

theorem memRead_insert {m : List Host.Cell} {a c : Nat} {b : Byte} (h : memRead m a = 0 ∧ ∀ d ∈ m, d.1 ≠ a) :
    memRead (memInsert m a b) c = if c = a then b else memRead m c := by
  obtain ⟨-, h⟩ := h
  induction m with
  | nil => rfl
  | cons d t ih =>
    obtain ⟨x, v⟩ := d
    have hx : x ≠ a := h _ List.mem_cons_self
    unfold memInsert
    split
    · rw [memRead_cons]
    · rw [memRead_cons, memRead_cons, ih fun d hd => h d (List.mem_cons_of_mem _ hd)]
      by_cases h1 : c = x <;> by_cases h2 : c = a <;> simp_all

/-- What every byte reads as after one is written, whatever the memory. -/
theorem memRead_write (m : List Host.Cell) (a c : Nat) (b : Byte) : memRead (memWrite m a b) c = if c = a then b else memRead m c := by
  unfold memWrite
  split
  · rename_i hb; subst hb; exact memRead_drop m a c
  · have hn : ∀ d ∈ memDrop m a, d.1 ≠ a := fun d hd => of_decide_eq_true (List.mem_filter.1 hd).2
    rw [memRead_insert ⟨memRead_absent hn, hn⟩, memRead_drop]
    split <;> rfl

/-- A byte written is read back. -/
theorem memRead_write_same (m : List Host.Cell) (a : Nat) (b : Byte) : memRead (memWrite m a b) a = b := by
  rw [memRead_write, if_pos rfl]

/-- A write leaves every other byte as it was. -/
theorem memRead_write_other (m : List Host.Cell) {a c : Nat} (b : Byte) (h : c ≠ a) : memRead (memWrite m a b) c = memRead m c := by
  rw [memRead_write, if_neg h]

/-- Writes leave every byte as it was that none of them names. -/
theorem memRead_writes_other {cells : List (Nat × Byte)} : ∀ {m : List Host.Cell} {a : Nat}, (∀ c ∈ cells, c.1 ≠ a) →
    memRead (memWrites m cells) a = memRead m a := by
  induction cells with
  | nil => intros; rfl
  | cons c t ih =>
    intro m a hn
    rw [memWrites, ih fun c hc => hn c (List.mem_cons_of_mem _ hc)]
    exact memRead_write_other _ _ (hn c List.mem_cons_self).symm

/-- Writes to distinct bytes are read back. -/
theorem memRead_writes_mem {cells : List (Nat × Byte)} : ∀ {m : List Host.Cell}, (cells.map Prod.fst).Nodup →
    ∀ c ∈ cells, memRead (memWrites m cells) c.1 = c.2 := by
  induction cells with
  | nil => intro m _ c hc; cases hc
  | cons d t ih =>
    intro m hn c hc
    rw [List.map_cons, List.nodup_cons] at hn
    rw [memWrites]
    cases hc with
    | head =>
      rw [memRead_writes_other fun e he hee => hn.1 (List.mem_map.2 ⟨e, he, hee⟩)]
      exact memRead_write_same _ _ _
    | tail _ hc => exact ih hn.2 c hc

/-- What every byte reads as after a range is made zero. -/
theorem memRead_zero (m : List Host.Cell) (lo hi a : Nat) :
    memRead (memZero m lo hi) a = if lo ≤ a ∧ a < hi then 0 else memRead m a := by
  unfold memZero
  rw [memRead_filter (p := fun x => decide (x < lo) || decide (hi ≤ x))]
  by_cases h : lo ≤ a ∧ a < hi
  · rw [if_pos h]; simp only [decide_eq_true_eq, Bool.or_eq_true]; rw [if_neg (by omega)]
  · rw [if_neg h]; simp only [decide_eq_true_eq, Bool.or_eq_true]; rw [if_pos (by omega)]

/-- Two canonical memories that read the same are the same data. -/
theorem mem_ext {m n : List Host.Cell} : ∀ {lo lo' : Nat}, memWfFrom lo m = true → memWfFrom lo' n = true →
    (∀ a, memRead m a = memRead n a) → m = n := by
  induction m generalizing n with
  | nil =>
    intro lo lo' _ hn h
    cases n with
    | nil => rfl
    | cons c t =>
      obtain ⟨x, v⟩ := c
      have hc := (memWfFrom_cons lo' x v t).1 hn
      have := h x
      simp only [memRead_cons, if_true] at this
      exact absurd this.symm hc.2.1
  | cons c t ih =>
    obtain ⟨x, v⟩ := c
    intro lo lo' hm hn h
    have hc := (memWfFrom_cons lo x v t).1 hm
    cases n with
    | nil =>
      have := h x
      simp only [memRead_cons, if_true] at this
      exact absurd this hc.2.1
    | cons d u =>
      obtain ⟨y, w⟩ := d
      have hd := (memWfFrom_cons lo' y w u).1 hn
      have hx := h x
      have hy := h y
      simp only [memRead_cons, if_true] at hx hy
      have hxy : x = y := by
        rcases Nat.lt_trichotomy x y with hlt | heq | hgt
        · rw [if_neg (by omega), memRead_below hd.2.2 (by omega)] at hx; exact absurd hx hc.2.1
        · exact heq
        · rw [if_neg (by omega), memRead_below hc.2.2 (by omega)] at hy; exact absurd hy.symm hd.2.1
      subst hxy
      rw [if_pos rfl] at hx
      subst hx
      congr 1
      refine ih hc.2.2 hd.2.2 fun a => ?_
      by_cases h2 : a = x
      · subst h2; rw [memRead_below hc.2.2 (by omega), memRead_below hd.2.2 (by omega)]
      · have ha := h a
        simpa [memRead_cons, h2] using ha

/-! ### Stores -/

@[simp] theorem storeCells_nil (cells : List (Nat × Byte)) : storeCells [] cells = cells := rfl
@[simp] theorem storeBad_nil (cells : List (Nat × Byte)) : storeBad [] cells = [] := rfl

/-- The cells of a store that take effect are among its cells. -/
theorem storeCells_sub (bad : List (Nat × Nat)) (cells : List (Nat × Byte)) : ∀ c ∈ storeCells bad cells, c ∈ cells := by
  intro c hc
  unfold storeCells at hc
  split at hc
  · exact hc
  · exact (List.mem_filter.1 hc).1

/-- A store leaves every byte as it was that it does not name. -/
theorem State.store_byteAt_other (s : State) (cells : List (Nat × Byte)) (a : Nat) (hn : ∀ c ∈ cells, c.1 ≠ a) :
    (s.store cells).byteAt a = s.byteAt a :=
  memRead_writes_other fun c hc => hn c (storeCells_sub _ _ c hc)

/-- With no uncorrectable error, a store to distinct bytes is read back. -/
theorem State.store_byteAt_mem (s : State) (cells : List (Nat × Byte)) (hb : s.bad = [])
    (hn : (cells.map Prod.fst).Nodup) : ∀ c ∈ cells, (s.store cells).byteAt c.1 = c.2 := by
  have he : (s.store cells).mem = memWrites s.mem cells := by unfold State.store; rw [hb]; rfl
  intro c hc
  unfold State.byteAt
  rw [he]
  exact memRead_writes_mem hn c hc

/-- A store changes memory, the errors it replaces and the count of those it corrects, and nothing else. -/
theorem State.store_rest (s : State) (cells : List (Nat × Byte)) :
    s.store cells =
      { s with mem := (s.store cells).mem, bad := (s.store cells).bad, soft := (s.store cells).soft, errors := (s.store cells).errors } := rfl

/-- The addresses of n bytes from a home address up. -/
theorem cellsAt_mem {bs : List Byte} : ∀ {a : Nat}, ∀ c ∈ cellsAt a bs, a ≤ c.1 ∧ c.1 < a + bs.length := by
  induction bs with
  | nil => intro a c hc; cases hc
  | cons b t ih =>
    intro a c hc
    rw [cellsAt] at hc
    cases hc with
    | head => exact ⟨Nat.le_refl _, by simp⟩
    | tail _ h => have := ih c h; simp only [List.length_cons]; omega

theorem cellsAt_nodup {bs : List Byte} : ∀ {a : Nat}, ((cellsAt a bs).map Prod.fst).Nodup := by
  induction bs with
  | nil => intro a; exact List.nodup_nil
  | cons b t ih =>
    intro a
    rw [cellsAt, List.map_cons, List.nodup_cons]
    refine ⟨fun h => ?_, ih⟩
    obtain ⟨c, hc, he⟩ := List.mem_map.1 h
    have := cellsAt_mem c hc
    omega

/-- The bytes of a range are the bytes at its addresses. -/
theorem memBytesAt_congr {m m' : List Host.Cell} : ∀ {n a : Nat}, (∀ i, i < n → memRead m (a + i) = memRead m' (a + i)) →
    memBytesAt m a n = memBytesAt m' a n := by
  intro n
  induction n with
  | zero => intros; rfl
  | succ n ih =>
    intro a h
    rw [memBytesAt, memBytesAt, ih fun i hi => by have := h (i + 1) (by omega); rwa [Nat.add_comm i 1, ← Nat.add_assoc] at this]
    rw [show memRead m a = memRead m' a from h 0 (by omega)]

@[simp] theorem memBytesAt_length (m : List Host.Cell) : ∀ (n a : Nat), (memBytesAt m a n).length = n := by
  intro n
  induction n with
  | zero => intro; rfl
  | succ n ih => intro a; rw [memBytesAt, List.length_cons, ih]

/-- The bytes that a write to a range leaves there. -/
theorem memBytesAt_cellsAt {bs : List Byte} : ∀ {m : List Host.Cell} {a : Nat}, memBytesAt (memWrites m (cellsAt a bs)) a bs.length = bs := by
  induction bs with
  | nil => intros; rfl
  | cons b t ih =>
    intro m a
    rw [List.length_cons, memBytesAt, cellsAt, memWrites, ih]
    rw [memRead_writes_other fun c hc => by have := cellsAt_mem c hc; omega]
    rw [memRead_write_same]

end Sys2Proof.Machine
end

