-- ==== Sys2Proof/Laws/State.lean ====
section
/-! SUPPORT. What each update of the state leaves and changes, field by field: the lemmas with which `simp` reads a field
through an update without unfolding it. -/

namespace Sys2Proof.Machine

/-! ### Scalar registers -/

theorem Slot.getS_zero (t : Slot) : t.getS 0 = 0 := rfl
theorem Slot.setS_zero (t : Slot) (v : Word) : t.setS 0 v = t := rfl
theorem Slot.setS_eq (t : Slot) (i : BitVec 5) (v : Word) :
    t.setS i v = { t with s := if i = 0 then t.s else t.s.set i.toNat v i.isLt, badS := if i = 0 then t.badS else t.badS.filter (· ≠ i) } := by
  unfold Slot.setS; split <;> rfl
theorem Slot.getS_setS_same (t : Slot) (i : BitVec 5) (v : Word) : (t.setS i v).getS i = if i = 0 then 0 else v := by
  rw [Slot.setS_eq]; unfold Slot.getS
  by_cases h : i = 0
  · rw [if_pos h, if_pos h]
  · rw [if_neg h, if_neg h]; simp only [if_neg h, Vector.getElem_set_self]
theorem Slot.getS_setS_other (t : Slot) {i j : BitVec 5} (v : Word) (h : j ≠ i) : (t.setS i v).getS j = t.getS j := by
  rw [Slot.setS_eq]; unfold Slot.getS
  by_cases h0 : i = 0
  · simp only [if_pos h0]
  · simp only [if_neg h0]
    split
    · rfl
    · exact Vector.getElem_set_ne _ _ fun e => h (BitVec.eq_of_toNat_eq e.symm)
theorem Slot.getS_congr {t u : Slot} (h : u.s = t.s) (i : BitVec 5) : u.getS i = t.getS i := by
  unfold Slot.getS; rw [h]

@[simp] theorem Slot.setS_key (t : Slot) (i : BitVec 5) (v : Word) : (t.setS i v).key = t.key := by rw [Slot.setS_eq]
@[simp] theorem Slot.setS_status (t : Slot) (i : BitVec 5) (v : Word) : (t.setS i v).status = t.status := by rw [Slot.setS_eq]
@[simp] theorem Slot.setS_bind (t : Slot) (i : BitVec 5) (v : Word) : (t.setS i v).bind = t.bind := by rw [Slot.setS_eq]
@[simp] theorem Slot.setS_quotient (t : Slot) (i : BitVec 5) (v : Word) : (t.setS i v).quotient = t.quotient := by rw [Slot.setS_eq]
@[simp] theorem Slot.setS_h (t : Slot) (i : BitVec 5) (v : Word) : (t.setS i v).h = t.h := by rw [Slot.setS_eq]
@[simp] theorem Slot.setS_e (t : Slot) (i : BitVec 5) (v : Word) : (t.setS i v).e = t.e := by rw [Slot.setS_eq]
@[simp] theorem Slot.setS_k (t : Slot) (i : BitVec 5) (v : Word) : (t.setS i v).k = t.k := by rw [Slot.setS_eq]
@[simp] theorem Slot.setS_ft (t : Slot) (i : BitVec 5) (v : Word) : (t.setS i v).ft = t.ft := by rw [Slot.setS_eq]
@[simp] theorem Slot.setS_om (t : Slot) (i : BitVec 5) (v : Word) : (t.setS i v).om = t.om := by rw [Slot.setS_eq]
@[simp] theorem Slot.setS_v (t : Slot) (i : BitVec 5) (v : Word) : (t.setS i v).v = t.v := by rw [Slot.setS_eq]
@[simp] theorem Slot.setS_rows (t : Slot) (i : BitVec 5) (v : Word) : (t.setS i v).rows = t.rows := by rw [Slot.setS_eq]
@[simp] theorem Slot.setS_cols (t : Slot) (i : BitVec 5) (v : Word) : (t.setS i v).cols = t.cols := by rw [Slot.setS_eq]
@[simp] theorem Slot.setS_m (t : Slot) (i : BitVec 5) (v : Word) : (t.setS i v).m = t.m := by rw [Slot.setS_eq]
@[simp] theorem Slot.setS_vcsr (t : Slot) (i : BitVec 5) (v : Word) : (t.setS i v).vcsr = t.vcsr := by rw [Slot.setS_eq]
@[simp] theorem Slot.setS_ftoff (t : Slot) (i : BitVec 5) (v : Word) : (t.setS i v).ftoff = t.ftoff := by rw [Slot.setS_eq]
@[simp] theorem Slot.setS_fscratch0 (t : Slot) (i : BitVec 5) (v : Word) : (t.setS i v).fscratch0 = t.fscratch0 := by rw [Slot.setS_eq]
@[simp] theorem Slot.setS_fscratch1 (t : Slot) (i : BitVec 5) (v : Word) : (t.setS i v).fscratch1 = t.fscratch1 := by rw [Slot.setS_eq]
@[simp] theorem Slot.setS_tvec (t : Slot) (i : BitVec 5) (v : Word) : (t.setS i v).tvec = t.tvec := by rw [Slot.setS_eq]
@[simp] theorem Slot.setS_fcause (t : Slot) (i : BitVec 5) (v : Word) : (t.setS i v).fcause = t.fcause := by rw [Slot.setS_eq]
@[simp] theorem Slot.setS_fstream (t : Slot) (i : BitVec 5) (v : Word) : (t.setS i v).fstream = t.fstream := by rw [Slot.setS_eq]
@[simp] theorem Slot.setS_fpc (t : Slot) (i : BitVec 5) (v : Word) : (t.setS i v).fpc = t.fpc := by rw [Slot.setS_eq]
@[simp] theorem Slot.setS_finsn (t : Slot) (i : BitVec 5) (v : Word) : (t.setS i v).finsn = t.finsn := by rw [Slot.setS_eq]
@[simp] theorem Slot.setS_faddr (t : Slot) (i : BitVec 5) (v : Word) : (t.setS i v).faddr = t.faddr := by rw [Slot.setS_eq]
@[simp] theorem Slot.setS_ih (t : Slot) (i : BitVec 5) (v : Word) : (t.setS i v).ih = t.ih := by rw [Slot.setS_eq]
@[simp] theorem Slot.setS_handled (t : Slot) (i : BitVec 5) (v : Word) : (t.setS i v).handled = t.handled := by rw [Slot.setS_eq]
@[simp] theorem Slot.setS_divert (t : Slot) (i : BitVec 5) (v : Word) : (t.setS i v).divert = t.divert := by rw [Slot.setS_eq]
@[simp] theorem Slot.setS_scalar (t : Slot) (i : BitVec 5) (v : Word) : (t.setS i v).scalar = t.scalar := by rw [Slot.setS_eq]
@[simp] theorem Slot.setS_vector (t : Slot) (i : BitVec 5) (v : Word) : (t.setS i v).vector = t.vector := by rw [Slot.setS_eq]
@[simp] theorem Slot.setS_matrix (t : Slot) (i : BitVec 5) (v : Word) : (t.setS i v).matrix = t.matrix := by rw [Slot.setS_eq]
@[simp] theorem Slot.setS_copy (t : Slot) (i : BitVec 5) (v : Word) : (t.setS i v).copy = t.copy := by rw [Slot.setS_eq]
@[simp] theorem Slot.setS_stores (t : Slot) (i : BitVec 5) (v : Word) : (t.setS i v).stores = t.stores := by rw [Slot.setS_eq]
@[simp] theorem Slot.setS_vfly (t : Slot) (i : BitVec 5) (v : Word) : (t.setS i v).vfly = t.vfly := by rw [Slot.setS_eq]
@[simp] theorem Slot.setS_mfly (t : Slot) (i : BitVec 5) (v : Word) : (t.setS i v).mfly = t.mfly := by rw [Slot.setS_eq]
@[simp] theorem Slot.setS_scop (t : Slot) (i : BitVec 5) (v : Word) : (t.setS i v).scop = t.scop := by rw [Slot.setS_eq]
@[simp] theorem Slot.setS_orphans (t : Slot) (i : BitVec 5) (v : Word) : (t.setS i v).orphans = t.orphans := by rw [Slot.setS_eq]
@[simp] theorem Slot.setS_waiting (t : Slot) (i : BitVec 5) (v : Word) : (t.setS i v).waiting = t.waiting := by rw [Slot.setS_eq]
@[simp] theorem Slot.setS_heldOn (t : Slot) (i : BitVec 5) (v : Word) : (t.setS i v).heldOn = t.heldOn := by rw [Slot.setS_eq]
@[simp] theorem Slot.setS_ringBufs (t : Slot) (i : BitVec 5) (v : Word) : (t.setS i v).ringBufs = t.ringBufs := by rw [Slot.setS_eq]
@[simp] theorem Slot.setS_locked (t : Slot) (i : BitVec 5) (v : Word) : (t.setS i v).locked = t.locked := by rw [Slot.setS_eq]
@[simp] theorem Slot.setS_fenceAt (t : Slot) (i : BitVec 5) (v : Word) : (t.setS i v).fenceAt = t.fenceAt := by rw [Slot.setS_eq]
@[simp] theorem Slot.setS_strongAt (t : Slot) (i : BitVec 5) (v : Word) : (t.setS i v).strongAt = t.strongAt := by rw [Slot.setS_eq]
@[simp] theorem Slot.setS_copies (t : Slot) (i : BitVec 5) (v : Word) : (t.setS i v).copies = t.copies := by rw [Slot.setS_eq]
@[simp] theorem Slot.setS_nextOp (t : Slot) (i : BitVec 5) (v : Word) : (t.setS i v).nextOp = t.nextOp := by rw [Slot.setS_eq]
@[simp] theorem Slot.setS_cqHead (t : Slot) (i : BitVec 5) (v : Word) : (t.setS i v).cqHead = t.cqHead := by rw [Slot.setS_eq]
@[simp] theorem Slot.setS_cqTail (t : Slot) (i : BitVec 5) (v : Word) : (t.setS i v).cqTail = t.cqTail := by rw [Slot.setS_eq]
@[simp] theorem Slot.setS_cqCount (t : Slot) (i : BitVec 5) (v : Word) : (t.setS i v).cqCount = t.cqCount := by rw [Slot.setS_eq]
@[simp] theorem Slot.setS_waitRecs (t : Slot) (i : BitVec 5) (v : Word) : (t.setS i v).waitRecs = t.waitRecs := by rw [Slot.setS_eq]
@[simp] theorem Slot.setS_asyncPend (t : Slot) (i : BitVec 5) (v : Word) : (t.setS i v).asyncPend = t.asyncPend := by rw [Slot.setS_eq]
@[simp] theorem Slot.setS_arrives (t : Slot) (i : BitVec 5) (v : Word) : (t.setS i v).arrives = t.arrives := by rw [Slot.setS_eq]
@[simp] theorem Slot.setS_preemptReq (t : Slot) (i : BitVec 5) (v : Word) : (t.setS i v).preemptReq = t.preemptReq := by rw [Slot.setS_eq]
@[simp] theorem Slot.setS_waitsFor (t : Slot) (i : BitVec 5) (v : Word) : (t.setS i v).waitsFor = t.waitsFor := by rw [Slot.setS_eq]
@[simp] theorem Slot.setS_corelo (t : Slot) (i : BitVec 5) (v : Word) : (t.setS i v).corelo = t.corelo := by rw [Slot.setS_eq]
@[simp] theorem Slot.setS_ending (t : Slot) (i : BitVec 5) (v : Word) : (t.setS i v).ending = t.ending := by rw [Slot.setS_eq]
@[simp] theorem Slot.setS_readyAt (t : Slot) (i : BitVec 5) (v : Word) : (t.setS i v).readyAt = t.readyAt := by rw [Slot.setS_eq]
@[simp] theorem Slot.setS_dirtyV (t : Slot) (i : BitVec 5) (v : Word) : (t.setS i v).dirtyV = t.dirtyV := by rw [Slot.setS_eq]
@[simp] theorem Slot.setS_dirtyM (t : Slot) (i : BitVec 5) (v : Word) : (t.setS i v).dirtyM = t.dirtyM := by rw [Slot.setS_eq]
@[simp] theorem Slot.setS_dirtyG (t : Slot) (i : BitVec 5) (v : Word) : (t.setS i v).dirtyG = t.dirtyG := by rw [Slot.setS_eq]
@[simp] theorem Slot.setS_chain (t : Slot) (i : BitVec 5) (v : Word) : (t.setS i v).chain = t.chain := by rw [Slot.setS_eq]

/-! ### Streams of a slot -/

@[simp] theorem Slot.str_setStr_same (t : Slot) (e : Stream) (x : StreamState) : (t.setStr e x).str e = x := by cases e <;> rfl
theorem Slot.str_setStr_other (t : Slot) {e f : Stream} (x : StreamState) (h : f ≠ e) : (t.setStr e x).str f = t.str f := by
  cases e <;> cases f <;> first | rfl | exact absurd rfl h
@[simp] theorem Slot.setStr_key (t : Slot) (e : Stream) (x : StreamState) : (t.setStr e x).key = t.key := by cases e <;> rfl
@[simp] theorem Slot.setStr_status (t : Slot) (e : Stream) (x : StreamState) : (t.setStr e x).status = t.status := by cases e <;> rfl
@[simp] theorem Slot.setStr_bind (t : Slot) (e : Stream) (x : StreamState) : (t.setStr e x).bind = t.bind := by cases e <;> rfl
@[simp] theorem Slot.setStr_s (t : Slot) (e : Stream) (x : StreamState) : (t.setStr e x).s = t.s := by cases e <;> rfl
@[simp] theorem Slot.setStr_badS (t : Slot) (e : Stream) (x : StreamState) : (t.setStr e x).badS = t.badS := by cases e <;> rfl
@[simp] theorem Slot.setStr_quotient (t : Slot) (e : Stream) (x : StreamState) : (t.setStr e x).quotient = t.quotient := by cases e <;> rfl
@[simp] theorem Slot.setStr_h (t : Slot) (e : Stream) (x : StreamState) : (t.setStr e x).h = t.h := by cases e <;> rfl
@[simp] theorem Slot.setStr_e (t : Slot) (e : Stream) (x : StreamState) : (t.setStr e x).e = t.e := by cases e <;> rfl
@[simp] theorem Slot.setStr_k (t : Slot) (e : Stream) (x : StreamState) : (t.setStr e x).k = t.k := by cases e <;> rfl
@[simp] theorem Slot.setStr_ft (t : Slot) (e : Stream) (x : StreamState) : (t.setStr e x).ft = t.ft := by cases e <;> rfl
@[simp] theorem Slot.setStr_om (t : Slot) (e : Stream) (x : StreamState) : (t.setStr e x).om = t.om := by cases e <;> rfl
@[simp] theorem Slot.setStr_v (t : Slot) (e : Stream) (x : StreamState) : (t.setStr e x).v = t.v := by cases e <;> rfl
@[simp] theorem Slot.setStr_rows (t : Slot) (e : Stream) (x : StreamState) : (t.setStr e x).rows = t.rows := by cases e <;> rfl
@[simp] theorem Slot.setStr_cols (t : Slot) (e : Stream) (x : StreamState) : (t.setStr e x).cols = t.cols := by cases e <;> rfl
@[simp] theorem Slot.setStr_m (t : Slot) (e : Stream) (x : StreamState) : (t.setStr e x).m = t.m := by cases e <;> rfl
@[simp] theorem Slot.setStr_vcsr (t : Slot) (e : Stream) (x : StreamState) : (t.setStr e x).vcsr = t.vcsr := by cases e <;> rfl
@[simp] theorem Slot.setStr_ftoff (t : Slot) (e : Stream) (x : StreamState) : (t.setStr e x).ftoff = t.ftoff := by cases e <;> rfl
@[simp] theorem Slot.setStr_fscratch0 (t : Slot) (e : Stream) (x : StreamState) : (t.setStr e x).fscratch0 = t.fscratch0 := by cases e <;> rfl
@[simp] theorem Slot.setStr_fscratch1 (t : Slot) (e : Stream) (x : StreamState) : (t.setStr e x).fscratch1 = t.fscratch1 := by cases e <;> rfl
@[simp] theorem Slot.setStr_tvec (t : Slot) (e : Stream) (x : StreamState) : (t.setStr e x).tvec = t.tvec := by cases e <;> rfl
@[simp] theorem Slot.setStr_fcause (t : Slot) (e : Stream) (x : StreamState) : (t.setStr e x).fcause = t.fcause := by cases e <;> rfl
@[simp] theorem Slot.setStr_fstream (t : Slot) (e : Stream) (x : StreamState) : (t.setStr e x).fstream = t.fstream := by cases e <;> rfl
@[simp] theorem Slot.setStr_fpc (t : Slot) (e : Stream) (x : StreamState) : (t.setStr e x).fpc = t.fpc := by cases e <;> rfl
@[simp] theorem Slot.setStr_finsn (t : Slot) (e : Stream) (x : StreamState) : (t.setStr e x).finsn = t.finsn := by cases e <;> rfl
@[simp] theorem Slot.setStr_faddr (t : Slot) (e : Stream) (x : StreamState) : (t.setStr e x).faddr = t.faddr := by cases e <;> rfl
@[simp] theorem Slot.setStr_ih (t : Slot) (e : Stream) (x : StreamState) : (t.setStr e x).ih = t.ih := by cases e <;> rfl
@[simp] theorem Slot.setStr_handled (t : Slot) (e : Stream) (x : StreamState) : (t.setStr e x).handled = t.handled := by cases e <;> rfl
@[simp] theorem Slot.setStr_divert (t : Slot) (e : Stream) (x : StreamState) : (t.setStr e x).divert = t.divert := by cases e <;> rfl
@[simp] theorem Slot.setStr_stores (t : Slot) (e : Stream) (x : StreamState) : (t.setStr e x).stores = t.stores := by cases e <;> rfl
@[simp] theorem Slot.setStr_vfly (t : Slot) (e : Stream) (x : StreamState) : (t.setStr e x).vfly = t.vfly := by cases e <;> rfl
@[simp] theorem Slot.setStr_mfly (t : Slot) (e : Stream) (x : StreamState) : (t.setStr e x).mfly = t.mfly := by cases e <;> rfl
@[simp] theorem Slot.setStr_scop (t : Slot) (e : Stream) (x : StreamState) : (t.setStr e x).scop = t.scop := by cases e <;> rfl
@[simp] theorem Slot.setStr_orphans (t : Slot) (e : Stream) (x : StreamState) : (t.setStr e x).orphans = t.orphans := by cases e <;> rfl
@[simp] theorem Slot.setStr_waiting (t : Slot) (e : Stream) (x : StreamState) : (t.setStr e x).waiting = t.waiting := by cases e <;> rfl
@[simp] theorem Slot.setStr_heldOn (t : Slot) (e : Stream) (x : StreamState) : (t.setStr e x).heldOn = t.heldOn := by cases e <;> rfl
@[simp] theorem Slot.setStr_ringBufs (t : Slot) (e : Stream) (x : StreamState) : (t.setStr e x).ringBufs = t.ringBufs := by cases e <;> rfl
@[simp] theorem Slot.setStr_locked (t : Slot) (e : Stream) (x : StreamState) : (t.setStr e x).locked = t.locked := by cases e <;> rfl
@[simp] theorem Slot.setStr_fenceAt (t : Slot) (e : Stream) (x : StreamState) : (t.setStr e x).fenceAt = t.fenceAt := by cases e <;> rfl
@[simp] theorem Slot.setStr_strongAt (t : Slot) (e : Stream) (x : StreamState) : (t.setStr e x).strongAt = t.strongAt := by cases e <;> rfl
@[simp] theorem Slot.setStr_copies (t : Slot) (e : Stream) (x : StreamState) : (t.setStr e x).copies = t.copies := by cases e <;> rfl
@[simp] theorem Slot.setStr_nextOp (t : Slot) (e : Stream) (x : StreamState) : (t.setStr e x).nextOp = t.nextOp := by cases e <;> rfl
@[simp] theorem Slot.setStr_cqHead (t : Slot) (e : Stream) (x : StreamState) : (t.setStr e x).cqHead = t.cqHead := by cases e <;> rfl
@[simp] theorem Slot.setStr_cqTail (t : Slot) (e : Stream) (x : StreamState) : (t.setStr e x).cqTail = t.cqTail := by cases e <;> rfl
@[simp] theorem Slot.setStr_cqCount (t : Slot) (e : Stream) (x : StreamState) : (t.setStr e x).cqCount = t.cqCount := by cases e <;> rfl
@[simp] theorem Slot.setStr_waitRecs (t : Slot) (e : Stream) (x : StreamState) : (t.setStr e x).waitRecs = t.waitRecs := by cases e <;> rfl
@[simp] theorem Slot.setStr_asyncPend (t : Slot) (e : Stream) (x : StreamState) : (t.setStr e x).asyncPend = t.asyncPend := by cases e <;> rfl
@[simp] theorem Slot.setStr_arrives (t : Slot) (e : Stream) (x : StreamState) : (t.setStr e x).arrives = t.arrives := by cases e <;> rfl
@[simp] theorem Slot.setStr_preemptReq (t : Slot) (e : Stream) (x : StreamState) : (t.setStr e x).preemptReq = t.preemptReq := by cases e <;> rfl
@[simp] theorem Slot.setStr_waitsFor (t : Slot) (e : Stream) (x : StreamState) : (t.setStr e x).waitsFor = t.waitsFor := by cases e <;> rfl
@[simp] theorem Slot.setStr_corelo (t : Slot) (e : Stream) (x : StreamState) : (t.setStr e x).corelo = t.corelo := by cases e <;> rfl
@[simp] theorem Slot.setStr_ending (t : Slot) (e : Stream) (x : StreamState) : (t.setStr e x).ending = t.ending := by cases e <;> rfl
@[simp] theorem Slot.setStr_readyAt (t : Slot) (e : Stream) (x : StreamState) : (t.setStr e x).readyAt = t.readyAt := by cases e <;> rfl
@[simp] theorem Slot.setStr_dirtyV (t : Slot) (e : Stream) (x : StreamState) : (t.setStr e x).dirtyV = t.dirtyV := by cases e <;> rfl
@[simp] theorem Slot.setStr_dirtyM (t : Slot) (e : Stream) (x : StreamState) : (t.setStr e x).dirtyM = t.dirtyM := by cases e <;> rfl
@[simp] theorem Slot.setStr_dirtyG (t : Slot) (e : Stream) (x : StreamState) : (t.setStr e x).dirtyG = t.dirtyG := by cases e <;> rfl
@[simp] theorem Slot.setStr_chain (t : Slot) (e : Stream) (x : StreamState) : (t.setStr e x).chain = t.chain := by cases e <;> rfl
@[simp] theorem Slot.getS_setStr (t : Slot) (e : Stream) (x : StreamState) (i : BitVec 5) : (t.setStr e x).getS i = t.getS i := by cases e <;> rfl

/-! ### Updates of the state -/

@[simp] theorem State.upd_cur (s : State) (f : Slot → Slot) : (s.upd f).cur = f s.cur := rfl
@[simp] theorem State.upd_others (s : State) (f : Slot → Slot) : (s.upd f).others = s.others := rfl
@[simp] theorem State.upd_cores (s : State) (f : Slot → Slot) : (s.upd f).cores = s.cores := rfl
@[simp] theorem State.upd_mem (s : State) (f : Slot → Slot) : (s.upd f).mem = s.mem := rfl
@[simp] theorem State.upd_bad (s : State) (f : Slot → Slot) : (s.upd f).bad = s.bad := rfl
@[simp] theorem State.upd_tokens (s : State) (f : Slot → Slot) : (s.upd f).tokens = s.tokens := rfl
@[simp] theorem State.upd_jobs (s : State) (f : Slot → Slot) : (s.upd f).jobs = s.jobs := rfl
@[simp] theorem State.upd_launches (s : State) (f : Slot → Slot) : (s.upd f).launches = s.launches := rfl
@[simp] theorem State.upd_images (s : State) (f : Slot → Slot) : (s.upd f).images = s.images := rfl
@[simp] theorem State.upd_archive (s : State) (f : Slot → Slot) : (s.upd f).archive = s.archive := rfl
@[simp] theorem State.upd_nextImage (s : State) (f : Slot → Slot) : (s.upd f).nextImage = s.nextImage := rfl
@[simp] theorem State.upd_gangHolds (s : State) (f : Slot → Slot) : (s.upd f).gangHolds = s.gangHolds := rfl
@[simp] theorem State.upd_nextLaunch (s : State) (f : Slot → Slot) : (s.upd f).nextLaunch = s.nextLaunch := rfl
@[simp] theorem State.upd_badPorts (s : State) (f : Slot → Slot) : (s.upd f).badPorts = s.badPorts := rfl
@[simp] theorem State.upd_millPorts (s : State) (f : Slot → Slot) : (s.upd f).millPorts = s.millPorts := rfl
@[simp] theorem State.upd_badLasers (s : State) (f : Slot → Slot) : (s.upd f).badLasers = s.badLasers := rfl
@[simp] theorem State.upd_deadDies (s : State) (f : Slot → Slot) : (s.upd f).deadDies = s.deadDies := rfl
@[simp] theorem State.upd_lostModules (s : State) (f : Slot → Slot) : (s.upd f).lostModules = s.lostModules := rfl
@[simp] theorem State.upd_links (s : State) (f : Slot → Slot) : (s.upd f).links = s.links := rfl
@[simp] theorem State.upd_held (s : State) (f : Slot → Slot) : (s.upd f).held = s.held := rfl
@[simp] theorem State.upd_colls (s : State) (f : Slot → Slot) : (s.upd f).colls = s.colls := rfl
@[simp] theorem State.upd_chunkErrs (s : State) (f : Slot → Slot) : (s.upd f).chunkErrs = s.chunkErrs := rfl
@[simp] theorem State.upd_host (s : State) (f : Slot → Slot) : (s.upd f).host = s.host := rfl
@[simp] theorem State.upd_errors (s : State) (f : Slot → Slot) : (s.upd f).errors = s.errors := rfl
@[simp] theorem State.upd_soft (s : State) (f : Slot → Slot) : (s.upd f).soft = s.soft := rfl
@[simp] theorem State.upd_cclk (s : State) (f : Slot → Slot) : (s.upd f).cclk = s.cclk := rfl
@[simp] theorem State.upd_tripped (s : State) (f : Slot → Slot) : (s.upd f).tripped = s.tripped := rfl
@[simp] theorem State.upd_corelo (s : State) (f : Slot → Slot) : (s.upd f).corelo = s.corelo := rfl
@[simp] theorem State.upd_cycle (s : State) (f : Slot → Slot) : (s.upd f).cycle = s.cycle := rfl
@[simp] theorem State.upd_agenda (s : State) (f : Slot → Slot) : (s.upd f).agenda = s.agenda := rfl
@[simp] theorem State.upd_inputs (s : State) (f : Slot → Slot) : (s.upd f).inputs = s.inputs := rfl
@[simp] theorem State.upd_ev (s : State) (f : Slot → Slot) : (s.upd f).ev = s.ev := rfl
@[simp] theorem State.upd_insn (s : State) (f : Slot → Slot) : (s.upd f).insn = s.insn := rfl
@[simp] theorem State.upd_freeCtr (s : State) (f : Slot → Slot) : (s.upd f).freeCtr = s.freeCtr := rfl

@[simp] theorem State.updStr_cur (s : State) (e : Stream) (f : StreamState → StreamState) : (s.updStr e f).cur = s.cur.setStr e (f (s.cur.str e)) := rfl
@[simp] theorem State.updStr_others (s : State) (e : Stream) (f : StreamState → StreamState) : (s.updStr e f).others = s.others := rfl
@[simp] theorem State.updStr_cores (s : State) (e : Stream) (f : StreamState → StreamState) : (s.updStr e f).cores = s.cores := rfl
@[simp] theorem State.updStr_mem (s : State) (e : Stream) (f : StreamState → StreamState) : (s.updStr e f).mem = s.mem := rfl
@[simp] theorem State.updStr_bad (s : State) (e : Stream) (f : StreamState → StreamState) : (s.updStr e f).bad = s.bad := rfl
@[simp] theorem State.updStr_tokens (s : State) (e : Stream) (f : StreamState → StreamState) : (s.updStr e f).tokens = s.tokens := rfl
@[simp] theorem State.updStr_jobs (s : State) (e : Stream) (f : StreamState → StreamState) : (s.updStr e f).jobs = s.jobs := rfl
@[simp] theorem State.updStr_launches (s : State) (e : Stream) (f : StreamState → StreamState) : (s.updStr e f).launches = s.launches := rfl
@[simp] theorem State.updStr_images (s : State) (e : Stream) (f : StreamState → StreamState) : (s.updStr e f).images = s.images := rfl
@[simp] theorem State.updStr_archive (s : State) (e : Stream) (f : StreamState → StreamState) : (s.updStr e f).archive = s.archive := rfl
@[simp] theorem State.updStr_nextImage (s : State) (e : Stream) (f : StreamState → StreamState) : (s.updStr e f).nextImage = s.nextImage := rfl
@[simp] theorem State.updStr_gangHolds (s : State) (e : Stream) (f : StreamState → StreamState) : (s.updStr e f).gangHolds = s.gangHolds := rfl
@[simp] theorem State.updStr_nextLaunch (s : State) (e : Stream) (f : StreamState → StreamState) : (s.updStr e f).nextLaunch = s.nextLaunch := rfl
@[simp] theorem State.updStr_badPorts (s : State) (e : Stream) (f : StreamState → StreamState) : (s.updStr e f).badPorts = s.badPorts := rfl
@[simp] theorem State.updStr_millPorts (s : State) (e : Stream) (f : StreamState → StreamState) : (s.updStr e f).millPorts = s.millPorts := rfl
@[simp] theorem State.updStr_badLasers (s : State) (e : Stream) (f : StreamState → StreamState) : (s.updStr e f).badLasers = s.badLasers := rfl
@[simp] theorem State.updStr_deadDies (s : State) (e : Stream) (f : StreamState → StreamState) : (s.updStr e f).deadDies = s.deadDies := rfl
@[simp] theorem State.updStr_lostModules (s : State) (e : Stream) (f : StreamState → StreamState) : (s.updStr e f).lostModules = s.lostModules := rfl
@[simp] theorem State.updStr_links (s : State) (e : Stream) (f : StreamState → StreamState) : (s.updStr e f).links = s.links := rfl
@[simp] theorem State.updStr_held (s : State) (e : Stream) (f : StreamState → StreamState) : (s.updStr e f).held = s.held := rfl
@[simp] theorem State.updStr_colls (s : State) (e : Stream) (f : StreamState → StreamState) : (s.updStr e f).colls = s.colls := rfl
@[simp] theorem State.updStr_chunkErrs (s : State) (e : Stream) (f : StreamState → StreamState) : (s.updStr e f).chunkErrs = s.chunkErrs := rfl
@[simp] theorem State.updStr_host (s : State) (e : Stream) (f : StreamState → StreamState) : (s.updStr e f).host = s.host := rfl
@[simp] theorem State.updStr_errors (s : State) (e : Stream) (f : StreamState → StreamState) : (s.updStr e f).errors = s.errors := rfl
@[simp] theorem State.updStr_soft (s : State) (e : Stream) (f : StreamState → StreamState) : (s.updStr e f).soft = s.soft := rfl
@[simp] theorem State.updStr_cclk (s : State) (e : Stream) (f : StreamState → StreamState) : (s.updStr e f).cclk = s.cclk := rfl
@[simp] theorem State.updStr_tripped (s : State) (e : Stream) (f : StreamState → StreamState) : (s.updStr e f).tripped = s.tripped := rfl
@[simp] theorem State.updStr_corelo (s : State) (e : Stream) (f : StreamState → StreamState) : (s.updStr e f).corelo = s.corelo := rfl
@[simp] theorem State.updStr_cycle (s : State) (e : Stream) (f : StreamState → StreamState) : (s.updStr e f).cycle = s.cycle := rfl
@[simp] theorem State.updStr_agenda (s : State) (e : Stream) (f : StreamState → StreamState) : (s.updStr e f).agenda = s.agenda := rfl
@[simp] theorem State.updStr_inputs (s : State) (e : Stream) (f : StreamState → StreamState) : (s.updStr e f).inputs = s.inputs := rfl
@[simp] theorem State.updStr_ev (s : State) (e : Stream) (f : StreamState → StreamState) : (s.updStr e f).ev = s.ev := rfl
@[simp] theorem State.updStr_insn (s : State) (e : Stream) (f : StreamState → StreamState) : (s.updStr e f).insn = s.insn := rfl
@[simp] theorem State.updStr_freeCtr (s : State) (e : Stream) (f : StreamState → StreamState) : (s.updStr e f).freeCtr = s.freeCtr := rfl

@[simp] theorem State.setS_cur (s : State) (i : BitVec 5) (v : Word) : (s.setS i v).cur = s.cur.setS i v := rfl
@[simp] theorem State.setS_others (s : State) (i : BitVec 5) (v : Word) : (s.setS i v).others = s.others := rfl
@[simp] theorem State.setS_cores (s : State) (i : BitVec 5) (v : Word) : (s.setS i v).cores = s.cores := rfl
@[simp] theorem State.setS_mem (s : State) (i : BitVec 5) (v : Word) : (s.setS i v).mem = s.mem := rfl
@[simp] theorem State.setS_bad (s : State) (i : BitVec 5) (v : Word) : (s.setS i v).bad = s.bad := rfl
@[simp] theorem State.setS_tokens (s : State) (i : BitVec 5) (v : Word) : (s.setS i v).tokens = s.tokens := rfl
@[simp] theorem State.setS_jobs (s : State) (i : BitVec 5) (v : Word) : (s.setS i v).jobs = s.jobs := rfl
@[simp] theorem State.setS_launches (s : State) (i : BitVec 5) (v : Word) : (s.setS i v).launches = s.launches := rfl
@[simp] theorem State.setS_images (s : State) (i : BitVec 5) (v : Word) : (s.setS i v).images = s.images := rfl
@[simp] theorem State.setS_archive (s : State) (i : BitVec 5) (v : Word) : (s.setS i v).archive = s.archive := rfl
@[simp] theorem State.setS_nextImage (s : State) (i : BitVec 5) (v : Word) : (s.setS i v).nextImage = s.nextImage := rfl
@[simp] theorem State.setS_gangHolds (s : State) (i : BitVec 5) (v : Word) : (s.setS i v).gangHolds = s.gangHolds := rfl
@[simp] theorem State.setS_nextLaunch (s : State) (i : BitVec 5) (v : Word) : (s.setS i v).nextLaunch = s.nextLaunch := rfl
@[simp] theorem State.setS_badPorts (s : State) (i : BitVec 5) (v : Word) : (s.setS i v).badPorts = s.badPorts := rfl
@[simp] theorem State.setS_millPorts (s : State) (i : BitVec 5) (v : Word) : (s.setS i v).millPorts = s.millPorts := rfl
@[simp] theorem State.setS_badLasers (s : State) (i : BitVec 5) (v : Word) : (s.setS i v).badLasers = s.badLasers := rfl
@[simp] theorem State.setS_deadDies (s : State) (i : BitVec 5) (v : Word) : (s.setS i v).deadDies = s.deadDies := rfl
@[simp] theorem State.setS_lostModules (s : State) (i : BitVec 5) (v : Word) : (s.setS i v).lostModules = s.lostModules := rfl
@[simp] theorem State.setS_links (s : State) (i : BitVec 5) (v : Word) : (s.setS i v).links = s.links := rfl
@[simp] theorem State.setS_held (s : State) (i : BitVec 5) (v : Word) : (s.setS i v).held = s.held := rfl
@[simp] theorem State.setS_colls (s : State) (i : BitVec 5) (v : Word) : (s.setS i v).colls = s.colls := rfl
@[simp] theorem State.setS_chunkErrs (s : State) (i : BitVec 5) (v : Word) : (s.setS i v).chunkErrs = s.chunkErrs := rfl
@[simp] theorem State.setS_host (s : State) (i : BitVec 5) (v : Word) : (s.setS i v).host = s.host := rfl
@[simp] theorem State.setS_errors (s : State) (i : BitVec 5) (v : Word) : (s.setS i v).errors = s.errors := rfl
@[simp] theorem State.setS_soft (s : State) (i : BitVec 5) (v : Word) : (s.setS i v).soft = s.soft := rfl
@[simp] theorem State.setS_cclk (s : State) (i : BitVec 5) (v : Word) : (s.setS i v).cclk = s.cclk := rfl
@[simp] theorem State.setS_tripped (s : State) (i : BitVec 5) (v : Word) : (s.setS i v).tripped = s.tripped := rfl
@[simp] theorem State.setS_corelo (s : State) (i : BitVec 5) (v : Word) : (s.setS i v).corelo = s.corelo := rfl
@[simp] theorem State.setS_cycle (s : State) (i : BitVec 5) (v : Word) : (s.setS i v).cycle = s.cycle := rfl
@[simp] theorem State.setS_agenda (s : State) (i : BitVec 5) (v : Word) : (s.setS i v).agenda = s.agenda := rfl
@[simp] theorem State.setS_inputs (s : State) (i : BitVec 5) (v : Word) : (s.setS i v).inputs = s.inputs := rfl
@[simp] theorem State.setS_ev (s : State) (i : BitVec 5) (v : Word) : (s.setS i v).ev = s.ev := rfl
@[simp] theorem State.setS_insn (s : State) (i : BitVec 5) (v : Word) : (s.setS i v).insn = s.insn := rfl
@[simp] theorem State.setS_freeCtr (s : State) (i : BitVec 5) (v : Word) : (s.setS i v).freeCtr = s.freeCtr := rfl

@[simp] theorem State.advance_cur (s : State) (e : Stream) : (s.advance e).cur = s.cur.setStr e (seqNext 6 (s.cur.str e)) := rfl
@[simp] theorem State.advance_others (s : State) (e : Stream) : (s.advance e).others = s.others := rfl
@[simp] theorem State.advance_cores (s : State) (e : Stream) : (s.advance e).cores = s.cores := rfl
@[simp] theorem State.advance_mem (s : State) (e : Stream) : (s.advance e).mem = s.mem := rfl
@[simp] theorem State.advance_bad (s : State) (e : Stream) : (s.advance e).bad = s.bad := rfl
@[simp] theorem State.advance_tokens (s : State) (e : Stream) : (s.advance e).tokens = s.tokens := rfl
@[simp] theorem State.advance_jobs (s : State) (e : Stream) : (s.advance e).jobs = s.jobs := rfl
@[simp] theorem State.advance_launches (s : State) (e : Stream) : (s.advance e).launches = s.launches := rfl
@[simp] theorem State.advance_images (s : State) (e : Stream) : (s.advance e).images = s.images := rfl
@[simp] theorem State.advance_archive (s : State) (e : Stream) : (s.advance e).archive = s.archive := rfl
@[simp] theorem State.advance_nextImage (s : State) (e : Stream) : (s.advance e).nextImage = s.nextImage := rfl
@[simp] theorem State.advance_gangHolds (s : State) (e : Stream) : (s.advance e).gangHolds = s.gangHolds := rfl
@[simp] theorem State.advance_nextLaunch (s : State) (e : Stream) : (s.advance e).nextLaunch = s.nextLaunch := rfl
@[simp] theorem State.advance_badPorts (s : State) (e : Stream) : (s.advance e).badPorts = s.badPorts := rfl
@[simp] theorem State.advance_millPorts (s : State) (e : Stream) : (s.advance e).millPorts = s.millPorts := rfl
@[simp] theorem State.advance_badLasers (s : State) (e : Stream) : (s.advance e).badLasers = s.badLasers := rfl
@[simp] theorem State.advance_deadDies (s : State) (e : Stream) : (s.advance e).deadDies = s.deadDies := rfl
@[simp] theorem State.advance_lostModules (s : State) (e : Stream) : (s.advance e).lostModules = s.lostModules := rfl
@[simp] theorem State.advance_links (s : State) (e : Stream) : (s.advance e).links = s.links := rfl
@[simp] theorem State.advance_held (s : State) (e : Stream) : (s.advance e).held = s.held := rfl
@[simp] theorem State.advance_colls (s : State) (e : Stream) : (s.advance e).colls = s.colls := rfl
@[simp] theorem State.advance_chunkErrs (s : State) (e : Stream) : (s.advance e).chunkErrs = s.chunkErrs := rfl
@[simp] theorem State.advance_host (s : State) (e : Stream) : (s.advance e).host = s.host := rfl
@[simp] theorem State.advance_errors (s : State) (e : Stream) : (s.advance e).errors = s.errors := rfl
@[simp] theorem State.advance_soft (s : State) (e : Stream) : (s.advance e).soft = s.soft := rfl
@[simp] theorem State.advance_cclk (s : State) (e : Stream) : (s.advance e).cclk = s.cclk := rfl
@[simp] theorem State.advance_tripped (s : State) (e : Stream) : (s.advance e).tripped = s.tripped := rfl
@[simp] theorem State.advance_corelo (s : State) (e : Stream) : (s.advance e).corelo = s.corelo := rfl
@[simp] theorem State.advance_cycle (s : State) (e : Stream) : (s.advance e).cycle = s.cycle := rfl
@[simp] theorem State.advance_agenda (s : State) (e : Stream) : (s.advance e).agenda = s.agenda := rfl
@[simp] theorem State.advance_inputs (s : State) (e : Stream) : (s.advance e).inputs = s.inputs := rfl
@[simp] theorem State.advance_ev (s : State) (e : Stream) : (s.advance e).ev = s.ev := rfl
@[simp] theorem State.advance_insn (s : State) (e : Stream) : (s.advance e).insn = s.insn := rfl
@[simp] theorem State.advance_freeCtr (s : State) (e : Stream) : (s.advance e).freeCtr = s.freeCtr := rfl

@[simp] theorem State.updCore_cur (s : State) (g : CoreId) (f : Core → Core) : (s.updCore g f).cur = s.cur := rfl
@[simp] theorem State.updCore_others (s : State) (g : CoreId) (f : Core → Core) : (s.updCore g f).others = s.others := rfl
@[simp] theorem State.updCore_cores (s : State) (g : CoreId) (f : Core → Core) : (s.updCore g f).cores = putCore s.cores (f (s.core g)) := rfl
@[simp] theorem State.updCore_mem (s : State) (g : CoreId) (f : Core → Core) : (s.updCore g f).mem = s.mem := rfl
@[simp] theorem State.updCore_bad (s : State) (g : CoreId) (f : Core → Core) : (s.updCore g f).bad = s.bad := rfl
@[simp] theorem State.updCore_tokens (s : State) (g : CoreId) (f : Core → Core) : (s.updCore g f).tokens = s.tokens := rfl
@[simp] theorem State.updCore_jobs (s : State) (g : CoreId) (f : Core → Core) : (s.updCore g f).jobs = s.jobs := rfl
@[simp] theorem State.updCore_launches (s : State) (g : CoreId) (f : Core → Core) : (s.updCore g f).launches = s.launches := rfl
@[simp] theorem State.updCore_images (s : State) (g : CoreId) (f : Core → Core) : (s.updCore g f).images = s.images := rfl
@[simp] theorem State.updCore_archive (s : State) (g : CoreId) (f : Core → Core) : (s.updCore g f).archive = s.archive := rfl
@[simp] theorem State.updCore_nextImage (s : State) (g : CoreId) (f : Core → Core) : (s.updCore g f).nextImage = s.nextImage := rfl
@[simp] theorem State.updCore_gangHolds (s : State) (g : CoreId) (f : Core → Core) : (s.updCore g f).gangHolds = s.gangHolds := rfl
@[simp] theorem State.updCore_nextLaunch (s : State) (g : CoreId) (f : Core → Core) : (s.updCore g f).nextLaunch = s.nextLaunch := rfl
@[simp] theorem State.updCore_badPorts (s : State) (g : CoreId) (f : Core → Core) : (s.updCore g f).badPorts = s.badPorts := rfl
@[simp] theorem State.updCore_millPorts (s : State) (g : CoreId) (f : Core → Core) : (s.updCore g f).millPorts = s.millPorts := rfl
@[simp] theorem State.updCore_badLasers (s : State) (g : CoreId) (f : Core → Core) : (s.updCore g f).badLasers = s.badLasers := rfl
@[simp] theorem State.updCore_deadDies (s : State) (g : CoreId) (f : Core → Core) : (s.updCore g f).deadDies = s.deadDies := rfl
@[simp] theorem State.updCore_lostModules (s : State) (g : CoreId) (f : Core → Core) : (s.updCore g f).lostModules = s.lostModules := rfl
@[simp] theorem State.updCore_links (s : State) (g : CoreId) (f : Core → Core) : (s.updCore g f).links = s.links := rfl
@[simp] theorem State.updCore_held (s : State) (g : CoreId) (f : Core → Core) : (s.updCore g f).held = s.held := rfl
@[simp] theorem State.updCore_colls (s : State) (g : CoreId) (f : Core → Core) : (s.updCore g f).colls = s.colls := rfl
@[simp] theorem State.updCore_chunkErrs (s : State) (g : CoreId) (f : Core → Core) : (s.updCore g f).chunkErrs = s.chunkErrs := rfl
@[simp] theorem State.updCore_host (s : State) (g : CoreId) (f : Core → Core) : (s.updCore g f).host = s.host := rfl
@[simp] theorem State.updCore_errors (s : State) (g : CoreId) (f : Core → Core) : (s.updCore g f).errors = s.errors := rfl
@[simp] theorem State.updCore_soft (s : State) (g : CoreId) (f : Core → Core) : (s.updCore g f).soft = s.soft := rfl
@[simp] theorem State.updCore_cclk (s : State) (g : CoreId) (f : Core → Core) : (s.updCore g f).cclk = s.cclk := rfl
@[simp] theorem State.updCore_tripped (s : State) (g : CoreId) (f : Core → Core) : (s.updCore g f).tripped = s.tripped := rfl
@[simp] theorem State.updCore_corelo (s : State) (g : CoreId) (f : Core → Core) : (s.updCore g f).corelo = s.corelo := rfl
@[simp] theorem State.updCore_cycle (s : State) (g : CoreId) (f : Core → Core) : (s.updCore g f).cycle = s.cycle := rfl
@[simp] theorem State.updCore_agenda (s : State) (g : CoreId) (f : Core → Core) : (s.updCore g f).agenda = s.agenda := rfl
@[simp] theorem State.updCore_inputs (s : State) (g : CoreId) (f : Core → Core) : (s.updCore g f).inputs = s.inputs := rfl
@[simp] theorem State.updCore_ev (s : State) (g : CoreId) (f : Core → Core) : (s.updCore g f).ev = s.ev := rfl
@[simp] theorem State.updCore_insn (s : State) (g : CoreId) (f : Core → Core) : (s.updCore g f).insn = s.insn := rfl
@[simp] theorem State.updCore_freeCtr (s : State) (g : CoreId) (f : Core → Core) : (s.updCore g f).freeCtr = s.freeCtr := rfl

@[simp] theorem State.store_cur (s : State) (c : List (Nat × Byte)) : (s.store c).cur = s.cur := rfl
@[simp] theorem State.store_others (s : State) (c : List (Nat × Byte)) : (s.store c).others = s.others := rfl
@[simp] theorem State.store_cores (s : State) (c : List (Nat × Byte)) : (s.store c).cores = s.cores := rfl
@[simp] theorem State.store_mem (s : State) (c : List (Nat × Byte)) : (s.store c).mem = memWrites s.mem (storeCells s.bad c) := rfl
@[simp] theorem State.store_bad (s : State) (c : List (Nat × Byte)) : (s.store c).bad = storeBad s.bad c := rfl
@[simp] theorem State.store_tokens (s : State) (c : List (Nat × Byte)) : (s.store c).tokens = s.tokens := rfl
@[simp] theorem State.store_jobs (s : State) (c : List (Nat × Byte)) : (s.store c).jobs = s.jobs := rfl
@[simp] theorem State.store_launches (s : State) (c : List (Nat × Byte)) : (s.store c).launches = s.launches := rfl
@[simp] theorem State.store_images (s : State) (c : List (Nat × Byte)) : (s.store c).images = s.images := rfl
@[simp] theorem State.store_archive (s : State) (c : List (Nat × Byte)) : (s.store c).archive = s.archive := rfl
@[simp] theorem State.store_nextImage (s : State) (c : List (Nat × Byte)) : (s.store c).nextImage = s.nextImage := rfl
@[simp] theorem State.store_gangHolds (s : State) (c : List (Nat × Byte)) : (s.store c).gangHolds = s.gangHolds := rfl
@[simp] theorem State.store_nextLaunch (s : State) (c : List (Nat × Byte)) : (s.store c).nextLaunch = s.nextLaunch := rfl
@[simp] theorem State.store_badPorts (s : State) (c : List (Nat × Byte)) : (s.store c).badPorts = s.badPorts := rfl
@[simp] theorem State.store_millPorts (s : State) (c : List (Nat × Byte)) : (s.store c).millPorts = s.millPorts := rfl
@[simp] theorem State.store_badLasers (s : State) (c : List (Nat × Byte)) : (s.store c).badLasers = s.badLasers := rfl
@[simp] theorem State.store_deadDies (s : State) (c : List (Nat × Byte)) : (s.store c).deadDies = s.deadDies := rfl
@[simp] theorem State.store_lostModules (s : State) (c : List (Nat × Byte)) : (s.store c).lostModules = s.lostModules := rfl
@[simp] theorem State.store_links (s : State) (c : List (Nat × Byte)) : (s.store c).links = s.links := rfl
@[simp] theorem State.store_held (s : State) (c : List (Nat × Byte)) : (s.store c).held = s.held := rfl
@[simp] theorem State.store_colls (s : State) (c : List (Nat × Byte)) : (s.store c).colls = s.colls := rfl
@[simp] theorem State.store_chunkErrs (s : State) (c : List (Nat × Byte)) : (s.store c).chunkErrs = s.chunkErrs := rfl
@[simp] theorem State.store_host (s : State) (c : List (Nat × Byte)) : (s.store c).host = s.host := rfl
@[simp] theorem State.store_errors (s : State) (c : List (Nat × Byte)) :
    (s.store c).errors = { s.errors with soft := s.errors.soft + softRead s.soft c } := rfl
@[simp] theorem State.store_soft (s : State) (c : List (Nat × Byte)) : (s.store c).soft = storeSoft s.soft c := rfl
@[simp] theorem State.store_cclk (s : State) (c : List (Nat × Byte)) : (s.store c).cclk = s.cclk := rfl
@[simp] theorem State.store_tripped (s : State) (c : List (Nat × Byte)) : (s.store c).tripped = s.tripped := rfl
@[simp] theorem State.store_corelo (s : State) (c : List (Nat × Byte)) : (s.store c).corelo = s.corelo := rfl
@[simp] theorem State.store_cycle (s : State) (c : List (Nat × Byte)) : (s.store c).cycle = s.cycle := rfl
@[simp] theorem State.store_agenda (s : State) (c : List (Nat × Byte)) : (s.store c).agenda = s.agenda := rfl
@[simp] theorem State.store_inputs (s : State) (c : List (Nat × Byte)) : (s.store c).inputs = s.inputs := rfl
@[simp] theorem State.store_ev (s : State) (c : List (Nat × Byte)) : (s.store c).ev = s.ev := rfl
@[simp] theorem State.store_insn (s : State) (c : List (Nat × Byte)) : (s.store c).insn = s.insn := rfl
@[simp] theorem State.store_freeCtr (s : State) (c : List (Nat × Byte)) : (s.store c).freeCtr = s.freeCtr := rfl

end Sys2Proof.Machine
end

