-- ==== Sys2Proof/Laws/Ops.lean ====
section
/-! SUPPORT. What each shared operation can do, said once: outcomes, the advance and the jumps of a stream, slots, cores and L1s, taking an
exception, the return from one, and the posting of records. -/

namespace Sys2Proof.Machine

/-! ### Outcomes -/

@[simp] theorem outcome_ok (e : Stream) (s u : State) : outcome e s (.ok u) = .next u := rfl
@[simp] theorem outcome_error (e : Stream) (s : State) (f : SFault) : outcome e s (.error f) = .next (s.raise e f) := rfl

/-- An outcome of a check is a next state: the checked one, or the state with the fault taken. -/
theorem outcome_cases (e : Stream) (s : State) (r : Chk State) :
    (∃ u, r = .ok u ∧ outcome e s r = .next u) ∨ ∃ f, r = .error f ∧ outcome e s r = .next (s.raise e f) := by
  cases r with
  | ok u => exact .inl ⟨u, rfl, rfl⟩
  | error f => exact .inr ⟨f, rfl, rfl⟩

/-! ### Streams -/

/-- Going on in sequence changes a stream's counter, loops and loop buffer, and nothing else of it. -/
theorem seqNext_rest (n : Nat) : ∀ x : StreamState,
    seqNext n x = { x with pc := (seqNext n x).pc, loops := (seqNext n x).loops, buf := (seqNext n x).buf } := by
  induction n with
  | zero => intro x; rfl
  | succ n ih =>
    intro x
    unfold seqNext
    split
    · rfl
    · rename_i i _
      simp only []
      split
      · rfl
      · rw [ih]

@[simp] theorem seqNext_ended (n : Nat) (x : StreamState) : (seqNext n x).ended = x.ended := by rw [seqNext_rest]
@[simp] theorem seqNext_stopped (n : Nat) (x : StreamState) : (seqNext n x).stopped = x.stopped := by rw [seqNext_rest]
@[simp] theorem seqNext_halted (n : Nat) (x : StreamState) : (seqNext n x).halted = x.halted := by rw [seqNext_rest]
@[simp] theorem seqNext_pending (n : Nat) (x : StreamState) : (seqNext n x).pending = x.pending := by rw [seqNext_rest]
@[simp] theorem seqNext_age (n : Nat) (x : StreamState) : (seqNext n x).age = x.age := by rw [seqNext_rest]
@[simp] theorem seqNext_holdUntil (n : Nat) (x : StreamState) : (seqNext n x).holdUntil = x.holdUntil := by rw [seqNext_rest]
@[simp] theorem seqNext_holdFault (n : Nat) (x : StreamState) : (seqNext n x).holdFault = x.holdFault := by rw [seqNext_rest]

/-- A stream at whose word no loop ends goes to the next word. -/
theorem seqNext_plain (n : Nat) (x : StreamState) (h : innermost x.loops x.pc = none) : seqNext (n + 1) x = { x with pc := x.pc + 4 } := by
  unfold seqNext; rw [h]

/-- A jump changes a stream's counter, loops and loop buffer, and nothing else of it. -/
theorem StreamState.jumpTo_rest (x : StreamState) (t : Pc) :
    x.jumpTo t = { x with pc := t, loops := (x.jumpTo t).loops, buf := (x.jumpTo t).buf } := rfl

/-- An advance changes one stream of the acting slot. -/
theorem State.advance_eq (s : State) (e : Stream) : s.advance e = { s with cur := s.cur.setStr e (seqNext 6 (s.cur.str e)) } := rfl

/-- A change of a stream leaves the slot's other streams. -/
theorem State.updStr_str_other (s : State) {e f : Stream} (g : StreamState → StreamState) (h : f ≠ e) :
    (s.updStr e g).cur.str f = s.cur.str f := Slot.str_setStr_other _ _ h

@[simp] theorem State.updStr_str_same (s : State) (e : Stream) (g : StreamState → StreamState) :
    (s.updStr e g).cur.str e = g (s.cur.str e) := Slot.str_setStr_same _ _ _

/-! ### Slots -/

theorem findSlot_key (ts : List Slot) (d : Slot) (k : SlotId) (h : d.key = k) : (findSlot ts d k).key = k := by
  induction ts with
  | nil => exact h
  | cons t r ih =>
    unfold findSlot
    split
    · assumption
    · exact ih

/-- The slot that an operation is given acts. -/
@[simp] theorem State.focus_key (s : State) (k : SlotId) : (s.focus k).cur.key = k := by
  unfold State.focus
  split
  · assumption
  · exact findSlot_key _ _ _ rfl

/-- Another slot acting changes nothing else. -/
theorem State.focus_rest (s : State) (k : SlotId) : s.focus k = { s with cur := (s.focus k).cur, others := (s.focus k).others } := by
  unfold State.focus
  split <;> rfl

theorem State.focus_self (s : State) : s.focus s.cur.key = s := by unfold State.focus; rw [if_pos rfl]

theorem State.focus_of_key {s : State} {k : SlotId} (h : s.cur.key = k) : s.focus k = s := by unfold State.focus; rw [if_pos h]

@[simp] theorem State.focus_mem (s : State) (k : SlotId) : (s.focus k).mem = s.mem := by rw [State.focus_rest]
@[simp] theorem State.focus_bad (s : State) (k : SlotId) : (s.focus k).bad = s.bad := by rw [State.focus_rest]
@[simp] theorem State.focus_cores (s : State) (k : SlotId) : (s.focus k).cores = s.cores := by rw [State.focus_rest]
@[simp] theorem State.focus_tokens (s : State) (k : SlotId) : (s.focus k).tokens = s.tokens := by rw [State.focus_rest]
@[simp] theorem State.focus_jobs (s : State) (k : SlotId) : (s.focus k).jobs = s.jobs := by rw [State.focus_rest]
@[simp] theorem State.focus_launches (s : State) (k : SlotId) : (s.focus k).launches = s.launches := by rw [State.focus_rest]
@[simp] theorem State.focus_images (s : State) (k : SlotId) : (s.focus k).images = s.images := by rw [State.focus_rest]
@[simp] theorem State.focus_links (s : State) (k : SlotId) : (s.focus k).links = s.links := by rw [State.focus_rest]
@[simp] theorem State.focus_held (s : State) (k : SlotId) : (s.focus k).held = s.held := by rw [State.focus_rest]
@[simp] theorem State.focus_colls (s : State) (k : SlotId) : (s.focus k).colls = s.colls := by rw [State.focus_rest]
@[simp] theorem State.focus_host (s : State) (k : SlotId) : (s.focus k).host = s.host := by rw [State.focus_rest]
@[simp] theorem State.focus_cycle (s : State) (k : SlotId) : (s.focus k).cycle = s.cycle := by rw [State.focus_rest]
@[simp] theorem State.focus_agenda (s : State) (k : SlotId) : (s.focus k).agenda = s.agenda := by rw [State.focus_rest]
@[simp] theorem State.focus_ev (s : State) (k : SlotId) : (s.focus k).ev = s.ev := by rw [State.focus_rest]
@[simp] theorem State.focus_freeCtr (s : State) (k : SlotId) : (s.focus k).freeCtr = s.freeCtr := by rw [State.focus_rest]
@[simp] theorem State.focus_byteAt (s : State) (k : SlotId) (a : Nat) : (s.focus k).byteAt a = s.byteAt a := by
  unfold State.byteAt; rw [State.focus_mem]

/-- The slot with a key is the one that acts for it. -/
theorem State.focus_cur (s : State) (k : SlotId) : (s.focus k).cur = s.slotAt k := by
  unfold State.focus State.slotAt
  split <;> rfl

theorem State.slotAt_cur (s : State) : s.slotAt s.cur.key = s.cur := by unfold State.slotAt; rw [if_pos rfl]

/-- A slot put in the place of another: its key and the keys that are found. -/
theorem findSlot_swap_other (ts : List Slot) (d : Slot) (k j : SlotId) (t : Slot) (hj : j ≠ k) (ht : t.key ≠ j) :
    findSlot (swapSlot ts k t) d j = findSlot ts d j := by
  induction ts with
  | nil => unfold swapSlot findSlot; rw [if_neg ht]; unfold findSlot; rfl
  | cons x r ih =>
    unfold swapSlot
    split
    · rename_i hx
      unfold findSlot; rw [if_neg ht, if_neg (fun h => hj (h.symm.trans hx))]
    · unfold findSlot
      split
      · rfl
      · exact ih

theorem findSlot_swap_put (ts : List Slot) (d : Slot) (k : SlotId) (t : Slot) (h : ∀ x ∈ ts, x.key ≠ t.key) :
    findSlot (swapSlot ts k t) d t.key = t := by
  induction ts with
  | nil => unfold swapSlot findSlot; rw [if_pos rfl]
  | cons x r ih =>
    unfold swapSlot
    split
    · unfold findSlot; rw [if_pos rfl]
    · unfold findSlot; rw [if_neg (h x List.mem_cons_self)]; exact ih fun y hy => h y (List.mem_cons_of_mem _ hy)

/-- Where no slot stands twice, another slot acting leaves every slot as it was. -/
theorem State.focus_slotAt (s : State) (k j : SlotId) (h : ∀ x ∈ s.others, x.key ≠ s.cur.key) : (s.focus k).slotAt j = s.slotAt j := by
  unfold State.focus
  split
  · rfl
  · rename_i hk
    unfold State.slotAt
    have hkey : (findSlot s.others (Slot.reset k) k).key = k := findSlot_key _ _ _ rfl
    simp only [hkey]
    by_cases hj : k = j
    · subst hj; rw [if_pos rfl, if_neg hk]
    · rw [if_neg hj]
      by_cases hc : s.cur.key = j
      · subst hc; rw [if_pos rfl]; exact findSlot_swap_put _ _ _ _ h
      · rw [if_neg hc]; exact findSlot_swap_other _ _ _ _ _ (fun e => hj e.symm) hc

/-! ### Cores and L1s -/

theorem findCore_put_same (cs : List Core) (c : Core) : findCore (putCore cs c) c.g = c := by
  induction cs with
  | nil => unfold putCore findCore; rw [if_pos rfl]
  | cons x r ih =>
    unfold putCore
    split
    · unfold findCore; rw [if_pos rfl]
    · unfold findCore; rw [if_neg ‹_›]; exact ih

theorem findCore_put_other (cs : List Core) (c : Core) (g : CoreId) (h : g ≠ c.g) : findCore (putCore cs c) g = findCore cs g := by
  induction cs with
  | nil => unfold putCore findCore; rw [if_neg fun e => h e.symm]; rfl
  | cons x r ih =>
    unfold putCore
    split
    · rename_i hx
      unfold findCore; rw [if_neg (fun e => h e.symm), if_neg (fun e => h (e.symm.trans hx))]
    · unfold findCore; rw [ih]

theorem findCore_g (cs : List Core) (g : CoreId) : (findCore cs g).g = g := by
  induction cs with
  | nil => rfl
  | cons x r ih =>
    unfold findCore
    split
    · assumption
    · exact ih

@[simp] theorem State.core_g (s : State) (g : CoreId) : (s.core g).g = g := findCore_g _ _

/-- A change to a core that keeps its number is what the core then is, and leaves every other core. -/
theorem State.updCore_core (s : State) (g q : CoreId) (f : Core → Core) (h : (f (s.core g)).g = g) :
    (s.updCore g f).core q = if q = g then f (s.core g) else s.core q := by
  unfold State.updCore State.core at *
  by_cases hq : q = g
  · subst hq
    rw [if_pos rfl]
    have := findCore_put_same s.cores (f (findCore s.cores q))
    rwa [h] at this
  · rw [if_neg hq]
    exact findCore_put_other _ _ _ (by rw [h]; exact hq)

/-- Keeping lines of L1s changes the cores alone. -/
theorem State.l1Keep_rest (gs : List CoreId) (keep : L1Line → Bool) : ∀ s : State,
    s.l1Keep gs keep = { s with cores := (s.l1Keep gs keep).cores } := by
  induction gs with
  | nil => intro s; rfl
  | cons g r ih =>
    intro s
    unfold State.l1Keep at *
    rw [List.foldl_cons]
    split
    · exact ih s
    · rw [ih]; rfl

/-- Keeping lines of L1s leaves every core's other parts, and no line that was not there. -/
theorem State.l1Keep_core (gs : List CoreId) (keep : L1Line → Bool) : ∀ (s : State) (q : CoreId),
    { (s.l1Keep gs keep).core q with l1 := (s.core q).l1 } = s.core q ∧ ∀ l ∈ ((s.l1Keep gs keep).core q).l1, l ∈ (s.core q).l1 := by
  induction gs with
  | nil => intro s q; exact ⟨rfl, fun _ h => h⟩
  | cons g r ih =>
    intro s q
    unfold State.l1Keep at *
    rw [List.foldl_cons]
    split
    · exact ih s q
    · have := ih (s.updCore g fun c => { c with l1 := c.l1.filter keep }) q
      have hc := s.updCore_core g q (fun c => { c with l1 := c.l1.filter keep }) (s.core_g g)
      rw [hc] at this
      by_cases hq : q = g
      · subst hq
        rw [if_pos rfl] at this
        refine ⟨?_, fun l hl => (List.mem_filter.1 (this.2 l hl)).1⟩
        exact congrArg (fun x : Core => { x with l1 := (s.core q).l1 }) this.1
      · rw [if_neg hq] at this; exact this

theorem State.l1Clear_rest (s : State) (g : CoreId) : s.l1Clear g = { s with cores := (s.l1Clear g).cores } := State.l1Keep_rest _ _ s
theorem State.l1Drop_rest (s : State) (g : CoreId) (job : Nat) (lines : List Nat) :
    s.l1Drop g job lines = { s with cores := (s.l1Drop g job lines).cores } := State.l1Keep_rest _ _ s
theorem State.l1DropRegion_rest (s : State) (g : CoreId) (job base size : Nat) :
    s.l1DropRegion g job base size = { s with cores := (s.l1DropRegion g job base size).cores } := State.l1Keep_rest _ _ s
theorem State.l1Fill_rest (s : State) (g : CoreId) (ln : L1Line) :
    s.l1Fill g ln = { s with cores := (s.l1Fill g ln).cores, freeCtr := s.freeCtr + 1 } := rfl

/-! ### Taking an exception -/

/-- What of a thread an exception or a return from one can change: the exception CSRs, the streams' standing, what the scalar stream
waited for, and the MMAs in flight that stop. -/
def Slot.trapped (t u : Slot) : Slot :=
  { t with fcause := u.fcause, fstream := u.fstream, fpc := u.fpc, finsn := u.finsn, faddr := u.faddr, ih := u.ih, handled := u.handled
           divert := u.divert, waiting := u.waiting, scalar := u.scalar, vector := u.vector, matrix := u.matrix, copy := u.copy
           heldOn := u.heldOn, locked := u.locked, fenceAt := u.fenceAt, mfly := u.mfly, corelo := u.corelo, asyncPend := u.asyncPend }

theorem Slot.trapped_self (t : Slot) : t = t.trapped t := rfl
theorem Slot.trapped_trans {t u v : Slot} (h : u = t.trapped u) (h' : v = u.trapped v) : v = t.trapped v := by
  rw [h', h]; rfl
theorem Slot.setStr_trapped (t : Slot) (e : Stream) (x : StreamState) : t.setStr e x = t.trapped (t.setStr e x) := by cases e <;> rfl
theorem Slot.haltAll_trapped (t : Slot) : t.haltAll = t.trapped t.haltAll := by
  unfold Slot.haltAll
  have : ∀ (es : List Stream) (t : Slot), es.foldl (fun t e => let x := t.str e; if x.ended then t else t.setStr e { x with halted := true }) t
      = t.trapped (es.foldl (fun t e => let x := t.str e; if x.ended then t else t.setStr e { x with halted := true }) t) := by
    intro es
    induction es with
    | nil => intro t; rfl
    | cons e r ih =>
      intro t
      rw [List.foldl_cons]
      simp only []
      split
      · exact ih t
      · exact Slot.trapped_trans (Slot.setStr_trapped _ _ _) (ih _)
  exact this _ t
theorem Slot.stopMmas_trapped (t : Slot) (c : Nat) : t.stopMmas c = t.trapped (t.stopMmas c) := rfl
theorem Slot.divertTo_trapped (t : Slot) (c : BitVec 8) (d : BitVec 16) (e : BitVec 2) (p : Word) (i : Word32) (a : Word) (h : Option Stream) :
    t.divertTo c d e p i a h = t.trapped (t.divertTo c d e p i a h) := rfl

/-- A state that differs in what an exception changes of the acting thread, the records for Corelo, and what the host is sent. -/
def State.trapped (s u : State) : Prop := u.cur = s.cur.trapped u.cur ∧ u = { s with cur := u.cur, corelo := u.corelo, host := u.host }

theorem State.trapped_refl (s : State) : s.trapped s := ⟨rfl, rfl⟩
theorem State.trapped_trans {s u v : State} (h : s.trapped u) (h' : u.trapped v) : s.trapped v := by
  refine ⟨Slot.trapped_trans h.1 h'.1, ?_⟩
  rw [h'.2, h.2]
theorem State.trapped_upd (s : State) (t : Slot) (h : t = s.cur.trapped t) : s.trapped { s with cur := t } := ⟨h, rfl⟩
theorem State.trapped_updStr (s : State) (e : Stream) (f : StreamState → StreamState) : s.trapped (s.updStr e f) :=
  State.trapped_upd s _ (Slot.setStr_trapped _ _ _)
theorem State.trapped_toCorelo (s : State) (j : Nat) (r : Record) (host : Bool) : s.trapped (s.toCorelo j r host) := by
  unfold State.toCorelo
  cases host <;> exact ⟨rfl, rfl⟩
theorem State.trapped_haltAll (s : State) : s.trapped s.haltAll :=
  State.trapped_upd s _ (Slot.trapped_trans (Slot.haltAll_trapped _) (Slot.stopMmas_trapped _ _))
theorem State.trapped_stopOthers (s : State) : s.trapped s.stopOthers := by
  unfold State.stopOthers
  split
  · exact State.trapped_haltAll s
  · exact State.trapped_refl s
theorem State.trapped_coreloFault (s : State) (e : Stream) (p : PendFault) (m h : Bool) : s.trapped (s.coreloFault e p m h) := by
  unfold State.coreloFault
  exact State.trapped_trans (State.trapped_trans (State.trapped_haltAll s) (State.trapped_upd _ _ rfl)) (State.trapped_toCorelo _ _ _ _)
theorem State.trapped_audit (s : State) (k : Nat) (a : AgentId) (d : List Byte) : s.trapped (s.audit k a d) := by
  unfold State.audit
  simp only []
  split
  · exact State.trapped_refl s
  · exact ⟨rfl, rfl⟩
theorem State.trapped_faultToCorelo (s : State) (e : Stream) (p : PendFault) : s.trapped (s.faultToCorelo e p) := by
  unfold State.faultToCorelo
  split
  · exact State.trapped_refl s
  · exact State.trapped_trans (State.trapped_coreloFault _ _ _ _ _) (State.trapped_audit _ _ _ _)
  · exact State.trapped_coreloFault _ _ _ _ _
  · exact State.trapped_coreloFault _ _ _ _ _
theorem State.trapped_coreloPending (s : State) : s.trapped s.coreloPending := by
  unfold State.coreloPending
  split
  · exact State.trapped_refl s
  · simp only []
    split
    · exact State.trapped_trans (State.trapped_trans (State.trapped_haltAll s) (State.trapped_updStr _ _ _)) (State.trapped_faultToCorelo _ _ _)
    · exact State.trapped_haltAll s
theorem State.trapped_enterHandler (s : State) : s.trapped s.enterHandler := by
  unfold State.enterHandler
  simp only []
  split
  · split
    · exact State.trapped_upd s _ (Slot.trapped_trans (Slot.setStr_trapped _ _ _) (Slot.divertTo_trapped _ _ _ _ _ _ _ _))
    · exact State.trapped_refl s
  · exact State.trapped_refl s
theorem State.trapped_enterAsync (s : State) : s.trapped s.enterAsync := by
  unfold State.enterAsync
  simp only []
  split
  · exact State.trapped_refl s
  · split
    · exact State.trapped_upd s _ rfl
    · exact State.trapped_refl s
theorem State.trapped_stopStream (s : State) (e : Stream) : s.trapped (s.stopStream e) := by
  unfold State.stopStream
  refine State.trapped_trans (State.trapped_updStr s e fun x => { x with stopped := true }) ?_
  cases e
  · exact State.trapped_upd _ _ rfl
  · exact State.trapped_refl _
  · exact State.trapped_upd _ _ rfl
  · exact State.trapped_refl _

/-- Everything that the taking of pending faults can change (R29, R236, R238). -/
theorem State.trapped_takeFault (s : State) : s.trapped s.takeFault := by
  unfold State.takeFault
  split
  · exact State.trapped_coreloPending s
  · split
    · exact State.trapped_refl s
    · exact State.trapped_trans (State.trapped_stopOthers s) (State.trapped_enterHandler _)

/-- Everything that taking an exception can change (R235–R238). -/
theorem State.trapped_raiseAt (s : State) (e : Stream) (p : PendFault) : s.trapped (s.raiseAt e p) := by
  unfold State.raiseAt
  simp only []
  have h := State.trapped_trans (State.trapped_stopStream s e) (State.trapped_updStr (s.stopStream e) e fun x => { x with pending := some p })
  split
  · exact State.trapped_trans h (State.trapped_enterHandler _)
  · exact h

theorem State.trapped_raise (s : State) (e : Stream) (f : SFault) : s.trapped (s.raise e f) := State.trapped_raiseAt _ _ _

/-- An exception changes no byte of memory, no token, no core, no launch, no other slot. -/
theorem State.raise_mem (s : State) (e : Stream) (f : SFault) : (s.raise e f).mem = s.mem := by rw [(s.trapped_raise e f).2]
theorem State.raise_tokens (s : State) (e : Stream) (f : SFault) : (s.raise e f).tokens = s.tokens := by rw [(s.trapped_raise e f).2]
theorem State.raise_cores (s : State) (e : Stream) (f : SFault) : (s.raise e f).cores = s.cores := by rw [(s.trapped_raise e f).2]
theorem State.raise_launches (s : State) (e : Stream) (f : SFault) : (s.raise e f).launches = s.launches := by rw [(s.trapped_raise e f).2]
theorem State.raise_others (s : State) (e : Stream) (f : SFault) : (s.raise e f).others = s.others := by rw [(s.trapped_raise e f).2]
theorem State.raise_s (s : State) (e : Stream) (f : SFault) : (s.raise e f).cur.s = s.cur.s := by rw [(s.trapped_raise e f).1]; rfl
theorem State.raise_key (s : State) (e : Stream) (f : SFault) : (s.raise e f).cur.key = s.cur.key := by rw [(s.trapped_raise e f).1]; rfl

/-- Everything that the return from an exception can change of the thread (R138, R237). -/
theorem Slot.returnFrom_trapped (t : Slot) : t.returnFrom = t.trapped t.returnFrom := by
  have hall : ∀ (es : List Stream) (t : Slot), es.foldl (fun t e => t.setStr e (t.str e).resume) t
      = t.trapped (es.foldl (fun t e => t.setStr e (t.str e).resume) t) := by
    intro es
    induction es with
    | nil => intro t; rfl
    | cons e r ih => intro t; rw [List.foldl_cons]; exact Slot.trapped_trans (Slot.setStr_trapped _ _ _) (ih _)
  unfold Slot.returnFrom
  simp only []
  split
  · rfl
  · refine Slot.trapped_trans (Slot.trapped_trans ?_ (hall _ _)) (Slot.setStr_trapped _ _ _)
    split <;> rfl

/-! ### Posting records -/

@[simp] theorem State.finishOp_mem (s : State) (o : Option OpId) : (s.finishOp o).mem = s.mem := by cases o <;> rfl
@[simp] theorem State.finishOp_tokens (s : State) (o : Option OpId) : (s.finishOp o).tokens = s.tokens := by cases o <;> rfl
@[simp] theorem State.finishOp_launches (s : State) (o : Option OpId) : (s.finishOp o).launches = s.launches := by cases o <;> rfl

/-- The memory that a record leaves as it enters the ring: its bytes at the tail, and no other byte changed (R33, R134). -/
theorem State.ringEnter_mem (s : State) (w : WaitRecord) :
    (s.ringEnter w).mem = (s.store (cellsAt (s.cur.ringBase + s.cur.cqTail * 32) w.rcd.bytes)).mem := by
  show ((s.ringPut w.rcd).finishOp w.op).mem = _
  rw [State.finishOp_mem]; rfl

theorem State.ringEnter_wf (s : State) (w : WaitRecord) (h : Memory.wf s.mem = true) : Memory.wf (s.ringEnter w).mem = true := by
  rw [State.ringEnter_mem]; exact State.store_wf _ _ h

/-- A posted record keeps the memory canonical. -/
theorem State.post_wf (s : State) (w : WaitRecord) (h : Memory.wf s.mem = true) : Memory.wf (s.post w).mem = true := by
  unfold State.post
  split
  · exact State.ringEnter_wf _ _ h
  · exact h

theorem State.postWaiting_wf (s : State) (h : Memory.wf s.mem = true) : Memory.wf s.postWaiting.mem = true := by
  unfold State.postWaiting
  split
  · exact h
  · split
    · exact State.ringEnter_wf _ _ h
    · exact h

end Sys2Proof.Machine
end

