-- ==== Sys2Proof/Laws/Tables.lean ====
section
/-! SUPPORT. The tables of the module: what is found after an entry of launches, links, circuits, operations or owner tokens is changed. -/

namespace Sys2Proof.Machine

/-- Finding by number in a table whose entry of one number has been changed. -/
theorem find_map_num {α : Type} (num : α → Nat) (ls : List α) (n m : Nat) (f : α → α) (hf : ∀ x, num x = n → num (f x) = n) :
    (ls.map fun x => if num x = n then f x else x).find? (fun x => decide (num x = m))
      = (ls.find? fun x => decide (num x = m)).map fun x => if m = n then f x else x := by
  induction ls with
  | nil => rfl
  | cons x r ih =>
    rw [List.map_cons, List.find?_cons, List.find?_cons]
    by_cases hx : num x = n
    · rw [if_pos hx]
      by_cases hm : m = n
      · subst hm; simp [hf x hx, hx]
      · have h1 : ¬ num (f x) = m := by rw [hf x hx]; exact fun e => hm e.symm
        have h2 : ¬ num x = m := by rw [hx]; exact fun e => hm e.symm
        simp only [h1, h2, decide_false]; exact ih
    · rw [if_neg hx]
      by_cases hm : num x = m
      · have : ¬ m = n := fun e => hx (hm.trans e)
        simp [hm, this]
      · simp only [hm, decide_false]; exact ih

theorem findLaunch_num {ls : List Launch} {n : Nat} {l : Launch} (h : findLaunch ls n = some l) : l.num = n := by
  simpa using List.find?_some h
theorem findLink_num {ls : List Link} {n : Nat} {l : Link} (h : findLink ls n = some l) : l.num = n := by simpa using List.find?_some h
theorem findCircuit_ch {cs : List Circuit} {n : Nat} {c : Circuit} (h : findCircuit cs n = some c) : c.ch = n := by
  simpa using List.find?_some h

/-- The launches after one is replaced. -/
theorem findLaunch_put (ls : List Launch) (l : Launch) (n : Nat) :
    findLaunch (putLaunch ls l) n = (findLaunch ls n).map fun x => if n = l.num then l else x :=
  find_map_num (fun x : Launch => x.num) ls l.num n (fun _ => l) fun _ _ => rfl

theorem findLaunch_put_same {ls : List Launch} {l l' : Launch} (h : findLaunch ls l.num = some l') : findLaunch (putLaunch ls l) l.num = some l := by
  rw [findLaunch_put, h]; simp

theorem findLaunch_put_other {ls : List Launch} {l : Launch} {n : Nat} (h : n ≠ l.num) : findLaunch (putLaunch ls l) n = findLaunch ls n := by
  rw [findLaunch_put]; cases findLaunch ls n <;> simp [h]

/-- The launches after one is changed. -/
theorem State.updLaunch_find (s : State) (n m : Nat) (f : Launch → Launch) (hf : ∀ l, (f l).num = l.num) :
    findLaunch (s.updLaunch n f).launches m = (findLaunch s.launches m).map fun x => if m = n then f x else x :=
  find_map_num (fun x : Launch => x.num) s.launches n m f fun x h => (hf x).trans h

theorem State.updLaunch_rest (s : State) (n : Nat) (f : Launch → Launch) : s.updLaunch n f = { s with launches := (s.updLaunch n f).launches } := rfl

/-- The links after one is changed. -/
theorem State.updLink_find (s : State) (n m : Nat) (f : Link → Link) (hf : ∀ l, (f l).num = l.num) :
    findLink (s.updLink n f).links m = (findLink s.links m).map fun x => if m = n then f x else x :=
  find_map_num (fun x : Link => x.num) s.links n m f fun x h => (hf x).trans h

theorem State.updLink_rest (s : State) (n : Nat) (f : Link → Link) : s.updLink n f = { s with links := (s.updLink n f).links } := rfl

/-- The circuits of a launch after one is changed. -/
theorem findCircuit_map (cs : List Circuit) (ch m : Nat) (f : Circuit → Circuit) (hf : ∀ c, (f c).ch = c.ch) :
    findCircuit (cs.map fun c => if c.ch = ch then f c else c) m = (findCircuit cs m).map fun x => if m = ch then f x else x :=
  find_map_num (fun x : Circuit => x.ch) cs ch m f fun x h => (hf x).trans h

/-- The operations of a slot after one is replaced. -/
theorem State.putOp_rest (s : State) (o : CopyOp) : s.putOp o = { s with cur := { s.cur with copies := (s.putOp o).cur.copies } } := rfl

/-! ### Owner tokens -/

/-- An entry put in place of the one found is what is found there. -/
theorem findEntry_put_same {es : List Entry} {job base log2 : Nat} {e e' : Entry} (h : findEntry es job base log2 = some e)
    (hj : e'.job = job) (hb : e'.base = base) (hl : e'.log2 = log2) : findEntry (putEntry es e') job base log2 = some e' := by
  unfold findEntry putEntry at *
  induction es with
  | nil => cases h
  | cons x r ih =>
    rw [List.map_cons, List.find?_cons]
    rw [List.find?_cons] at h
    by_cases hx : x.job = job ∧ x.base = base ∧ x.log2 = log2
    · have hx' : x.job = e'.job ∧ x.base = e'.base ∧ x.log2 = e'.log2 := by rw [hj, hb, hl]; exact hx
      rw [if_pos hx']; simp [hj, hb, hl]
    · have hx' : ¬ (x.job = e'.job ∧ x.base = e'.base ∧ x.log2 = e'.log2) := by rw [hj, hb, hl]; exact hx
      have hd : (decide (x.job = job) && decide (x.base = base) && decide (x.log2 = log2)) = false := by
        simp only [Bool.and_eq_false_iff, decide_eq_false_iff_not]
        by_cases h1 : x.job = job
        · by_cases h2 : x.base = base
          · exact .inr fun h3 => hx ⟨h1, h2, h3⟩
          · exact .inl (.inr h2)
        · exact .inl (.inl h1)
      rw [if_neg hx', hd]
      rw [hd] at h
      exact ih h

/-- An entry put leaves those of other places. -/
theorem findEntry_put_other {es : List Entry} {job base log2 : Nat} {e : Entry} (h : ¬ (e.job = job ∧ e.base = base ∧ e.log2 = log2)) :
    findEntry (putEntry es e) job base log2 = findEntry es job base log2 := by
  unfold findEntry putEntry
  induction es with
  | nil => rfl
  | cons x r ih =>
    rw [List.map_cons, List.find?_cons, List.find?_cons]
    by_cases hx : x.job = e.job ∧ x.base = e.base ∧ x.log2 = e.log2
    · rw [if_pos hx]
      have h1 : (decide (e.job = job) && decide (e.base = base) && decide (e.log2 = log2)) = false := by
        simp only [Bool.and_eq_false_iff, decide_eq_false_iff_not]
        by_cases h1 : e.job = job
        · by_cases h2 : e.base = base
          · exact .inr fun h3 => h ⟨h1, h2, h3⟩
          · exact .inl (.inr h2)
        · exact .inl (.inl h1)
      rw [hx.1, hx.2.1, hx.2.2, h1]; exact ih
    · rw [if_neg hx, ih]

/-! ### Performing writes -/

@[simp] theorem State.countPut_mem (s : State) (j va n : Nat) : (s.countPut j va n).mem = s.mem := by
  unfold State.countPut
  split
  · rfl
  · split
    · split <;> rfl
    · rfl

@[simp] theorem State.dirtyCells_mem (s : State) (c : List (Nat × Byte)) : (s.dirtyCells c).mem = s.mem := by
  unfold State.dirtyCells
  split
  · rfl
  · split <;> rfl

/-- The memory that performed bytes leave: that of the store, unless their region is LOST (R104). -/
theorem State.performAt_mem (s : State) (job : Nat) (g : CoreId) (va : Word) (cells : List (Nat × Byte)) (n : Nat) (lines : List Nat) :
    (s.performAt job g va cells n lines).mem = if (findRegion s.tokens job va.toNat).elim false (fun e => decide (e.st = .lost)) = true then s.mem
      else (s.store cells).mem := by
  unfold State.performAt
  split
  · rfl
  · rw [State.l1Drop_rest]
    show (((((s.store cells).countPut job va.toNat n).wakeAll cells).dirtyCells cells)).mem = _
    rw [State.dirtyCells_mem]
    show ((s.store cells).countPut job va.toNat n).mem = _
    rw [State.countPut_mem]

theorem State.performAt_wf (s : State) (job : Nat) (g : CoreId) (va : Word) (cells : List (Nat × Byte)) (n : Nat) (lines : List Nat)
    (h : Memory.wf s.mem = true) : Memory.wf (s.performAt job g va cells n lines).mem = true := by
  rw [State.performAt_mem]
  split
  · exact h
  · exact State.store_wf _ _ h

theorem State.perform_mem (s : State) (job : Nat) (g : CoreId) (va : Word) (cells : List (Nat × Byte)) (n : Nat) :
    (s.perform job g va cells n).mem = if (findRegion s.tokens job va.toNat).elim false (fun e => decide (e.st = .lost)) = true then s.mem
      else (s.store cells).mem := State.performAt_mem _ _ _ _ _ _ _

theorem State.perform_wf (s : State) (job : Nat) (g : CoreId) (va : Word) (cells : List (Nat × Byte)) (n : Nat) (h : Memory.wf s.mem = true) :
    Memory.wf (s.perform job g va cells n).mem = true := State.performAt_wf _ _ _ _ _ _ _ h

theorem State.performNth_wf (s : State) (n : Nat) (h : Memory.wf s.mem = true) : Memory.wf (s.performNth n).mem = true := by
  unfold State.performNth
  split
  · exact h
  · split
    · exact State.performAt_wf _ _ _ _ _ _ _ h
    · exact h

/-- A performed write leaves every byte that it does not name. -/
theorem State.perform_byteAt_other (s : State) (job : Nat) (g : CoreId) (va : Word) (cells : List (Nat × Byte)) (n a : Nat)
    (h : ∀ c ∈ cells, c.1 ≠ a) : (s.perform job g va cells n).byteAt a = s.byteAt a := by
  unfold State.byteAt
  rw [State.perform_mem]
  split
  · rfl
  · exact State.store_byteAt_other s cells a h

/-- A completed store joins the buffer; nothing else but the count of free values changes. -/
theorem State.pushStore_rest (s : State) (va : Word) (cells : List (Nat × Byte)) (k : PageKind) (r : Bool) (n : Nat) (ch : Option Nat) :
    s.pushStore va cells k r n ch
      = { s with freeCtr := s.freeCtr + 1, cur := { s.cur with stores := (s.pushStore va cells k r n ch).cur.stores } } := rfl

/-- An acquire changes the L1s alone. -/
theorem State.acquire_rest (s : State) (sc : Scope) : s.acquire sc = { s with cores := (s.acquire sc).cores } := by
  unfold State.acquire
  split
  · rfl
  · rfl
  · exact State.l1Clear_rest _ _

/-- What a scalar read can change: the L1s, corrected words and their count, and the mark of a STRONG access. -/
def State.readRest (s v : State) : Prop :=
  v = { s with cores := v.cores, soft := v.soft, errors := v.errors, freeCtr := v.freeCtr, cur := { s.cur with strongAt := v.cur.strongAt } }

theorem State.readRest_trans {s u v : State} (h : s.readRest u) (h' : u.readRest v) : s.readRest v := by
  unfold State.readRest at *
  rw [h', h]
theorem State.readRest_correctWords (s : State) (hit : Nat → Bool) : s.readRest (s.correctWords hit) := by
  unfold State.correctWords
  simp only []
  split <;> rfl
theorem State.readRest_markStrong (s : State) (a : Access) : s.readRest (s.markStrong a) := by
  unfold State.markStrong
  split <;> rfl
theorem State.readRest_readLine (s : State) (a : Access) (ln : L1Line) : s.readRest (s.readLine a ln) := by
  unfold State.readLine
  split <;> rfl
theorem State.readRest_fillFor (s : State) (a : Access) (va : Word) : s.readRest (s.fillFor a va) := by
  unfold State.fillFor
  simp only []
  split <;> rfl

/-- A scalar read leaves everything else. -/
theorem State.loadValue_rest {s v : State} {a : Access} {va : Word} {n : Nat} {plain : Bool} {bs : List Byte}
    (h : s.loadValue a va n plain = .ok (bs, v)) : s.readRest v := by
  unfold State.loadValue at h
  split at h
  · injection h with h; injection h with _ h; subst h; exact State.readRest_readLine s a _
  · split at h
    · cases h
    · injection h with h; injection h with _ h; subst h
      have hm : s.readRest ((s.correct a.key n).markStrong a) :=
        State.readRest_trans (State.readRest_correctWords s _) (State.readRest_markStrong _ a)
      split
      · exact State.readRest_trans hm (State.readRest_fillFor _ a va)
      · exact hm

end Sys2Proof.Machine
end

