-- ==== Sys2Proof/Tests/Slice0.lean ====
section
/-! SUPPORT. The tests: a state for the hypotheses of every obligation (test_witness_…), instructions that a check refuses, small steps by the
manual's worked examples, and a word of every encoded instruction with what it decodes to. -/

namespace Sys2Proof.Tests
open Sys2Proof Sys2Proof.Machine Sys2Proof.Claims

set_option Elab.async false

/-! ### A small machine

One thread in slot 0 of core 0, with two halves of 64 KiB, one launch and one job. -/

/-- An owner token of job 1 on die 0 with nothing shared and no window. -/
def region (base log2 : Nat) (owner home : AgentId) (st : TokState) : Entry :=
  { job := 1, base := base, log2 := log2, die := 0, owner := owner, homeAgent := home, st := st, pair := false, paired := false, shares := []
    writers := 0, counter := 0, pubs := 0, grant := 0, partition := 0, forwards := [], closing := false }

/-- The thread: bound, its handler at 0x1000. -/
def testSlot : Slot :=
  { Slot.reset SlotId.first with
    status := .bound
    tvec := 0x1000
    bind := { BindRec.reset with job := 1, launch := 1, vcap := 256, mregs := 8, spsize := 0x10000, spbaseA := 0, spbaseB := 0xC00000 } }

/-- Its launch, with a record of zeros: every fault class goes to the handler, no flag is set. -/
def testLaunch : Launch :=
  { num := 1, job := 1, recd := [], supervisor := false, submitter := .host, recordAddr := 0, copyAddr := 0, unbound := [], total := 1, inPool := false
    stage := 0, barriers := [], prog := [], progNext := 0, progStep := 0, step0 := some 0, hold := .none, progOver := false, circuits := []
    reroutes := [], retired := 0, killed := 0, killCause := 0, cancelled := false, ran := none, live := 1, heldRecs := [] }

/-- Its job, on die 0. -/
def testJob : Job :=
  { id := 1, partition := 0, dies := [0], root := 0, moduleId := 0, extents := [], coords := [], ring := 0, tables := 0, maps := [] }

/-- Core 0, whose TLB holds a page of code at 0 and a page of data at 0x10000, which is RELEASE. -/
def testCore : Core :=
  { Core.reset 0 with tlb := [
      { job := 1, base := 0, log2 := 16, pte := 0x00037, die := 0 },
      { job := 1, base := 1, log2 := 16, pte := 0x1002F, die := 0 }] }

/-- The thread's agent identifier. -/
def self : AgentId := 0x10000000

/-- The state in which a variant of the thread acts: it owns its halves and the page at 0x10000. -/
def lab (f : Slot → Slot) : State :=
  { State.reset with
    agenda := []
    cur := f testSlot
    cores := [testCore]
    jobs := [testJob]
    launches := [testLaunch]
    tokens := [region 0x000F000000000000 16 self self .excl, region 0x000F000000C00000 16 self self .excl, region 0x10000 16 self 0x20000000 .excl] }

/-- An address of the thread's first half, past its ring, and one of its page, and what an access to each passes its checks as. -/
def here : Word := 0x000F000000001000
def there : Word := 0x10040
def hereAcc : Access := { key := 0x000F000000001000, kind := .release, put := false, home := 0, held := none, ch := none, va := here }
def thereAcc : Access := { key := 0x10040, kind := .release, put := false, home := 0, held := none, ch := none, va := there }

theorem ok_of {α : Type} {r : Chk α} {a : α} (h : r.toOption = some a) : r = .ok a := by
  cases r with
  | ok b => exact congrArg _ (Option.some.inj h)
  | error f => exact nomatch h

/-- The fault of a check, if it has one. -/
def faultOf {α : Type} (r : Chk α) : Option SFault :=
  match r with
  | .ok _ => none
  | .error f => some f

theorem err_of {α : Type} {r : Chk α} {f : SFault} (h : faultOf r = some f) : r = .error f := by
  cases r with
  | ok b => exact nomatch h
  | error g => exact congrArg _ (Option.some.inj h)

/-! ### Registers, the ALU, branches and loops: the hypotheses can be met -/

theorem test_witness_zero_register : (5 : BitVec 5) ≠ 0 ∧ (4 : BitVec 5) ≠ 5 := by decide

/-- An unassigned function at each end of its range, b of CLZ, a shift with imm[6] set, and kinds 3 and 255. -/
theorem test_witness_ill_formed_words :
    (bits 0x04A63817 26 6 = 1 ∧ bits 0x04A63817 0 11 = 0x17) ∧ (bits 0x04A6381B 26 6 = 1 ∧ 0x1A < bits 0x04A6381B 0 11)
      ∧ (bits 0x04A60818 26 6 = 1 ∧ 0x18 ≤ bits 0x04A60818 0 11 ∧ bits 0x04A60818 11 5 ≠ 0)
      ∧ (bits 0x21290243 26 6 = 8 ∧ bits 0x21290243 6 2 ≠ 0) ∧ (bits 0x21290303 26 6 = 8 ∧ 3 ≤ bits 0x21290303 8 8) := by decide

/-- A thread with s1 = 1 at the address 8. -/
def atEight : State := lab fun t => (t.setS 1 1).setStr .scalar { t.scalar with pc := 8 }

theorem test_witness_branches :
    (atEight.getS 1 ≠ atEight.getS 2 ∧ inPc (branchTarget atEight (0xFFFE : BitVec 16)))
      ∧ ¬ inPc (branchTarget atEight (0xFFFD : BitVec 16)) ∧ atEight.cur.cqCount = 0 := by unfold inPc; decide

/-- JALR: the last legal target, the first beyond it, one below zero, and a misaligned one. -/
theorem test_witness_jumps :
    inPc (((lab fun t => t.setS 1 0x000FFFFFFFFFFFF8).getS 1).toNat + (4 : BitVec 16).toInt)
      ∧ ¬ inPc (((lab fun t => t.setS 1 0x000FFFFFFFFFFFFC).getS 1).toNat + (4 : BitVec 16).toInt)
      ∧ ¬ inPc (((lab id).getS 1).toNat + (0xFFFC : BitVec 16).toInt)
      ∧ (((lab fun t => t.setS 1 2).getS 1).toNat + (4 : BitVec 16).toInt) % 4 ≠ 0
      ∧ inPc (branchTarget atEight (0x1FFFFE : BitVec 21)) ∧ ¬ inPc (branchTarget atEight (0x1FFFFD : BitVec 21)) := by unfold inPc; decide

/-- A ring with one record that is not OK and has a poison mask and a fault code, and one that is OK. -/
def ringOf (bs : List Byte) : State :=
  let s := lab fun t => { t with cqCount := 1, cqTail := 1 }
  { s with mem := memWrites [] (cellsAt 0x000F000000000000 bs) }

theorem test_witness_ring_branches :
    (headField (ringOf [1, 0, 2, 0, 0, 0, 0, 0, 0, 0, 0, 0, 0, 0, 0, 0, 1, 0, 0, 0, 0, 0, 0, 0, 0x11]) 16 8 ≠ 0
      ∧ headField (ringOf [1, 0, 2, 0, 0, 0, 0, 0, 0, 0, 0, 0, 0, 0, 0, 0, 1, 0, 0, 0, 0, 0, 0, 0, 0x11]) 24 4 ≠ 0
      ∧ headField (ringOf [1, 0, 2]) 2 2 ≠ 0) ∧ headField (ringOf [1]) 2 2 = 0 ∧ (ringOf [1]).cur.cqCount ≠ 0 := by decide

/-- A loop that may start, one at an active level, one that an active body does not hold, and the boundary counts of a register. -/
def inLoop (lc : BitVec 32) : StreamState :=
  let l : LoopLevel := { active := true, frozen := false, first := 4, last := 8, count := 2, lc := lc }
  { StreamState.reset with pc := 8, loops := #v[l, .off, .off, .off, .off, .off] }

theorem test_witness_loops_start :
    loopLegal ((lab id).cur.str .copy) ⟨5, by decide⟩ 0xFFF ∧ ¬ loopLegal (inLoop 0) ⟨0, by decide⟩ 1 ∧ ¬ loopLegal (inLoop 0) ⟨1, by decide⟩ 1
      ∧ ((lab fun t => t.setS 3 0xFFFFFFFF).getS 3).toNat < 2 ^ 32 ∧ 2 ^ 32 ≤ ((lab fun t => t.setS 3 0x100000000).getS 3).toNat := by
  unfold loopLegal; decide

/-- A word at which no loop ends, one with an iteration left, and one in its last iteration. -/
theorem test_witness_loops_iterate :
    (∀ i, ¬ EndsAt StreamState.reset i) ∧ (EndsAt (inLoop 0) 0 ∧ (inLoop 0).loops[(0 : Fin 6)].lc.toNat + 1 < (inLoop 0).loops[(0 : Fin 6)].count
      ∧ ∀ j, j ≠ 0 → EndsAt (inLoop 0) j → (inLoop 0).loops[j].first < (inLoop 0).loops[(0 : Fin 6)].first)
      ∧ EndsAt (inLoop 1) 0 ∧ (∀ i, EndsAt (inLoop 1) i → (inLoop 1).loops[i].count ≤ (inLoop 1).loops[i].lc.toNat + 1) := by
  unfold EndsAt; decide

/-- Targets at both ends of the body of an active loop and just outside them. -/
theorem test_witness_jumps_leave :
    let l := (inLoop 0).loops[(0 : Fin 6)]
    l.frozen = false ∧ l.active = true ∧ (l.first ≤ (4 : Pc) ∧ (8 : Pc) ≤ l.last) ∧ (0 : Pc) < l.first ∧ l.last < (12 : Pc) := by decide

/-! ### Loads, stores, atomics and fences -/

/-- The thread with an address of its half in s2 and one of its page in s3. -/
def addressed (f : Slot → Slot) : State := lab fun t => f ((t.setS 2 here).setS 3 there)

theorem test_witness_loads :
    (∃ acc, (addressed id).check1 ((addressed id).getS 2 + (0xFFF : BitVec 12).signExtend 64 * BitVec.ofNat 64 8) 8 .load = .ok acc
        ∧ Readable (addressed id) acc 8)
      ∧ ∃ acc, (addressed id).check1 ((addressed id).getS 3 + (1 : BitVec 12).signExtend 64 * BitVec.ofNat 64 1) 1 .load = .ok acc
        ∧ Readable (addressed id) acc 1 ∧ (addressed id).l1Serves acc there = none :=
  ⟨⟨{ hereAcc with key := 0x000F000000000FF8, va := here - 8 }, ok_of (by decide), by unfold Readable; decide⟩,
   ⟨{ thereAcc with key := 0x10041, va := there + 1 }, ok_of (by decide), by unfold Readable; decide⟩⟩

theorem test_witness_load_acquire : ∃ acc, (addressed id).check1 ((addressed id).getS 3) 4 .load = .ok acc ∧ Readable (addressed id) acc 4
    ∧ acc.kind ≠ .unordered ∧ Scope.core ≠ .stream ∧ Scope.core ≠ .thread :=
  ⟨thereAcc, ok_of (by decide), by unfold Readable; decide, by decide, by decide, by decide⟩

/-- A load and a store of an address past the thread's half, and an aligned and a misaligned address for LDA and STL. -/
theorem test_witness_failed_checks :
    (∃ f, (lab id).check1 ((lab id).getS 0 + (0x7FF : BitVec 12).signExtend 64 * BitVec.ofNat 64 8) 8 .store = .error f)
      ∧ (∃ f, (lab id).check1 ((lab id).getS 0 + (0x800 : BitVec 12).signExtend 64 * BitVec.ofNat 64 8) 8 .load = .error f)
      ∧ (∃ f, (lab fun t => t.setS 2 1).check1 ((lab fun t => t.setS 2 1).getS 2) 2 .load = .error f)
      ∧ (∃ f, (lab fun t => t.setS 2 0x20000).check1 ((lab fun t => t.setS 2 0x20000).getS 2) 2 .store = .error f) :=
  ⟨⟨_, err_of (Eq.refl _)⟩, ⟨_, err_of (Eq.refl _)⟩, ⟨_, err_of (Eq.refl _)⟩, ⟨_, err_of (Eq.refl _)⟩⟩

/-- A misaligned address, and the first and last addresses of the two ranges that no part of the map has. -/
theorem test_witness_alignment : (1 : Word).toNat % 2 ≠ 0 ∧ (2 ^ 52 ≤ (0x0010000000000000 : Word).toNat ∧ (0x0010000000000000 : Word).toNat % 8 = 0)
    ∧ (0x000F000400000000 ≤ (0x000F000400000000 : Word).toNat ∧ (0x000F000400000000 : Word).toNat < 2 ^ 52)
    ∧ (0x000F000400000000 ≤ (0x000FFFFFFFFFFFF8 : Word).toNat ∧ (0x000FFFFFFFFFFFF8 : Word).toNat < 2 ^ 52) := by decide

theorem test_witness_stores :
    (∃ acc, (addressed id).check1 ((addressed id).getS 2 + (0 : BitVec 12).signExtend 64 * BitVec.ofNat 64 8) 8 .store = .ok acc ∧ acc.held = none)
      ∧ (∃ acc, (addressed id).check1 ((addressed id).getS 3) 8 .store = .ok acc ∧ acc.held = none ∧ ∀ o ∈ (addressed id).cur.copies, o.remote = false)
      ∧ ∃ acc, (addressed id).check1 ((addressed id).getS 2) 32 .store = .ok acc ∧ acc.held = none :=
  ⟨⟨hereAcc, ok_of (by decide), by decide⟩, ⟨thereAcc, ok_of (by decide), by decide, by decide⟩, ⟨hereAcc, ok_of (by decide), by decide⟩⟩

/-- A store of two bytes that waits behind one of another byte. -/
def pendingTwo : State :=
  let p (a : Nat) (cs : List (Nat × Byte)) : PendStore :=
    { va := BitVec.ofNat 64 a, bytes := cs, lines := [], kind := .release, rel := false, count := 0, due := 9, ch := none }
  let s := lab fun t => { t with stores := [p 0x10040 [(0x10040, 1)], p 0x10050 [(0x10050, 2), (0x10051, 3)]] }
  { s with ev := { s.ev with num := 1 } }

theorem test_witness_pending_store :
    ∃ p, (seen pendingTwo).cur.stores[pendingTwo.ev.num]? = some p ∧ p.mayGo ((seen pendingTwo).cur.stores.take pendingTwo.ev.num) = true
      ∧ (seen pendingTwo).storeLive p = true
      ∧ (∀ e, findRegion (seen pendingTwo).tokens (seen pendingTwo).cur.bind.job p.va.toNat = some e → e.st ≠ .lost)
      ∧ pendingTwo.bad = [] ∧ (p.bytes.map Prod.fst).Nodup :=
  ⟨_, Eq.refl _, by decide, by decide, fun e h => by obtain rfl := Option.some.inj h; decide, by decide, by decide⟩

/-- The state after a store of s3 to the thread's half, with STORE_PERFORMED of it in hand, and the state after that. -/
def stored : State := (execSt 3 2 .double 0 (addressed id)).state?.getD (addressed id)
def storedEv : EvArgs := { stored.ev with slot := SlotId.first, num := 0 }
def performed : State := (execStorePerformed { stored with ev := storedEv }).state?.getD stored

/-- A load of bytes that a pending store of the thread writes waits. -/
theorem test_witness_loads_wait : let s := pendingTwo.upd fun t => t.setS 3 there
    s.check1 (s.getS 3 + (0 : BitVec 12).signExtend 64 * BitVec.ofNat 64 1) 1 .load = .ok thereAcc ∧ s.mayLoad thereAcc 1 = false :=
  ⟨ok_of (by decide), by decide⟩

theorem test_witness_store_then_load : let va := (addressed id).getS 2 + (0 : BitVec 12).signExtend 64 * BitVec.ofNat 64 8
    ((addressed id).check1 va 8 .store = .ok hereAcc ∧ hereAcc.held = none ∧ exec (.st 3 2 .double 0) (addressed id) = .next stored)
      ∧ stored.check1 va 8 .load = .ok hereAcc
      ∧ ((addressed id).cur.stores = [] ∧ (addressed id).bad = [] ∧ NotLost (addressed id) va.toNat ∧ storedEv.slot = (addressed id).cur.key ∧ storedEv.num = 0)
      ∧ exec .storePerformed { stored with ev := storedEv } = .next performed ∧ performed.check1 va 8 .load = .ok hereAcc ∧ Readable performed hereAcc 8 :=
  ⟨⟨ok_of (by decide), by decide, Eq.refl _⟩, ok_of (by decide), ⟨by decide, by decide, fun e h => by obtain rfl := Option.some.inj h; decide, by decide, by decide⟩,
    Eq.refl _, ok_of (by decide), by unfold Readable; decide⟩

theorem test_witness_atomics :
    ∃ acc, (addressed id).check1 ((addressed id).getS 3) 4 .rmw = .ok acc ∧ Readable (addressed id) acc 4
      ∧ NotLost (addressed id) ((addressed id).getS 3).toNat ∧ (addressed id).cur.released .pkg false = true :=
  ⟨thereAcc, ok_of (by decide), by unfold Readable; decide, fun e h => by obtain rfl := Option.some.inj h; decide, by decide⟩

/-- The five forms, at the lowest and the highest position. -/
theorem test_witness_scops : (addressed id).cur.scop = none ∧ (addressed id).cur.released .pkg true = true
    ∧ ∀ k ∈ [AccKind.load, .store, .rmw], (addressed id).check ((addressed id).getS 3) 8 8 k true = .ok thereAcc := by
  refine ⟨by decide, by decide, fun k hk => ok_of ?_⟩
  simp only [List.mem_cons, List.not_mem_nil, or_false] at hk
  rcases hk with rfl | rfl | rfl <;> decide

/-- A SCOP of the thread in a phase, in a cycle. -/
def testScop (ph : ScopPhase) : Scop :=
  { op := .add, d := 1, va := there, bytes := (List.range 8).map (0x10040 + ·), kind := .release, arg := 1, cmp := 0, issued := 5, pos := 7
    phase := ph, count := 0, ch := none, finsn := 0 }

def scopIn (cycle : Nat) (ph : ScopPhase) : State :=
  let s := lab fun t => { t with scop := some (testScop ph) }
  { s with cycle := cycle }

theorem test_witness_scop_life :
    (∃ x, (seen (scopIn 4103 (.waiting 7))).cur.scop = some x ∧ x.phase = .waiting x.pos ∧ x.issued < 4103 ∧ 4103 % 4096 = x.pos
        ∧ ∀ o ∈ (seen (scopIn 4103 (.waiting 7))).others, scopAhead 4103 o x (scopIn 4103 (.waiting 7)).ev.slot = false)
      ∧ (∀ c ∈ [8198, 8199, 8200], ∃ x, (seen (scopIn c (.sent 7))).cur.scop = some x ∧ x.phase = .sent 7 ∧ ScopWay (seen (scopIn c (.sent 7))) x
        ∧ (scopIn c (.sent 7)).bad = [] ∧ NotLost (seen (scopIn c (.sent 7))) x.va.toNat)
      ∧ (8198 < 7 + 8192 ∧ 8199 = 7 + 8192 ∧ 7 + 8192 < 8200)
      ∧ ∃ x, (seen (scopIn 8199 (.arrived 7 100))).cur.scop = some x ∧ x.phase = .arrived 7 100 ∧ (seen (scopIn 8199 (.arrived 7 100))).cur.orphans = []
        ∧ (scopIn 8199 (.arrived 7 100)).bad = [] ∧ NotLost (seen (scopIn 8199 (.arrived 7 100))) x.va.toNat := by
  refine ⟨⟨testScop (.waiting 7), by decide, by decide, by decide, by decide, by decide⟩, fun c hc => ?_, by decide,
    ⟨testScop (.arrived 7 100), by decide, by decide, by decide, by decide, fun e h => by obtain rfl := Option.some.inj h; decide⟩⟩
  simp only [List.mem_cons, List.not_mem_nil, or_false] at hc
  rcases hc with rfl | rfl | rfl <;>
    exact ⟨testScop (.sent 7), by decide, by decide, fun ch h => (nomatch h), by decide, fun e h => by obtain rfl := Option.some.inj h; decide⟩

/-- A live circuit between two endpoints. -/
def circuit (ch src dst : Nat) : Circuit :=
  { ch := ch, src := { num := src, port := 0 }, dsts := [{ num := dst, port := 0 }], autoretry := false, multicast := false, st := .live, waves := 1
    nextSeq := 0, rxSeq := 0, frames := [], outbox := [], notices := [] }

/-- A SCOP that crosses the live circuit 5. -/
theorem test_witness_scop_way : ScopWay ({ scopIn 8199 (.sent 7) with launches := [{ testLaunch with circuits := [circuit 5 0 1] }] })
    { testScop (.sent 7) with bytes := [0x80000000000], ch := some 5 } := fun ch h => by
  obtain rfl := Option.some.inj h
  exact ⟨_, Eq.refl _⟩

/-- The circuit of a SCOP is being re-routed: its reply waits; and a reply that needs no circuit, or whose circuit is live, goes. -/
theorem test_witness_scop_reply :
    let x : Scop := { testScop (.arrived 7 100) with bytes := [0x80000000000], ch := some 5 }
    let on (st : CircSt) : State := { scopIn 8199 (.arrived 7 100) with launches := [{ testLaunch with circuits := [{ circuit 5 0 1 with st := st }] }] }
    (¬ ScopWay (on (.resettling 9)) x ∧ ScopWay (on .live) x)
      ∧ (seen (scopIn 8199 (.applied 3 none))).cur.scop = some (testScop (.applied 3 none)) ∧ ScopWay (seen (scopIn 8199 (.applied 3 none))) (testScop (.applied 3 none))
      ∧ (∀ y ∈ (seen (scopIn 8199 (.applied 3 none))).cur.orphans, y.dueAt 8199 = false) := by
  refine ⟨⟨fun h => ?_, fun ch h => ?_⟩, by decide, fun ch h => (nomatch h), by decide⟩
  · obtain ⟨r, hr⟩ := h 5 rfl
    exact nomatch hr
  · obtain rfl := Option.some.inj h
    exact ⟨_, Eq.refl _⟩

theorem test_witness_fences : ∀ sc : Scope, ∀ f ∈ fences (lab id) sc, f.2 := by
  intro sc f hf
  simp only [fences, List.mem_cons, List.not_mem_nil, or_false] at hf
  rcases hf with rfl | rfl | rfl | rfl <;> cases sc <;> simp <;> decide

/-! ### Owner tokens, counters, barriers, waits, handles -/

theorem test_witness_region_words :
    ((0x1000F : Word).toNat % 64 < 16 ∧ 40 < (0x10029 : Word).toNat % 64 ∧ (0x10050 : Word).toNat / 64 % 1024 ≠ 0)
      ∧ (¬ ((0x10011 : Word).toNat % 64 < 16 ∨ 40 < (0x10011 : Word).toNat % 64 ∨ (0x10011 : Word).toNat / 64 % 1024 ≠ 0)
        ∧ (0x10011 : Word).toNat / 65536 * 65536 % 2 ^ 17 ≠ 0)
      ∧ (¬ ((0x000F000400000010 : Word).toNat % 64 < 16 ∨ 40 < (0x000F000400000010 : Word).toNat % 64
          ∨ (0x000F000400000010 : Word).toNat / 64 % 1024 ≠ 0)
        ∧ (0x000F000400000010 : Word).toNat / 65536 * 65536 % 2 ^ 16 = 0 ∧ 0x000F000400000000 ≤ (0x000F000400000010 : Word).toNat / 65536 * 65536)
      ∧ (¬ ((0x28 : Word).toNat % 64 < 16 ∨ 40 < (0x28 : Word).toNat % 64 ∨ (0x28 : Word).toNat / 64 % 1024 ≠ 0)
        ∧ (0x28 : Word).toNat / 65536 * 65536 % 2 ^ 40 = 0 ∧ (0x28 : Word).toNat / 65536 * 65536 < 0x000F000400000000) := by decide

/-- The thread with the word of a region in s2 and another word in s4; the table has the one entry. -/
def own (e : Entry) (b : Word) : State :=
  let s := lab fun t => (t.setS 2 (BitVec.ofNat 64 (e.base + e.log2))).setS 4 b
  { s with tokens := [e] }

/-- The entry of the thread's page in a state, home with an owner, at home with an agent. -/
def held (owner home : AgentId) (st : TokState) : Entry := region 0x10000 16 owner home st

theorem test_witness_lend :
    (Region (own (held self 5 .lent) 0x10000000) 2 0x10000 16 (held self 5 .lent) ∧ Holds (own (held self 5 .lent) 0x10000000) (held self 5 .lent)
        ∧ badAgent 0x10000000 = false ∧ (((own (held self 5 .lent) 0x10000000).getS 4).setWidth 32 : AgentId) = me (own (held self 5 .lent) 0x10000000))
      ∧ Region (own (held self self .excl) 0x20000000) 2 0x10000 16 (held self self .excl) ∧ Holds (own (held self self .excl) 0x20000000) (held self self .excl)
        ∧ badAgent 0x20000000 = false ∧ (((own (held self self .excl) 0x20000000).getS 4).setWidth 32 : AgentId) ≠ me (own (held self self .excl) 0x20000000)
        ∧ (own (held self self .excl) 0x20000000).receiverCheck (held self self .excl) 0x20000000 true = .ok ()
        ∧ Quiet (own (held self self .excl) 0x20000000) 0x10000 16 0x20000000 :=
  ⟨⟨⟨ok_of (by decide), ok_of (by decide)⟩, ⟨by decide, by decide⟩, by decide, by decide⟩, ⟨ok_of (by decide), ok_of (by decide)⟩, ⟨by decide, by decide⟩,
    by decide, by decide, ok_of (by decide), by decide, by decide⟩

theorem test_witness_return : ∀ e ∈ [held self self .excl, held self 0x20000000 .lent],
    Region (own e 0) 2 0x10000 16 e ∧ Holds (own e 0) e ∧ Quiet (own e 0) 0x10000 16 e.homeAgent := by
  intro e he
  simp only [List.mem_cons, List.not_mem_nil, or_false] at he
  rcases he with rfl | rfl <;> exact ⟨⟨ok_of (by decide), ok_of (by decide)⟩, ⟨by decide, by decide⟩, by decide, by decide⟩

theorem test_witness_lend_then_return : (held self self .excl).st = .excl ∧ (held self self .excl).homeAgent = (held self self .excl).owner := by decide

/-- A region with a share of Corelo and 254 shares, and one shared with the thread. -/
def lastShare : Entry := { held self self .shared with shares := [(0x50000000, 254)] }
def sharedWithMe : Entry := { held 0x20000000 0x20000000 .shared with shares := [(self, 1)] }

theorem test_witness_shares :
    (Region (own lastShare 0x50000000) 2 0x10000 16 lastShare ∧ lastShare.owner = me (own lastShare 0x50000000) ∧ lastShare.st = .shared
        ∧ badAgent (((own lastShare 0x50000000).getS 4).setWidth 32) = false ∧ lastShare.shareCount < 255 ∧ lastShare.sharesOf 0x50000000 ≠ 0
        ∧ (own lastShare 0x50000000).receiverCheck lastShare 0x50000000 false = .ok () ∧ Quiet (own lastShare 0x50000000) 0x10000 16 0x50000000)
      ∧ ((own (held self self .excl) 0x50000000).storeFill (held self self .excl).die < 65536 ∧ (held self self .excl).shareCount < 255)
      ∧ Region (own sharedWithMe 0) 2 0x10000 16 sharedWithMe ∧ sharedWithMe.st ≠ .lost ∧ sharedWithMe.sharesOf (me (own sharedWithMe 0)) ≠ 0
        ∧ Quiet (own sharedWithMe 0) 0x10000 16 sharedWithMe.owner :=
  ⟨⟨⟨ok_of (by decide), ok_of (by decide)⟩, by decide, by decide, by decide, by decide, by decide, ok_of (by decide), by decide, by decide⟩, by decide,
    ⟨ok_of (by decide), ok_of (by decide)⟩, by decide, by decide, by decide, by decide⟩

/-- A region of 128 KiB whole, and in its two halves. -/
def whole : Entry := region 0x20000 17 self self .excl
def halves (st : TokState) : State :=
  let s := lab fun t => t.setS 2 0x20011
  { s with tokens := [region 0x20000 16 self self st, region 0x30000 16 self self st] }

theorem test_witness_split_and_join :
    (Region (own whole 0) 2 0x20000 17 whole ∧ Holds (own whole 0) whole ∧ whole.pair = false ∧ (own whole 0).tableFill whole.die < 262144
        ∧ (own whole 0).cur.busyIn 0x20000 (2 ^ 17) = false)
      ∧ ∃ lo hi, regionOf ((halves .lent).getS 2) = .ok (0x20000, 17) ∧ findEntry (halves .lent).tokens (halves .lent).cur.bind.job 0x20000 17 = none
        ∧ (halves .lent).entryFor 0x20000 16 = .ok lo ∧ (halves .lent).entryFor 0x30000 16 = .ok hi ∧ Holds (halves .lent) lo ∧ Holds (halves .lent) hi
        ∧ lo.st = hi.st ∧ lo.homeAgent = hi.homeAgent ∧ lo.pair = false ∧ hi.pair = false ∧ (halves .lent).cur.busyIn 0x20000 (2 ^ 17) = false :=
  ⟨⟨⟨ok_of (by decide), ok_of (by decide)⟩, ⟨by decide, by decide⟩, by decide, by decide, by decide⟩,
   region 0x20000 16 self self .lent, region 0x30000 16 self self .lent, ok_of (by decide), by decide, ok_of (by decide), ok_of (by decide),
   ⟨by decide, by decide⟩, ⟨by decide, by decide⟩, by decide, by decide, by decide, by decide, by decide⟩

/-- The record of a collective whose destination lies in the region stands in the thread's ring; and none does. -/
theorem test_witness_unpopped :
    ((own (held self self .excl) 0x20000000).upd fun t => { t with cqCount := 1, ringBufs := [[(0x10000, 16)]] }).unpopped 0x10000 (2 ^ 16) = true
      ∧ (own (held self self .excl) 0x20000000).unpopped 0x10000 (2 ^ 16) = false ∧ (own whole 0).unpopped 0x20000 (2 ^ 17) = false
      ∧ (halves .lent).unpopped 0x20000 (2 ^ 17) = false := by decide

/-- The thread as a supervisor. -/
def ruler (e : Entry) : State := let s := own e 0; s.upd fun t => { t with bind := { t.bind with supervisor := true } }

theorem test_witness_query_wait_claim :
    (regionOf ((lab fun t => t.setS 2 0x30010).getS 2) = .ok (0x30000, 16)
        ∧ findEntry (lab fun t => t.setS 2 0x30010).tokens (lab fun t => t.setS 2 0x30010).cur.bind.job 0x30000 16 = none
        ∧ (lab fun t => t.setS 2 0x30010).deadDies = [])
      ∧ (Region (own sharedWithMe 0) 2 0x10000 16 sharedWithMe ∧ sharedWithMe.st ≠ .lost ∧ sharedWithMe.sharesOf (me (own sharedWithMe 0)) ≠ 0)
      ∧ (Region (own (held 5 5 .excl) 0) 2 0x10000 16 (held 5 5 .excl) ∧ (held 5 5 .excl).owner ≠ me (own (held 5 5 .excl) 0)
        ∧ (held 5 5 .excl).sharesOf (me (own (held 5 5 .excl) 0)) = 0)
      ∧ (Region (ruler (held 5 5 .lost)) 2 0x10000 16 (held 5 5 .lost) ∧ (ruler (held 5 5 .lost)).cur.bind.supervisor = true)
      ∧ Region (ruler (held 5 5 .excl)) 2 0x10000 16 (held 5 5 .excl) ∧ (ruler (held 5 5 .excl)).cur.bind.supervisor = true :=
  ⟨⟨ok_of (by decide), by decide, by decide⟩, ⟨⟨ok_of (by decide), ok_of (by decide)⟩, by decide, by decide⟩,
    ⟨⟨ok_of (by decide), ok_of (by decide)⟩, by decide, by decide⟩, ⟨⟨ok_of (by decide), ok_of (by decide)⟩, by decide⟩,
    ⟨ok_of (by decide), ok_of (by decide)⟩, by decide⟩

/-- An open window that has counted 64 bytes, with no put under way, and with one. -/
def windowed : Entry := { held self self .window with writers := 5, counter := 64 }
def putting : State :=
  let p : PendStore := { va := there, bytes := [(0x10040, 1)], lines := [], kind := .release, rel := false, count := 1, due := 9, ch := none }
  let s := own windowed 65
  s.upd fun t => { t with stores := [p] }

theorem test_witness_windows :
    (Region (own (held self self .excl) 5) 2 0x10000 16 (held self self .excl) ∧ Holds (own (held self self .excl) 5) (held self self .excl)
        ∧ badWriters ((own (held self self .excl) 5).getS 4) = false ∧ (own (held self self .excl) 5).cur.busyIn 0x10000 (2 ^ 16) = false)
      ∧ (Region (own windowed 64) 2 0x10000 16 windowed ∧ windowed.owner = me (own windowed 64) ∧ windowed.st = .window
        ∧ ((own windowed 64).getS 4).toNat ≤ windowed.counter.toNat
        ∧ ∀ t ∈ (own windowed 64).slots, t.putsIn windowed.job windowed.base (2 ^ windowed.log2) = false)
      ∧ Region putting 2 0x10000 16 windowed ∧ windowed.owner = me putting ∧ windowed.counter.toNat < (putting.getS 4).toNat
        ∧ ∃ t ∈ putting.slots, t.putsIn windowed.job windowed.base (2 ^ windowed.log2) = true :=
  ⟨⟨⟨ok_of (by decide), ok_of (by decide)⟩, ⟨by decide, by decide⟩, by decide, by decide⟩,
    ⟨⟨ok_of (by decide), ok_of (by decide)⟩, by decide, by decide, by decide, by decide⟩, ⟨ok_of (by decide), ok_of (by decide)⟩, by decide, by decide, by decide⟩

/-- A counter at which POST just fits, one where it does not, and the same of WAIT. -/
def counterAt (v : BitVec 16) : State := lab fun t => { t with k := t.k.set 3 v }

theorem test_witness_counters : (∀ e ∈ allStreams, Free (counterAt 65534) e)
    ∧ (((counterAt 65534).cur.getK 3).toNat + 1 ≤ 65535 ∧ 65535 < ((counterAt 65535).cur.getK 3).toNat + 1)
    ∧ 1 ≤ ((counterAt 1).cur.getK 3).toNat ∧ ((counterAt 0).cur.getK 3).toNat < 1 := by unfold Free; decide

/-- The launch with two barriers, the second of two threads at .pkg, with one arrival in phase 3. -/
def barred : Launch :=
  { testLaunch with
    recd := List.replicate 0x72 0 ++ [2] ++ List.replicate 0x111 0 ++ [6, 0, 2, 0]
    barriers := [{ barrier := 1, inst := 0, phase := 3, arrivals := 1 }] }

/-- The thread with marks at barriers. -/
def arrived (ms : List ArriveMark) : State :=
  let s := lab fun t => { t with arrives := ms }
  { s with launches := [barred] }

theorem test_witness_barriers :
    (∀ p ∈ [2, 3], (arrived [{ barrier := 1, inst := 0, phase := p }]).barrierFor 1 .pkg = .ok barred)
      ∧ (∃ m, (arrived [{ barrier := 1, inst := 0, phase := 3 }]).cur.mark 1 = some m ∧ markOpen barred m = true)
      ∧ (∃ m, (arrived [{ barrier := 1, inst := 0, phase := 2 }]).cur.mark 1 = some m ∧ markOpen barred m = false)
      ∧ (arrived []).barrierFor 1 .pkg = .ok barred ∧ (arrived []).cur.mark 1 = none ∧ (arrived []).cur.released .pkg false = true := by
  refine ⟨fun p hp => ok_of ?_, ⟨_, Eq.refl _, by decide⟩, ⟨_, Eq.refl _, by decide⟩, ok_of (by decide +kernel), by decide, by decide⟩
  simp only [List.mem_cons, List.not_mem_nil, or_false] at hp
  rcases hp with rfl | rfl <;> decide +kernel

/-- MWAIT on a doubleword of zeros with s4 = 1 and with s4 = 0; SLEEP of 0 and of 2^32 − 1; a thread that has been woken. -/
theorem test_witness_mwait_and_sleep :
    (∀ v ∈ [(0 : Word), 1], (addressed fun t => t.setS 4 v).cur.waiting = .none
        ∧ (addressed fun t => t.setS 4 v).check1 ((addressed fun t => t.setS 4 v).getS 3) 8 .load = .ok thereAcc
        ∧ Readable (addressed fun t => t.setS 4 v) thereAcc 8)
      ∧ ofBytes ((addressed fun t => t.setS 4 1).readHome thereAcc.key 8) ≠ ((addressed fun t => t.setS 4 1).getS 4).toNat
      ∧ ofBytes ((addressed fun t => t.setS 4 0).readHome thereAcc.key 8) = ((addressed fun t => t.setS 4 0).getS 4).toNat
      ∧ ((lab id).getS 4).toNat % 2 ^ 32 = 0 ∧ ((lab fun t => t.setS 4 0xFFFFFFFF).getS 4).toNat % 2 ^ 32 ≠ 0
      ∧ (lab fun t => { t with waiting := .woken }).cur.waiting = .woken := by
  refine ⟨fun v hv => ?_, by decide, by decide, by decide, by decide, by decide⟩
  simp only [List.mem_cons, List.not_mem_nil, or_false] at hv
  rcases hv with rfl | rfl <;> exact ⟨by decide, ok_of (by decide), by unfold Readable; decide⟩

/-- Waits whose time ends in the present cycle. -/
theorem test_witness_waits_end :
    (∃ l va n ch w, (seen (lab fun t => { t with waiting := .monitor 0x401 0x10040 0 none 0 })).cur.waiting = .monitor l va n ch w
        ∧ n ≤ (lab fun t => { t with waiting := .monitor 0x401 0x10040 0 none 0 }).cycle)
      ∧ ∃ n, (seen (lab fun t => { t with waiting := .sleeping 0 })).cur.waiting = .sleeping n
        ∧ n ≤ (lab fun t => { t with waiting := .sleeping 0 }).cycle :=
  ⟨⟨_, _, _, _, _, Eq.refl _, by decide⟩, ⟨_, Eq.refl _, by decide⟩⟩

/-- The accesses of n doublewords at `here`. -/
def hereAccs (n : Nat) : List Access := (List.range n).map fun i => { hereAcc with key := 0x000F000000001000 + 8 * i, va := here + BitVec.ofNat 64 (8 * i) }

theorem test_witness_handles_and_maps :
    ((addressed id).getS 2).toNat % 32 = 0 ∧ ((addressed id).getS 2).toNat % 8 = 0
      ∧ (∀ n ∈ [3, 4], (addressed id).checkWords ((addressed id).getS 2) .load n = .ok (hereAccs n) ∧ (addressed id).readWaits (hereAccs n) = none)
      ∧ (∃ v, (addressed id).loadWords ((addressed id).getS 2) (hereAccs 4) = .ok ([0, 0, 0, 0], v))
      ∧ ∃ ws v, (addressed id).loadWords ((addressed id).getS 2) (hereAccs 3) = .ok (ws, v) := by
  refine ⟨by decide, by decide, fun n hn => ?_, ⟨_, Eq.refl _⟩, ⟨_, _, Eq.refl _⟩⟩
  simp only [List.mem_cons, List.not_mem_nil, or_false] at hn
  rcases hn with rfl | rfl <;> exact ⟨ok_of (by decide), by decide⟩

/-! ### The ring, the deque, launches, CSRs, traps and returns -/

theorem test_witness_ring : (lab id).cur.cqCount = 0 ∧ (ringOf [1]).cur.cqCount ≠ 0 := by decide

/-- A record that waits, with one place free in the ring. -/
def oneRecord : WaitRecord :=
  { rcd := { kind := 1, status := 0, tag := 0, count := 0, poison := 0, code := 0, retries := 0 }, op := none, async := none, mma := none, routed := false, bufs := [] }

theorem test_witness_held_record :
    (seen (lab fun t => { t with waitRecs := [oneRecord], cqCount := 63, cqTail := 63 })).cur.waitRecs = [oneRecord]
      ∧ (seen (lab fun t => { t with waitRecs := [oneRecord], cqCount := 63, cqTail := 63 })).cur.cqCount < 64
      ∧ (lab fun t => { t with waitRecs := [oneRecord], cqCount := 63, cqTail := 63 }).bad = [] := by decide

/-- The core's deque holds items of a launch; s4 is a value. -/
def deques (launch : Nat) (items : List Word) (v : Word) : State :=
  let s := lab fun t => t.setS 4 v
  { s with cores := [{ testCore with dequeLaunch := launch, deque := items }] }

theorem test_witness_deque :
    ((deques 0 [] 0).cur.released .die false = true ∧ (deques 0 [] (BitVec.allOnes 64)).getS 4 = BitVec.allOnes 64 ∧ (deques 0 [] 3).getS 4 ≠ BitVec.allOnes 64)
      ∧ ((deques 9 [5] 3).core 0).deque ≠ [] ∧ ((deques 9 [5] 3).core 0).dequeLaunch ≠ 1
      ∧ 1024 ≤ ((deques 1 (List.replicate 1024 5) 3).core 0).deque.length
      ∧ ((deques 1 (List.replicate 1023 5) 3).core 0).dequeLaunch = 1 ∧ ((deques 1 (List.replicate 1023 5) 3).core 0).deque.length < 1024
      ∧ ((deques 0 [] 3).core 0).deque = []
      ∧ ((deques 1 [5, 6] 0).core 0).dequeLaunch = 1 ∧ ((deques 1 [5, 6] 0).core 0).deque = 5 :: [6]
      ∧ 15 < ((deques 1 [5, 6] 16).getS 4).toNat ∧ ((deques 1 [5, 6] 15).getS 4).toNat ≤ 15
      ∧ ((deques 1 [5, 6] 15).core 15).deque = [] ∧ ((deques 1 [5, 6] 0).core 0).deque = [5] ++ [6] := by decide +kernel

/-- A check that passes gives something that a test of its result finds. -/
theorem passes {α : Type} {r : Chk α} {p : α → Bool} (h : (r.toOption.elim false p) = true) : ∃ a, r = .ok a ∧ p a = true := by
  cases r with
  | ok a => exact ⟨a, rfl, h⟩
  | error f => exact nomatch h

theorem test_witness_launch :
    ((lab fun t => t.setS 2 1).getS 2).toNat % 64 ≠ 0
      ∧ ∃ ws v j, ((addressed id).getS 2).toNat % 64 = 0 ∧ (addressed id).checkWords ((addressed id).getS 2) .load 64 = .ok (hereAccs 64)
        ∧ (addressed id).readWaits (hereAccs 64) = none ∧ (addressed id).cur.released .pkg true = true
        ∧ (addressed id).loadWords ((addressed id).getS 2) (hereAccs 64) = .ok (ws, v) ∧ v.progWait (ws.flatMap fun w => bytesOf 8 w.toNat) = none ∧ v.job? = some j :=
by
  obtain ⟨x, hx, hp⟩ := passes (r := (addressed id).loadWords ((addressed id).getS 2) (hereAccs 64))
    (p := fun x => decide (x.2.progWait (x.1.flatMap fun w => bytesOf 8 w.toNat) = none ∧ x.2.job? = some testJob)) (by decide +kernel)
  have hp := of_decide_eq_true hp
  exact ⟨by decide, x.1, x.2, testJob, by decide, ok_of (by decide +kernel), by decide +kernel, by decide, hx, hp.1, hp.2⟩

/-- The launch with circuit 5 live. -/
def oneCircuit : Launch :=
  { testLaunch with circuits := [{ ch := 5, src := { num := 0, port := 0 }, dsts := [{ num := 1, port := 0 }], autoretry := false, multicast := false
                                   st := .live, waves := 1, nextSeq := 0, rxSeq := 0, frames := [], outbox := [], notices := [] }] }

def circuited : State := { lab id with launches := [oneCircuit] }

theorem test_witness_circuit_query : circuited.launch? = some oneCircuit ∧ (∃ c, findCircuit oneCircuit.circuits (5 : BitVec 6).toNat = some c)
    ∧ findCircuit oneCircuit.circuits (63 : BitVec 6).toNat = none := ⟨by decide, ⟨_, Eq.refl _⟩, by decide⟩

/-- A supervisor. -/
def supervisor : State := lab fun t => { t with bind := { t.bind with supervisor := true } }

theorem test_witness_csrs :
    ((0x016 ∈ csrReadOnly ∧ 0x141 ∈ csrReadOnly) ∧ (0x000 ∈ csrMasks.map Prod.fst ∧ 0x015 ∈ csrMasks.map Prod.fst))
      ∧ ∀ n ∈ [(0x017 : BitVec 12), 0x7FF, 0x801, 0xFFF], n.toNat ∉ csrReadOnly ∧ n.toNat ∉ csrMasks.map Prod.fst ∧ n.toNat ≠ 0x800 := by
  simp [csrMasks, csrReadOnly]

theorem test_witness_privilege : supervisor.cur.bind.supervisor = true ∧ (lab id).cur.bind.supervisor = false := by decide

theorem test_witness_traps : (∀ e ∈ allStreams, CanTrap (lab id) e 0x02) ∧ CanTrap (lab id) .scalar 0x80 ∧ CanTrap (lab id) .scalar 0x81 := by
  have h (e : Stream) (c : BitVec 8) (hc : c ∈ [(0x02 : BitVec 8), 0x80, 0x81]) : CanTrap (lab id) e c := by
    have hr : ∀ c ∈ [(0x02 : BitVec 8), 0x80, 0x81], (lab id).route (faultClass c) ≠ 3 ∧ (lab id).route (faultClass c) ≠ 4 := by decide
    exact ⟨by decide, by decide, by decide, by decide, by decide, by decide, Or.inr (by decide), (hr c hc).1, (hr c hc).2, fun f => by cases f <;> decide,
      by decide, fun f _ _ => by cases f <;> decide⟩
  exact ⟨fun e _ => h e _ (by decide), h _ _ (by decide), h _ _ (by decide)⟩

/-- The same while another engine's stream stands, with its results landed. -/
theorem test_witness_trap_beside : CanTrap (lab fun t => { t with vector := { t.vector with stopped := true } }) .copy 0x02 :=
  ⟨by decide, by decide, by decide, by decide, by decide, by decide, Or.inr (by decide), by decide, by decide, fun f => by cases f <;> decide, by decide,
    fun f _ _ => by cases f <;> decide⟩

/-- The thread in its handler, for a fault of a stream or after an asynchronous entry, and the thread with no handler. -/
def handling (e : Option Stream) : State := lab fun t => { t with ih := true, handled := e, fpc := 8, divert := 4 }
def noHandler : State := lab fun t => { t with tvec := 0 }

theorem test_witness_held_faults :
    (Stream.copy ≠ .scalar ∧ (handling none).cur.ih = true ∧ (handling none).route (faultClass 0x02) ≠ 3 ∧ (handling none).route (faultClass 0x02) ≠ 4)
      ∧ (lab fun t => { t with status := .saving }).cur.status = .saving
      ∧ (lab fun t => { t with corelo := some { cause := 0x11, mayResume := true, stream := .vector, fpc := 8 } }).cur.corelo.isSome = true := by decide

/-- A fault without a handler, and one of the scalar stream in the handler. -/
theorem test_witness_faults_to_corelo :
    (∀ s ∈ [noHandler, handling none], s.cur.status = .bound ∧ s.cur.corelo = none ∧ ∀ f, (s.cur.str f).pending = none)
      ∧ (∀ e, AllLanded noHandler e) ∧ AllLanded (handling none) .scalar ∧ (handling none).cur.ih = true
      ∧ noHandler.cur.ih = false ∧ noHandler.cur.tvec = 0 ∧ noHandler.route (faultClass 0x02) ≠ 3 ∧ noHandler.route (faultClass 0x02) ≠ 4
      ∧ (noHandler.cur.str .vector).ended = false := by
  refine ⟨fun s hs => ?_, fun e => ⟨by decide, .inr (by decide), by decide, by decide⟩, ⟨by decide, .inl (Eq.refl _), by decide, by decide⟩, by decide, by decide,
    by decide, by decide, by decide, by decide⟩
  simp only [List.mem_cons, List.not_mem_nil, or_false] at hs
  rcases hs with rfl | rfl <;> exact ⟨by decide, by decide, fun f => by cases f <;> decide⟩

theorem test_witness_eret :
    (lab id).cur.ih = false
      ∧ (∀ o ∈ [none, some Stream.scalar, some .copy], (handling o).cur.ih = true ∧ (handling o).cur.handled = o)
      ∧ ∀ f, ((handling none).cur.str f).pending = none ∧ ((handling (some .copy)).cur.str f).pending = none :=
  ⟨by decide, by decide, fun f => by cases f <;> decide⟩

theorem test_witness_trap_then_eret : ∃ u v, CanTrap (lab id) .scalar 0x80 ∧ (lab id).cur.scalar.pc &&& 3#52 = 0
    ∧ (∀ f, ((lab id).cur.str f).stopped = false ∧ ((lab id).cur.str f).halted = false) ∧ (∀ i : Fin 6, (lab id).cur.scalar.loops[i].frozen = false)
    ∧ exec .trap (lab id) = .next u ∧ exec .eret u = .next v :=
  ⟨_, _, test_witness_traps.2.1, by decide, fun f => by cases f <;> decide, by decide, Eq.refl _, Eq.refl _⟩

/-- The thread with a vector result in flight that goes to e3. -/
def flying : State :=
  let l : VLanding := { id := 0, due := 9, runs := [], ereg := some (3, 1), flags := 0, elems := [], mreg := none, full := none, stores := [] }
  lab fun t => { t with vfly := [l] }

theorem test_witness_exit_and_move : (lab id).cur.vfly = [] ∧ (lab id).cur.mfly = [] ∧ flying.cur.vfly ≠ [] ∧ (lab id).launchFlag 3 = false
    ∧ ∀ l ∈ flying.cur.vfly, l.ereg.map Prod.fst ≠ some 4 := by decide

/-- A copy stream with a pending fault, with and without a handler, an asynchronous entry, and a thread held by Corelo. -/
def faulted : PendFault := { flt := { cause := 2, detail := 0, addr := 1 }, fpc := 8, finsn := 0 }
def pendingFault (tv : Word) : State := lab fun t => { t with tvec := tv, copy := { t.copy with stopped := true, pending := some faulted } }
def asynchronous : State := lab fun t => { t with asyncPend := [{ cause := 0xC, detail := 0, stream := 3, fpc := 8, finsn := 0, addr := 0 }] }
def atCorelo : State := lab fun t => { t with corelo := some { cause := 0x11, mayResume := true, stream := .vector, fpc := 8 } }

theorem test_witness_handler_events :
    ((seen (pendingFault 0x1000)).cur.nextPending = some (.copy, faulted) ∧ (seen (pendingFault 0x1000)).cur.canEnter = true
        ∧ (seen (pendingFault 0x1000)).coreloDue = false ∧ (seen (pendingFault 0x1000)).stopOthers.cur.settledAll = true)
      ∧ (∃ a rest, (seen asynchronous).cur.asyncPend = a :: rest ∧ (seen asynchronous).cur.canEnter = true ∧ (seen asynchronous).cur.nextPending = none)
      ∧ ((seen (pendingFault 0)).cur.nextPending = some (.copy, faulted) ∧ (seen (pendingFault 0)).cur.ih = false ∧ (seen (pendingFault 0)).cur.tvec = 0
        ∧ (seen (pendingFault 0)).route (faultClass 0x02) ≠ 3 ∧ (seen (pendingFault 0)).route (faultClass 0x02) ≠ 4
        ∧ (seen (pendingFault 0)).cur.status = .bound ∧ (seen (pendingFault 0)).cur.corelo = none ∧ (seen (pendingFault 0)).haltAll.cur.settledAll = true)
      ∧ (∃ c, (seen atCorelo).cur.corelo = some c ∧ c.mayResume = true) ∧ (∀ f, ((seen atCorelo).cur.str f).pending = none)
      ∧ (seen atCorelo).cur.handled = none :=
  ⟨by decide, ⟨_, _, Eq.refl _, by decide, by decide⟩, by decide, ⟨_, Eq.refl _, by decide⟩, fun f => by cases f <;> decide, by decide⟩

/-- A buffer pair of the thread, and a handle to it. -/
def aPair : Entry := region 0x20000 17 self self .excl
def pairHandle : Handle := { w0 := 0x20000, w1 := BitVec.ofNat 64 (2 ^ 58), w2 := 0, w3 := 0 }
def paired : State :=
  let s := lab fun t => t.setH 1 pairHandle
  { s with
    tokens := [aPair]
    cores := [{ Core.reset 0 with tlb := [{ job := 1, base := 2, log2 := 16, pte := 0x2002F, die := 0 }] }] }

theorem test_witness_publish : paired.pairOf (paired.cur.getH 1) = .ok aPair ∧ aPair.owner = me paired ∧ aPair.st ≠ .window
    ∧ paired.cur.busyIn aPair.base (2 ^ aPair.log2) = false ∧ paired.cur.released .pkg true = true ∧ paired.cur.copies = [] ∧ ∃ acc, paired.pubqCheck aPair = .ok acc :=
  ⟨ok_of (by decide), by decide, by decide, by decide, by decide, by decide, ⟨{ thereAcc with key := 0x20000, va := 0 }, ok_of (by decide)⟩⟩

/-! ### The vector stream -/

/-- A shape of 2 × 3: v1 holds two runs, v2 is ZERO, v3 a mask, v4 five elements; VCAP is 3. -/
def vec (f : Slot → Slot) : State :=
  lab fun t => f { (((t.setV 1 (.runs .f32 [{ val := 0x3F800000, count := 2 }, { val := 0x40000000, count := 4 }])).setV 3
    (.runs .i32 [{ val := 1, count := 6 }])).setV 4 (.runs .f32 [{ val := 0, count := 5 }])) with
      rows := 2, cols := 3, bind := { t.bind with vcap := 3 } }

theorem vec_ready : VectorReady (vec id) := ⟨by unfold Free; decide, by decide⟩

theorem vec_readable (r : BitVec 5) (h : r ∈ [(1 : BitVec 5), 2, 3]) : RunReadable (vec id) r := by
  simp only [List.mem_cons, List.not_mem_nil, or_false] at h
  refine ⟨fun l hl => absurd hl List.not_mem_nil, ?_, fun t rs e => ?_⟩
  · rcases h with rfl | rfl | rfl <;> decide
  · rcases h with rfl | rfl | rfl
    · obtain ⟨rfl, rfl⟩ := RunReg.runs.inj e; decide
    · exact nomatch e
    · obtain ⟨rfl, rfl⟩ := RunReg.runs.inj e; decide

/-- A masked add at the bound of VCAP, a fused multiply-add, a selection and a conversion. -/
theorem test_witness_elementwise :
    (∃ f ∈ laneForms3 { d := 1, a := 1, b := 2, mask := some 3, c := true, t := .f32 }, IsLaneForm f ∧ VectorReady (vec id)
        ∧ (∀ r ∈ f.reads, RunReadable (vec id) r) ∧ f.worst (vec id) = (vec id).cur.bind.vcap)
      ∧ ∀ f ∈ [laneFormSel { d := 5, a := 1, b := 2, m := 3, c := false, t := .f32 },
          laneFormCvt { d := 5, a := 1, mask := none, c := false, t := .i32, src := .f32 }],
        IsLaneForm f ∧ (∀ r ∈ f.reads, RunReadable (vec id) r) ∧ f.worst (vec id) ≤ (vec id).cur.bind.vcap := by
  refine ⟨⟨_, List.mem_cons_self, Or.inl ⟨_, List.mem_cons_self⟩, vec_ready, fun r hr => vec_readable r ?_, by decide⟩, fun f hf => ?_⟩
  · simp only [LaneForm.reads, List.map_cons, List.map_nil, List.cons_append, List.nil_append, List.mem_cons, List.not_mem_nil, or_false] at hr
    rcases hr with rfl | rfl | rfl | rfl <;> decide
  · simp only [List.mem_cons, List.not_mem_nil, or_false] at hf
    rcases hf with rfl | rfl
    · refine ⟨Or.inr (Or.inr (Or.inr (Or.inr (Or.inr ⟨_, Eq.refl _⟩)))), fun r hr => vec_readable r ?_, by decide⟩
      simp only [LaneForm.reads, laneFormSel, List.map_cons, List.map_nil, List.cons_append, List.nil_append, List.mem_cons, List.not_mem_nil,
        or_false, Bool.false_eq_true, if_false] at hr
      rcases hr with rfl | rfl | rfl <;> decide
    · refine ⟨Or.inr (Or.inr (Or.inr (Or.inr (Or.inl ⟨_, Eq.refl _⟩)))), fun r hr => vec_readable r ?_, by decide⟩
      simp only [LaneForm.reads, laneFormCvt, List.map_cons, List.map_nil, List.mem_cons, List.not_mem_nil,
        or_false, Bool.false_eq_true, if_false, List.append_nil] at hr
      subst hr; decide

/-- An add whose result needs two runs: with VCAP 1 it overflows; with VCAP 2 its masked form, whose bound is three, holds issue. -/
def capped (n : Nat) : State := vec fun t => { t with bind := { t.bind with vcap := n } }

theorem capped_readable (n : Nat) (r : BitVec 5) (h : r ∈ [(1 : BitVec 5), 2, 3]) : RunReadable (capped n) r := vec_readable r h

theorem test_witness_over_vcap :
    let f (m : Option (BitVec 5)) : LaneForm := (laneForms3 { d := 1, a := 1, b := 2, mask := m, c := false, t := .f32 }).head (by simp [laneForms3])
    (∀ m, f m ∈ laneForms3 { d := 1, a := 1, b := 2, mask := m, c := false, t := .f32 }) ∧ (∀ n, VectorReady (capped n))
      ∧ (f none).needed (capped 1) = 2 ∧ (capped 1).cur.bind.vcap = 1 ∧ (f (some 3)).needed (capped 2) = 2 ∧ (f (some 3)).worst (capped 2) = 3
      ∧ (capped 2).cur.bind.vcap = 2 :=
  ⟨fun m => List.head_mem _, fun n => vec_ready, by decide +kernel, by decide, by decide +kernel, by decide, by decide⟩

theorem test_witness_wrong_shapes : Free (vec id) .vector ∧ (vec id).cur.vfly = [] ∧ ((vec id).cur.getV 4).fits (lanes (vec id)) = false
    ∧ ((vec id).cur.getV 1).fits (lanes (vec id)) = true := by unfold Free; decide

theorem test_witness_reductions : VectorReady (vec id) ∧ RunReadable (vec id) 1 ∧ RunReadable (vec id) 2 :=
  ⟨vec_ready, vec_readable 1 (by decide), vec_readable 2 (by decide)⟩

theorem test_witness_sums : (∀ r ∈ [({ val := 1, count := 3 } : Run), { val := 2, count := 5 }], 1 ≤ r.count)
    ∧ runsLen [({ val := 1, count := 3 } : Run), { val := 2, count := 5 }] ≤ 2 ^ 3 := by decide

theorem test_witness_rows_scans_segments :
    (vec id).cur.rows ≤ (vec id).cur.bind.vcap
      ∧ (∀ f ∈ scanForms { d := 5, a := 2, c := false, t := .f32 } (vec fun t => { t with rows := 1, cols := 3 }),
        lanes (vec fun t => { t with rows := 1, cols := 3 }) ≤ f.2.1 ∧ f.2.2.length ≤ (vec id).cur.bind.vcap)
      ∧ ∀ f ∈ segForms { d := 5, a := 1, b := 1, c := true, t := .f32 }, (segRuns (vec id) { d := 5, a := 1, b := 1, c := true, t := .f32 } f.2.1 f.2.2.2).length
        ≤ (vec id).cur.bind.vcap := by decide +kernel

theorem test_witness_rows_are_cut : runsLen [({ val := 1, count := 5 } : Run), { val := 2, count := 1 }] = 2 * 3 ∧ 1 < 2 := by decide

theorem test_witness_constants : VectorReady (vec id) ∧ 1 ≤ (vec id).cur.bind.vcap ∧ (∀ l ∈ (vec id).cur.vfly, ∀ w ∈ l.runs, w.1 ≠ 1)
    ∧ lanes (vec fun t => { t with rows := 1 }) ≤ (vec fun t => { t with rows := 1 }).cur.bind.vcap := ⟨vec_ready, by decide, by decide, by decide⟩

/-- Handles to two rows of three FP32 elements and to two rows of one record, at the offset 0x1000. -/
def rowsHandle : Handle := { w0 := 0x1000, w1 := BitVec.ofNat 64 (2 + 2 ^ 16 + 2 ^ 52), w2 := 12, w3 := 0 }
def recordsHandle : Handle := { w0 := 0x1000, w1 := BitVec.ofNat 64 (2 ^ 16 + 7 * 2 ^ 48 + 2 ^ 52), w2 := 8, w3 := 0 }

/-- The machine with both handles, and a record of six elements at the offset. -/
def vecMem : State :=
  let s := vec fun t => (t.setH 1 rowsHandle).setH 2 recordsHandle
  { s with mem := memWrites [] (cellsAt 0x000F000000001000 [7, 0, 0, 0, 6, 0, 0, 0]) }

/-- The operands of a VM instruction of one register. -/
def vmArgs (d : BitVec 5) (h : BitVec 4) : VMemArgs := { d := d, h := h, rs := 0, g := 0, imm := 0, t := .f32 }

theorem test_witness_vld :
    ∃ rs, vecMem.vmCheck (vecMem.vmTensor (vmArgs 5 1)) 0 4 .load (rowFoots (vecMem.vmTensor (vmArgs 5 1)) 0 0 [3, 3]) = .ok ()
      ∧ rowFoots (vecMem.vmTensor (vmArgs 5 1)) vecMem.cur.key.core (vecMem.vmRow (vmArgs 5 1)) (List.replicate (2 ^ 0 * vecMem.cur.rows) vecMem.cur.cols)
        = rowFoots (vecMem.vmTensor (vmArgs 5 1)) 0 0 [3, 3]
      ∧ (lanes vecMem ≤ 4096 ∧ vecMem.cur.cols ≤ (vecMem.vmTensor (vmArgs 5 1)).e0
        ∧ vecMem.vmRow (vmArgs 5 1) + 1 * vecMem.cur.rows ≤ (vecMem.vmTensor (vmArgs 5 1)).e1)
      ∧ (List.range 1).mapM (fun j => (vecMem.seeing vecMem.cur.vStores).vldReg (vecMem.vmTensor (vmArgs 5 1)) 4 vecMem.cur.rows vecMem.cur.cols
          (vecMem.vmRow (vmArgs 5 1) + j * vecMem.cur.rows)) = .ok rs
      ∧ ∀ r ∈ rs, r.length ≤ vecMem.cur.bind.vcap :=
  ⟨[[{ val := 7, count := 1 }, { val := 6, count := 1 }, { val := 0, count := 4 }]], ok_of (by decide +kernel), by decide +kernel, by decide +kernel,
    ok_of (by decide +kernel), by decide⟩

theorem test_witness_vldr :
    ∃ rs, vecMem.vmCheck (vecMem.vmTensor (vmArgs 5 2)) 7 8 .load (rowFoots (vecMem.vmTensor (vmArgs 5 2)) vecMem.cur.key.core (vecMem.vmRow (vmArgs 5 2))
          (List.replicate (2 ^ 0) (vecMem.vmTensor (vmArgs 5 2)).e0)) = .ok ()
      ∧ (vecMem.vmTensor (vmArgs 5 2)).e0 ≤ 2048 ∧ vecMem.vmRow (vmArgs 5 2) + 1 ≤ (vecMem.vmTensor (vmArgs 5 2)).e1
      ∧ (List.range 1).mapM (fun j => (vecMem.seeing vecMem.cur.vStores).vldrFrom (vecMem.vmTensor (vmArgs 5 2)) .f32 (vecMem.vmRow (vmArgs 5 2) + j)
          (lanes vecMem) (vecMem.vmTensor (vmArgs 5 2)).e0 0 0 []) = .ok rs
      ∧ ∀ r ∈ rs, r.length ≤ vecMem.cur.bind.vcap :=
  ⟨[[{ val := 7, count := 6 }]], ok_of (by decide +kernel), by decide +kernel, by decide +kernel, ok_of (by decide +kernel), by decide⟩

theorem test_witness_vst_and_vstr :
    (∀ r ∈ groupRegs 2 0, RunReadable vecMem r ∧ (vecMem.cur.getV r).nruns ≤ (vecMem.vmTensor (vmArgs 2 2)).e0)
      ∧ vecMem.vmCheck (vecMem.vmTensor (vmArgs 2 1)) 0 4 .store (rowFoots (vecMem.vmTensor (vmArgs 2 1)) 0 0 [3, 3]) = .ok ()
      ∧ vecMem.vmCheck (vecMem.vmTensor (vmArgs 2 2)) 7 8 .store (rowFoots (vecMem.vmTensor (vmArgs 2 2)) vecMem.cur.key.core (vecMem.vmRow (vmArgs 2 2))
          ((groupRegs 2 0).map fun r => (vecMem.cur.getV r).nruns)) = .ok () := by
  refine ⟨fun r hr => ?_, ok_of (by decide +kernel), ok_of (by decide +kernel)⟩
  obtain rfl : r = 2 := by simpa [groupRegs] using hr
  exact ⟨⟨by decide, by decide, fun t rs e => nomatch e⟩, by decide +kernel⟩

/-- A shape of 1 × 128 with m7 FULL; the row 127. -/
def tiled : State :=
  let t := (lab id).cur
  { lab id with cur := { t.setM 7 { t.getM 7 with full := true } with rows := 1, cols := 128, bind := { t.bind with vcap := 128 } } }

def tileArgs (m : BitVec 3) : VTileArgs := { d := 2, mr := m, col := true, rs := 0, imm := 127, ef := true, t := .f32 }

theorem test_witness_tiles : Free tiled .vector ∧ (tileArgs 7).mr.toNat < tiled.cur.bind.mregs ∧ tiled.vsIdx (tileArgs 7) < 128 ∧ lanes tiled = 128
    ∧ (tiled.cur.getM (tileArgs 6).mr).full = false ∧ (tiled.cur.getM (tileArgs 7).mr).full = true ∧ 128 ≤ tiled.cur.bind.vcap ∧ RunReadable tiled 2 :=
  ⟨by unfold Free; decide, by decide, by decide, by decide, by decide, by decide, by decide, by decide, by decide, fun t rs e => nomatch e⟩

theorem test_witness_groups : groupsClash 8 9 1 = true ∧ groupsClash 8 10 1 = false ∧ groupsClash 8 8 3 = false ∧ flying.cur.vfly ≠ []
    ∧ Free flying .vector := by unfold Free; decide

/-- Two results in flight: the younger one, of another register, lands. -/
def landing (i : Nat) (r : BitVec 5) : VLanding :=
  { id := i, due := 9, runs := [(r, .zero)], ereg := some (3, 1), flags := 4, elems := [], mreg := some 1, full := some true, stores := [] }

def landingTwo : State :=
  let s := lab fun t => { t with vfly := [{ landing 0 1 with ereg := none, mreg := none }, landing 1 2] }
  { s with ev := { s.ev with num := 1 } }

theorem test_witness_landing : (seen landingTwo).cur.vfly = [{ landing 0 1 with ereg := none, mreg := none }] ++ landing 1 2 :: []
    ∧ (landing 1 2).id = landingTwo.ev.num
    ∧ (∀ x ∈ [({ landing 0 1 with ereg := none, mreg := none } : VLanding)] ++ [], x.id ≠ (landing 1 2).id ∧ (x.id < (landing 1 2).id → x.clash (landing 1 2) = false))
    ∧ (landing 1 2).stores = [] := by decide

/-- Both streams hold issue; the matrix stream with a fault found. -/
theorem test_witness_holds : ∀ e ∈ [Stream.vector, .matrix], ((seen (lab fun t => t.setStr e { t.str e with holdUntil := some 5, holdFault := some faulted })).cur.str e).holdUntil
    = some 5 ∧ DataHere (seen (lab fun t => t.setStr e { t.str e with holdUntil := some 5, holdFault := some faulted })) := by unfold DataHere; decide

/-! ### The matrix stream -/

/-- Handles to one row of 32 BF16 elements in group A and in group B; ft0 names two BF16 operands; m1 is FULL. -/
def matA : Handle := { w0 := 0x1000, w1 := BitVec.ofNat 64 (31 + 2 ^ 48 + 2 ^ 52), w2 := 0, w3 := 0 }
def matB : Handle := { w0 := 0xC01000, w1 := BitVec.ofNat 64 (31 + 2 ^ 48 + 2 ^ 52 + 2 ^ 57), w2 := 0, w3 := 0 }

def mat (f : Slot → Slot) : State :=
  lab fun t => f ((((t.setH 1 matA).setH 2 matB).setFt 0 0x11).setM 1 { t.getM 1 with full := true })

def mmaArgs (m : BitVec 3) (z : Bool) : MmaArgs := { md := m, ha := 1, hb := 2, fs := 0, z := z, f := true, ao := 0, bo := 0 }

/-- A FULL register; and an MMA that adds to m7, the last register, with seven records held. -/
def sevenHeld : State := mat fun t => { t with waitRecs := List.replicate 7 { oneRecord with mma := some (1, 0) } }

theorem test_witness_mma :
    (Free (mat id) .matrix ∧ (mmaArgs 1 false).md.toNat < (mat id).cur.bind.mregs ∧ ((mat id).cur.getM 1).full = true)
      ∧ (Free sevenHeld .matrix ∧ (mmaArgs 7 false).md.toNat < sevenHeld.cur.bind.mregs ∧ (sevenHeld.cur.getM 7).full = false ∧ sevenHeld.heldMma sevenHeld.cur < 8
        ∧ (sevenHeld.cur.selectFt 0).mmaStep = some 32
        ∧ sevenHeld.mmaCheck (sevenHeld.cur.selectFt 0) 32 false ((sevenHeld.cur.getH 1).tensor (offTerm (sevenHeld.cur.getOm 0) sevenHeld.cur.matrix))
          ((sevenHeld.cur.getH 2).tensor (offTerm (sevenHeld.cur.getOm 0) sevenHeld.cur.matrix)) = .ok ()
        ∧ TileOk (sevenHeld.cur.chainTile 7 sevenHeld.freeCtr)) :=
  ⟨by unfold Free; decide, by unfold Free; decide, by decide, by decide, by decide, by decide +kernel, ok_of (by decide +kernel),
    by unfold TileOk; exact ⟨List.Pairwise.nil, fun e h => absurd h List.not_mem_nil⟩⟩

/-- A map whose every value passes its checks passes them. -/
theorem mapM_ok {α β : Type} (f : α → Chk β) (h : ∀ a, ∃ b, f a = .ok b) : ∀ l : List α, ∃ bs, l.mapM f = .ok bs
  | [] => ⟨[], rfl⟩
  | a :: l => by
    obtain ⟨b, hb⟩ := h a
    obtain ⟨bs, hs⟩ := mapM_ok f h l
    exact ⟨b :: bs, by rw [List.mapM_cons, hb, hs]; rfl⟩

/-- Without errors in memory every byte of a tensor can be read. -/
theorem tensorByte_ok (s : State) (h : s.bad = []) (x : Tensor) (va : Word) : ∃ b, s.tensorByte x va = .ok b := by
  unfold State.tensorByte
  rw [h]
  exact ⟨_, rfl⟩

/-- Handles for whole rows: 64 rows of 128 BF16 elements at 0x1000 in the own scratchpad, and of 128 FP4 elements with headers behind. -/
def rowsBf16 : Handle := { w0 := 0x1000, w1 := BitVec.ofNat 64 (127 + 63 * 2 ^ 16 + 2 ^ 48 + 2 ^ 52), w2 := 256, w3 := 0 }
def rowsFp4 : Handle := { w0 := 0x1000, w1 := BitVec.ofNat 64 (127 + 63 * 2 ^ 16 + 4 * 2 ^ 48 + 2 ^ 52), w2 := 64, w3 := 0x2000 }

/-- ft1 sends BF16, ft2 FP4 in blocks of 32. -/
def tileMem : State := lab fun t => (((t.setH 3 rowsBf16).setH 4 rowsFp4).setFt 1 0x2000).setFt 2 0x8500

def mldaArgs : MldaArgs := { md := 7, h := 3, om := 0, e := true, rm := .lo }
def mstaArgs (h fs : BitVec 4) : MstaArgs := { md := 7, h := h, fs := fs, om := 0, e := true, rm := .hi }

theorem test_witness_mlda :
    (((mat id).cur.getM 1).full = true ∧ (1 : BitVec 3).toNat < (mat id).cur.bind.mregs)
      ∧ (Free tileMem .matrix ∧ mldaArgs.md.toNat < tileMem.cur.bind.mregs ∧ (tileMem.cur.getM 7).full = false ∧ (tileMem.msTensor 3 0).fmt = 1
        ∧ RowsAligned (tileMem.msTensor 3 0) (elemBits (tileMem.msTensor 3 0).fmt / 8)
        ∧ RowsAdmitted tileMem (tileMem.msTensor 3 0) .load ((tileMem.msTensor 3 0).msFoots tileMem.cur.key.core (rowCount .lo)) (rowCount .lo)
        ∧ tileMem.tagsAre (tileMem.msTensor 3 0).swz ((tileMem.msTensor 3 0).msFoots tileMem.cur.key.core (rowCount .lo)) = true)
      ∧ ∃ es, (List.range (rowCount .lo)).mapM (mldaRow tileMem (tileMem.msTensor 3 0) mldaArgs) = .ok es := by
  refine ⟨by decide, ⟨by unfold Free; decide, by decide, by decide, by decide, by unfold RowsAligned; decide, by unfold RowsAdmitted; decide +kernel,
    by decide +kernel⟩, mapM_ok _ (fun r => mapM_ok _ (fun c => ?_) _) _⟩
  obtain ⟨bs, hb⟩ := mapM_ok (fun i => (tileMem.seeing tileMem.cur.mStores).tensorByte (tileMem.msTensor 3 0)
    ((tileMem.msTensor 3 0).byteVa (tileMem.seeing tileMem.cur.mStores).cur.key.core r 0 (c * (elemBits (tileMem.msTensor 3 0).fmt / 8) + i)))
    (fun i => tensorByte_ok _ rfl _ _) (List.range (elemBits (tileMem.msTensor 3 0).fmt / 8))
  exact ⟨_, by rw [State.rowBytes, hb]; rfl⟩

theorem test_witness_msta_and_mstq :
    ((tileMem.cur.selectFt 1).high = 0 ∧ (tileMem.cur.selectFt 1).ofmt < 4 ∧ (tileMem.msTensor 3 0).fmt = (tileMem.cur.selectFt 1).ofmt
        ∧ RowsAdmitted tileMem (tileMem.msTensor 3 0) .store ((tileMem.msTensor 3 0).msFoots tileMem.cur.key.core (rowCount .hi)) (rowCount .hi))
      ∧ (tileMem.cur.selectFt 2).high = 0 ∧ (tileMem.cur.selectFt 2).ofmt = 4 ∧ (tileMem.cur.selectFt 2).lbs = 5 ∧ (tileMem.msTensor 4 0).fmt = 4
        ∧ (tileMem.msTensor 4 0).hdr ≠ 0 ∧ (tileMem.msTensor 4 0).e0 % 2 ^ 5 = 0
        ∧ ((tileMem.msTensor 4 0).base + BitVec.ofNat 64 (tileMem.msTensor 4 0).hdr).toNat % 4 = 0
        ∧ RowsAdmitted tileMem (tileMem.msTensor 4 0) .store ((tileMem.msTensor 4 0).msFoots tileMem.cur.key.core (rowCount .hi)
          ++ (tileMem.msTensor 4 0).msHdrs tileMem.cur.key.core (rowCount .hi) (2 ^ 5)) (rowCount .hi) := by
  unfold RowsAdmitted; decide +kernel

theorem test_witness_matrix_forms : Free (mat id) .matrix ∧ (7 : BitVec 3).toNat < (mat id).cur.bind.mregs ∧ ((mat id).cur.getM 1).full = true
    ∧ ((mat id).cur.getM 7).full = false ∧ TileQuiet (mat id) 7 ∧ TileOk ((mat id).cur.getM 7).tile ∧ (mat id).cur.mfly = [] := by
  refine ⟨by unfold Free; decide, by decide, by decide, by decide, ⟨fun l h => absurd h List.not_mem_nil, fun l h => absurd h List.not_mem_nil⟩, ?_, by decide⟩
  exact ⟨List.Pairwise.nil, fun e h => absurd h List.not_mem_nil⟩

/-- Matrix results in flight: an older one of another register, and one that lands, without K-steps, or an MMA with a record. -/
def mLanding (fs : List MmaFrame) (post : Bool) : MLanding := { MLanding.none with id := 1, due := 9, mreg := some 2, hi := 128, frames := fs, post := post }

def mLandingState (l : MLanding) : State :=
  let s := lab fun t => { t with mfly := [{ MLanding.none with due := 9, mreg := some 1 }, l] }
  { s with ev := { s.ev with num := 1 } }

/-- Two K-steps. -/
def twoSteps : List MmaFrame := [{ tile := [(3, 1)], pmask := 0, nsteps := 1 }, { tile := [(3, 2)], pmask := 0, nsteps := 2 }]

theorem test_witness_matrix_landing :
    (∀ l ∈ [mLanding [] false, mLanding twoSteps false, mLanding twoSteps true, { mLanding twoSteps true with run := .stopping 1 },
        { mLanding twoSteps true with run := .stopped }],
      LandsAlone (seen (mLandingState l)) l [{ MLanding.none with due := 9, mreg := some 1 }] [] ∧ l.id = (mLandingState l).ev.num)
      ∧ (mLanding [] false).crossed = true ∧ (mLandingState (mLanding [] false)).cycle < (mLanding twoSteps true).boundary 1
      ∧ (mLanding twoSteps true).boundary 1 ≤ ({ mLandingState (mLanding [] false) with cycle := 2 ^ 12 } : State).cycle := by unfold LandsAlone; decide

/-- The first of the two K-steps is the last one done. -/
theorem test_witness_stopped_mma : LandsAlone (seen (mLandingState (mLanding twoSteps true))) (mLanding twoSteps true) [{ MLanding.none with due := 9, mreg := some 1 }] []
    ∧ (mLanding twoSteps true).mreg = some 2 ∧ (mLanding twoSteps true).frames[0]? = some { tile := [(3, 1)], pmask := 0, nsteps := 1 }
    ∧ TileOk ((seen (mLandingState (mLanding twoSteps true))).cur.getM 2).tile :=
  ⟨by unfold LandsAlone; decide, by decide, by decide, List.Pairwise.nil, fun e h => absurd h List.not_mem_nil⟩

theorem test_witness_matrix_in_flight : (mLandingState (mLanding [] false)).cur.mfly ≠ [] ∧ Free (mLandingState (mLanding [] false)) .matrix := by
  unfold Free; decide

/-! ### The copy stream -/

/-- Handles to four FP32 elements at an address of a space. -/
def fourAt (space a : Nat) : Handle := { w0 := BitVec.ofNat 64 a, w1 := BitVec.ofNat 64 (3 + space * 2 ^ 52), w2 := 0, w3 := 0 }

/-- A job of two dies on a ring of two modules. The launch has circuits from die 0 to die 1, to Millstone 0 and back. Handles 1 and 2 are in the
own scratchpad, handle 3 in a page of die 1; s9 is a control word of XCPY and s10 one of LCPY, for link 0 to module 1. -/
def cp (f : Slot → Slot) : State :=
  let s := lab fun t => f (((((t.setH 1 (fourAt 1 0x1000)).setH 2 (fourAt 1 0x2000)).setH 3 (fourAt 0 0x20000)).setS 9 0xFC00).setS 10 0x10000)
  { s with
    cores := [{ testCore with tlb := { job := 1, base := 2, log2 := 16, pte := 0x8000002002F, die := 0 } :: testCore.tlb }]
    tokens := region 0x20000 16 self self .excl :: s.tokens
    jobs := [{ testJob with dies := [0, 1], extents := [2], coords := [0] }]
    launches := [{ testLaunch with circuits := [circuit 5 0 1, circuit 6 0 32, circuit 7 32 0] }]
    links := [{ Link.reset 0 with peer := some (1, 0), st := .up }] }

/-- The operands and the request of a plain CPY, XCPY and LCPY. -/
def cpyArgs : CcArgs := { hs := 1, hd := 2, p := 0, tag := 63, r := true }
def lcpyArgs : CcArgs := { hs := 1, hd := 3, p := 10, tag := 1, r := false }
def xcpyArgs : CxArgs := { hs := 1, hd := 3, ch := 5, p := 9, r := true }
def fillArgs : CdArgs := { hd := 2, p := 0, tag := 0, r := false }
def cpyReq : CopyReq := ccReq .cpy .none cpyArgs

/-- As many operations in flight as there may be, and one fewer. -/
def manyCopies (n : Nat) : State := cp fun t => { t with copies := List.replicate n (CopyOp.fresh .cpy .none ((fourAt 1 0x1000).tensor 0) ((fourAt 1 0x2000).tensor 0)) }

theorem test_witness_copies_start :
    (32 ≤ (manyCopies 32).cur.copies.length ∧ (manyCopies 31).cur.copies.length < 32)
      ∧ (∀ q ∈ [(cpyReq, 0), (cxReq .xcpy .none xcpyArgs, 9), (ccReq .lcpy .none lcpyArgs, 10)], q.1 ∈ (copyForms cpyArgs xcpyArgs fillArgs).map Prod.snd
          ∨ q.1 ∈ (copyForms lcpyArgs xcpyArgs fillArgs).map Prod.snd)
      ∧ (∀ q ∈ [cpyReq, cxReq .xcpy .none xcpyArgs, ccReq .lcpy .none lcpyArgs],
        (cp id).namedCircuit q.major q.ch.toNat = none ∧ q.valuesOk ((cp id).param q.p 0) 0 ((cp id).copyTensors q ((cp id).param q.p 0)).1 ((cp id).copyTensors q ((cp id).param q.p 0)).2 = true
          ∧ ((cp id).copyTensors q ((cp id).param q.p 0)).2.pair = false
          ∧ (cp id).copyFault ((cp id).copyOp q ((cp id).copyTensors q ((cp id).param q.p 0)).1 ((cp id).copyTensors q ((cp id).param q.p 0)).2
            ((cp id).param q.p 0) 0) q.ch.toNat 0 = none
          ∧ copyShape q.tr ((cp id).copyTensors q ((cp id).param q.p 0)).1 ((cp id).copyTensors q ((cp id).param q.p 0)).2 = none)
      ∧ (cp id).linkCheck (((cp id).param lcpyArgs.p 0).toNat / 2 ^ 32 % 16) (((cp id).param lcpyArgs.p 0).toNat / 2 ^ 16 % 2 ^ 16) = none
      ∧ ((cp id).namedCircuit .xcpy 9).isSome = true
      ∧ cpyReq.valuesOk 0xFC00 0 ((cp id).copyTensors cpyReq 0xFC00).1 ((cp id).copyTensors cpyReq 0xFC00).2 = false := by decide +kernel

/-- The destination of a handle without pair = 1 is itself, and no region is marked; of LCPY always. -/
theorem test_witness_shadowed : Shadowed cpyReq (cp id) ((fourAt 1 0x2000).tensor 0) ((fourAt 1 0x2000).tensor 0) (cp id)
    ∧ Shadowed (ccReq .lcpy .none lcpyArgs) (cp id) ((fourAt 0 0x20000).tensor 0) ((fourAt 0 0x20000).tensor 0) (cp id) :=
  ⟨⟨Eq.refl _, Eq.refl _⟩, ⟨Eq.refl _, Eq.refl _⟩⟩

/-- CATOM at the own scratchpad with s14 = 2 as its target word, of four bytes; on link 0 to module 1 with s14 = 0x10007; and an illegal word. -/
def atomic (tw : Word) : State := cp fun t => t.setS 14 tw

theorem test_witness_catoms :
    (catomOk ((atomic 2).param 12 2) ((fourAt 1 0x2000).tensor 0).space = true ∧ ((atomic 2).param 12 2).getLsbD 2 = false
        ∧ (∃ acc chs, (atomic 2).catomAdmit ((fourAt 1 0x2000).tensor 0) (((fourAt 1 0x2000).tensor 0).va 0 0x2000) 4 = .ok acc
          ∧ (atomic 2).catomCircuit acc.home (((fourAt 1 0x2000).tensor 0).va 0 0x2000) = .ok chs))
      ∧ (catomOk ((atomic 0x10007).param 12 2) ((fourAt 0 0x20000).tensor 0).space = true ∧ ((atomic 0x10007).param 12 2).getLsbD 2 = true
        ∧ (((fourAt 0 0x20000).tensor 0).va 0 0x20000).toNat % 8 = 0
        ∧ (atomic 0x10007).linkCheck (((atomic 0x10007).param 12 2).toNat / 256 % 16) (((atomic 0x10007).param 12 2).toNat / 2 ^ 16 % 2 ^ 16) = none)
      ∧ catomOk ((atomic 1).param 12 2) ((fourAt 1 0x2000).tensor 0).space = false :=
  ⟨⟨by decide, by decide, { hereAcc with key := 0x000F000000002000, va := 0 }, [], ok_of (by decide +kernel), ok_of (by decide +kernel)⟩,
   by decide +kernel, by decide⟩

/-- A record of 256 bytes for a sum of four FP32 elements on Millstone 0, from handle 1 to handle 2; s12 names it. -/
def collBytes : List Byte :=
  [0, 0, 0, 0, 0, 0, 0, 0, 4, 0, 0, 0, 0, 0x10, 0, 0] ++ List.replicate 0x70 0 ++
    ([fourAt 1 0x1000, fourAt 1 0x2000].flatMap fun h => bytesOf 8 h.w0.toNat ++ bytesOf 8 h.w1.toNat ++ List.replicate 16 0) ++ List.replicate 0x40 0

def colled (f : Slot → Slot) : State :=
  let s := cp fun t => f (t.setS 12 0x10000)
  { s with mem := collBytes.zipIdx.filterMap fun c => if c.1 = 0 then none else some (0x10000 + c.2, c.1) }

def collAccs : List Access := (List.range 32).map fun i => { thereAcc with key := 0x10000 + 8 * i, va := BitVec.ofNat 64 (0x10000 + 8 * i) }
def halfA : Entry := region 0x000F000000000000 16 self self .excl

/-- The operands of the COLL. -/
def collArgs : CollArgs := { p := 12, tag := 1, r := true }

theorem test_witness_coll :
    (colled id).cur.copies.length < 32 ∧ (colled id).recordAccess collArgs = .ok collAccs
      ∧ (∀ c ∈ collAccs, c.held = none ∧ (colled id).banksHeld c.key = false) ∧ (colled id).recordBytes ((colled id).getS 12) collAccs = .ok collBytes
      ∧ (∃ j, (colled id).job? = some j ∧ collOk j collBytes (dieOf (colled id).cur.key.core) = true)
      ∧ collFmtOk collBytes ((collHandle collBytes 0x80).tensor 0) = true ∧ collFmtOk collBytes ((collHandle collBytes 0xA0).tensor 0) = true
      ∧ (colled id).bufferRegion collBytes ((collHandle collBytes 0x80).tensor 0) = .ok halfA
      ∧ (colled id).bufferRegion collBytes ((collHandle collBytes 0xA0).tensor 0) = .ok halfA
      ∧ ownerCheck (me (colled id)) halfA false = .ok () ∧ (colled id).collCircuits (collUnit collBytes).1 = some (6, 7)
      ∧ collFits collBytes ((collHandle collBytes 0x80).tensor 0) WalkLevel.ss = true ∧ collFits collBytes ((collHandle collBytes 0xA0).tensor 0) WalkLevel.ds = true
      ∧ ((colled id).cur.busyIn halfA.base (2 ^ halfA.log2) || !(colled id).fencedFor (unitAgent 0 0)) = false :=
  ⟨by decide, ok_of (by decide +kernel), by decide +kernel, ok_of (by decide +kernel), ⟨_, Eq.refl _, by decide +kernel⟩, by decide +kernel,
    by decide +kernel, ok_of (by decide +kernel), ok_of (by decide +kernel), ok_of (by decide), by decide +kernel, by decide +kernel, by decide +kernel,
    by decide⟩

/-- The same with a store of the thread to the buffers' region pending. -/
theorem test_witness_coll_busy :
    let t := colled fun t => { t with stores := [{ va := here, bytes := [(0x000F000000001000, 1)], lines := [], kind := .release, rel := false, count := 0, due := 9, ch := none }] }
    t.cur.busyIn halfA.base (2 ^ halfA.log2) = true ∧ t.recordAccess collArgs = .ok collAccs ∧ t.recordBytes (t.getS 12) collAccs = .ok collBytes
      ∧ t.bufferRegion collBytes ((collHandle collBytes 0x80).tensor 0) = .ok halfA ∧ t.bufferRegion collBytes ((collHandle collBytes 0xA0).tensor 0) = .ok halfA :=
  ⟨by decide, ok_of (by decide +kernel), ok_of (by decide +kernel), ok_of (by decide +kernel), ok_of (by decide +kernel)⟩

theorem test_witness_copy_control :
    (manyCopies 1).cur.copies ≠ [] ∧ (cp id).cur.copies = [] ∧ (∀ l, (cp id).launch? = some l → l.num8 0x80 4 ≠ 1) ∧ (cp id).cur.waitRecs = []
      ∧ (cp fun t => { t with cqCount := 63, cqTail := 63 }).cur.cqCount < 64 ∧ (cp id).bad = [] :=
  ⟨by decide, by decide, fun l h => by obtain rfl := Option.some.inj h; decide, by decide, by decide, by decide⟩

/-- The thread with one operation in flight. -/
def running (o : CopyOp) : State := cp fun t => { t with copies := [o] }

/-- A copy of four elements, and an unrle of a source that holds no records. -/
def aCopy : CopyOp := CopyOp.fresh .cpy .none ((fourAt 1 0x1000).tensor 0) ((fourAt 1 0x2000).tensor 0)
def shortRuns : CopyOp :=
  CopyOp.fresh .cpy .unrle (({ fourAt 1 0x1000 with w1 := BitVec.ofNat 64 (7 * 2 ^ 48 + 2 ^ 52) } : Handle).tensor 0) ((fourAt 1 0x2000).tensor 0)
def aCatom : CopyOp := { CopyOp.fresh .catom .none ((fourAt 1 0x2000).tensor 0) ((fourAt 1 0x2000).tensor 0) with tw := 2 }

theorem test_witness_chunks :
    (∀ o ∈ [aCopy, shortRuns, aCatom], EventOp (running o) o ∧ (seen (running o)).framed o = false ∧ o.remote = false ∧ o.major ≠ .coll ∧ (seen (running o)).opLive o = true
        ∧ o.mayDo 0 = true ∧ (seen (running o)).opHeld o = false ∧ (running o).bad = [])
      ∧ (∃ r, (seen (running aCopy)).chunkOut aCopy 0 = .ok r ∧ (r.cells.map fun c => (seen (running aCopy)).tensorKey aCopy.y c.1).Nodup
        ∧ ∀ c ∈ r.cells, c.1 < 2 ^ 64 ∧ NotLost (seen (running aCopy)) c.1)
      ∧ (∃ f, (seen (running shortRuns)).chunkOut shortRuns 0 = .error f)
      ∧ NotLost (seen (running aCatom)) (aCatom.y.va (seen (running aCatom)).cur.key.core aCatom.y.base).toNat := by
  refine ⟨?_, ⟨{ cells := (List.range 16).map fun i => (0x000F000000002000 + i, 0), poison := 0, range := false, crc := 0, out := 0 },
    ok_of (by decide +kernel), by decide +kernel, ?_⟩, ⟨_, err_of (Eq.refl _)⟩, fun e h => ?_⟩
  · unfold EventOp; decide +kernel
  · have h : ∀ c ∈ (List.range 16).map fun i => (0x000F000000002000 + i, (0 : Byte)),
        c.1 < 2 ^ 64 ∧ (findRegion (seen (running aCopy)).tokens (seen (running aCopy)).cur.bind.job c.1).all (fun e => decide (e.st ≠ .lost)) = true := by
      decide +kernel
    exact fun c hc => ⟨(h c hc).1, fun e he => of_decide_eq_true (by simpa [he] using (h c hc).2)⟩
  · have h2 : (findRegion (seen (running aCatom)).tokens (seen (running aCatom)).cur.bind.job 0x000F000000002000).all (fun e => decide (e.st ≠ .lost)) = true := by
      decide +kernel
    have h3 : (aCatom.y.va (seen (running aCatom)).cur.key.core aCatom.y.base).toNat = 0x000F000000002000 := by decide +kernel
    rw [h3] at h
    exact of_decide_eq_true (by simpa [h] using h2)

/-- Operations that have ended in the three ways, and operations that wait for a live circuit and for a link that is up. -/
theorem test_witness_completions :
    (∀ ph ∈ [CopyPhase.ended 0 0 0, .ended 2 1 4, .awaitCircuit, .awaitLink], ∀ post ∈ [false, true],
        EventOp (running { aCopy with phase := ph, post := post }) { aCopy with phase := ph, post := post })
      ∧ (seen (running { aCopy with phase := .awaitCircuit, chs := [5] })).opLive { aCopy with phase := .awaitCircuit, chs := [5] } = true
      ∧ (seen (running { aCopy with phase := .awaitLink })).linkUp { aCopy with phase := .awaitLink } = true := by
  unfold EventOp; decide +kernel

/-! ### The digest

Its length, which is all that the tests need of it. -/

theorem length_carryLanes (a : List Word) : ∀ n t i b, (carryLanes a n t i b).length = b.length
  | 0, _, _, _ => rfl
  | n + 1, t, i, b => by rw [carryLanes, length_carryLanes a n, List.length_set]

theorem length_permute (a : List Word) : (permute a).length = a.length := by
  unfold permute
  induction roundConstants generalizing a with
  | nil => rfl
  | cons k ks ih => rw [List.foldl_cons, ih]; simp [permRound, mixRows, length_carryLanes, mixColumns]

theorem length_sponge : ∀ n a bs, (sponge n a bs).length = a.length
  | 0, _, _ => rfl
  | n + 1, a, bs => by rw [sponge, length_sponge n, length_permute]; simp

theorem length_sha3 (m : List Byte) : (sha3 m).length = 64 := by
  simp only [sha3, List.length_flatMap, bytesOf, List.length_cons, List.length_nil, List.map_const', List.length_take, length_sponge,
    List.length_replicate]
  decide

/-! ### The life of a thread -/

/-- A launch whose record has flags, at most four threads on a core, eight matrix registers, VCAP 256 and halves of 64 KiB. -/
def recorded (flags : Byte) (unbound : List Nat) : Launch :=
  { testLaunch with
    recd := [0, 0, flags, 0, 0, 4, 8, 8, 0, 0, 1, 0, 0, 0, 0, 0] ++ List.replicate 0x1F0 0
    unbound := unbound }

/-- The machine with such a launch beside its thread in slot 0, and images. -/
def binding (l : Launch) (is : List Image) : State := { lab id with launches := [l], images := is }

/-- The next free place on core 0. -/
def nextPlace : Place := { key := { core := 0, slot := 1 }, a := 0x10000, b := 0xC10000 }

theorem test_witness_bind :
    ((binding (recorded 0 [0, 1]) []).nextBind = some (.inst (recorded 0 [0, 1]) 0, some nextPlace)
        ∧ findLaunch (binding (recorded 0 [0, 1]) []).launches (recorded 0 [0, 1]).num = some (recorded 0 [0, 1]) ∧ (recorded 0 [0, 1]).heldRecs = [])
      ∧ (binding (recorded 1 [0, 1]) []).nextBind = some (.inst (recorded 1 [0, 1]) 0, none)
      ∧ (binding (recorded 0 []) []).nextBind = none := by decide +kernel

/-- A bind that is over at the cycle 7. -/
def bindingSlot (cycle : Nat) : State :=
  let s := lab fun t => { t with status := .binding, readyAt := 7 }
  { s with launches := [recorded 0 []], cycle := cycle, ev := { s.ev with num := 1 } }

theorem test_witness_bind_over : (∀ c ∈ [6, 7], (seen (bindingSlot c)).cur.status = .binding ∧ (seen (bindingSlot c)).cur.ending = none
    ∧ (seen (bindingSlot c)).launch? = some (recorded 0 []) ∧ (recorded 0 []).heldRecs = []) ∧ 6 < (seen (bindingSlot 6)).cur.readyAt
      ∧ (seen (bindingSlot 7)).cur.readyAt ≤ 7 := by decide +kernel

/-- A saved thread of the launch, with two bytes of its halves. -/
def saved : Image :=
  { num := 3, depth := 0, prev := none, launch := 1, agent := 0x10020000, addr := 0x10000000, ctx := testSlot
    grans := [{ num := 0, cells := [(0x1000, 7)], tags := [] }, { num := 1, cells := [(0, 9)], tags := [] }], blockedOn := none, restoring := none, ending := none }

/-- Memory that lists nothing but the digest, at its place, of what stands where an image was written. -/
def digested (i : Image) : List Host.Cell :=
  memWrites [] (cellsAt (i.addr + 0x40) (sha3 (i.parts.flatMap fun p => memBytesAt [] (i.addr + p.1) p.2.length)))

/-- What an image writes above its digest starts at 0x80. -/
theorem parts_above {i : Image} : ∀ p ∈ i.parts, 0x80 ≤ p.1 := by
  intro p hp
  unfold Image.parts at hp
  simp only [List.mem_append, List.mem_map, List.mem_cons, List.not_mem_nil, or_false] at hp
  have up (n : Nat) : n ≤ up4k n := by unfold up4k; omega
  have hm : 0x2000 ≤ i.ctx.imageM := by have := up (0x2000 + 32 * (16 + 8 * i.ctx.bind.vcap)); unfold Slot.imageM; omega
  have hs : i.ctx.imageM ≤ i.ctx.imageS := by have := up (i.ctx.imageM + i.ctx.bind.mregs * 163840); unfold Slot.imageS; omega
  rcases hp with (((((rfl | ⟨v, _, rfl⟩) | rfl) | ⟨b, _, rfl⟩) | rfl) | ⟨g, _, rfl⟩) | ⟨g, _, rfl⟩
  · exact Nat.le_refl _
  all_goals (dsimp only; omega)

/-- An image without older ones that stands so matches its digest. -/
theorem digested_good {s : State} {i : Image} (hm : s.mem = digested i) (hb : s.bad = []) (hp : i.prev = none) :
    s.chainGood i = true := by
  have same : ∀ p ∈ i.parts, memBytesAt s.mem (i.addr + p.1) p.2.length = memBytesAt [] (i.addr + p.1) p.2.length := fun p h =>
    memBytesAt_congr fun n _ => by
      rw [hm, digested, memRead_writes_other]
      intro c hc e
      have := cellsAt_mem c hc
      have := parts_above p h
      rw [length_sha3] at *
      omega
  have bytes : (i.parts.flatMap fun p => memBytesAt s.mem (i.addr + p.1) p.2.length)
      = i.parts.flatMap fun p => memBytesAt [] (i.addr + p.1) p.2.length := by
    rw [List.flatMap_def, List.flatMap_def, List.map_congr_left same]
  have stands : memBytesAt s.mem (i.addr + 0x40) 64 = sha3 (i.parts.flatMap fun p => memBytesAt [] (i.addr + p.1) p.2.length) := by
    rw [hm, digested]
    conv => lhs; arg 3; rw [← length_sha3 (i.parts.flatMap fun p => memBytesAt [] (i.addr + p.1) p.2.length)]
    exact memBytesAt_cellsAt
  unfold State.chainGood State.imageGood
  rw [bytes, stands, hb, hp]
  simp [State.chainFrom]

/-- The machine with the saved thread, its image whole, and with an error in a word of it. -/
def resuming : State := { binding (recorded 0 []) [saved] with mem := digested saved }
def spoiled : State := { binding (recorded 0 []) [saved] with bad := [(saved.addr, 0)] }

theorem test_witness_resumption :
    (resuming.nextBind = some (.image (recorded 0 []) saved, some nextPlace) ∧ resuming.chainGood saved = true)
      ∧ spoiled.nextBind = some (.image (recorded 0 []) saved, some nextPlace) ∧ spoiled.chainGood saved = false
      ∧ findLaunch spoiled.launches saved.launch = some (recorded 0 []) :=
  ⟨⟨by decide +kernel, digested_good (by rw [resuming]) (by rw [resuming]; rfl) rfl⟩, by decide +kernel, by
    unfold State.chainGood State.imageGood
    have h : spoiled.bad.any (fun e => rangesMeet e.1 1 saved.addr saved.ctx.imageLen) = true := by decide +kernel
    simp [h], by decide +kernel⟩

/-- A restore into slot 0 that is over at the cycle 7. -/
def restoringInto (cycle : Nat) : State :=
  let s := lab fun t => { t with status := .restoring, readyAt := 7 }
  { s with images := [{ saved with restoring := some SlotId.first }], cycle := cycle, ev := { s.ev with num := 1 } }

theorem test_witness_restored :
    (∀ c ∈ [6, 7], (seen (restoringInto c)).cur.status = .restoring ∧ (seen (restoringInto c)).cur.ending = none
        ∧ (seen (restoringInto c)).images.find? (fun x => decide (x.restoring = some (seen (restoringInto c)).cur.key)) = some { saved with restoring := some SlotId.first }
        ∧ ((seen (restoringInto c)).whole 16 { saved with restoring := some SlotId.first }).ctx.waitRecs = [])
      ∧ (6 < (seen (restoringInto 6)).cur.readyAt ∧ (seen (restoringInto 7)).cur.readyAt ≤ 7)
      ∧ (∀ e ∈ allStreams, (((seen (restoringInto 7)).whole 16 { saved with restoring := some SlotId.first }).ctx.str e).pending = none)
      ∧ ((imageCells (restoringInto 7).cur saved.grans).map Prod.fst).Nodup := by decide +kernel

/-- Tiles of a newer and an older image. -/
theorem test_witness_chain : TileOk [(3, 1), (2048, 2)] ∧ TileOk (saved.ctx.getM 0).tile :=
  ⟨⟨by decide, by decide⟩, List.Pairwise.nil, fun e h => absurd h List.not_mem_nil⟩

/-- The thread with its streams ended; in the hands of Corelo; killed; and its slot scrubbing. -/
def ended : State := lab fun t =>
  { t with scalar := { t.scalar with ended := true }, vector := { t.vector with ended := true }, matrix := { t.matrix with ended := true }
           copy := { t.copy with ended := true } }

theorem test_witness_thread_ends :
    ((seen ended).cur.status = .bound ∧ (seen ended).cur.allOver = true ∧ (seen ended).halvesBack = true ∧ (seen ended).putsOpen (seen ended).cur.key.agent (seen ended).cur.bind.job = false
        ∧ (seen ended).launch? = some testLaunch)
      ∧ (seen (lab id)).cur.allOver = false
      ∧ (∃ x, (seen (lab fun t => { t with corelo := some { cause := 2, mayResume := false, stream := .copy, fpc := 8 } })).cur.corelo = some x)
      ∧ ((seen (lab fun t => { t with ending := some 0x11 })).cur.ending.or ((seen (lab fun t => { t with ending := some 0x11 })).cur.corelo.map fun x => x.cause) = some 0x11
        ∧ (lab fun t => { t with ending := some 0x11 }).cur.scop = none ∧ (lab fun t => { t with ending := some 0x11 }).cur.orphans = []
        ∧ (∀ e ∈ (seen (lab fun t => { t with ending := some 0x11 })).tokens, e.windowOf self 1 = false) ∧ self = (lab id).cur.key.agent
        ∧ (seen (lab fun t => { t with ending := some 0x11 })).writesOpen = false ∧ (lab id).ev.word ≠ 1)
      ∧ (seen (lab fun t => { t with status := .scrubbing })).cur.status = .scrubbing
      ∧ (seen (lab fun t => { t with status := .scrubbing })).cur.readyAt ≤ (lab fun t => { t with status := .scrubbing }).cycle :=
  ⟨by decide +kernel, by decide, ⟨_, Eq.refl _⟩, by decide +kernel, by decide, by decide⟩

/-- The thread's page is a window with a put of another thread under way: its streams have ended, and it may not retire yet. -/
theorem test_witness_window_open :
    let far : Slot := { testSlot with
      key := { core := 0, slot := 1 }
      stores := [{ va := there, bytes := [(0x10040, 1)], lines := [], kind := .release, rel := false, count := 1, due := 9, ch := none }] }
    let s : State := { ended with others := [far], tokens := windowed :: ended.tokens.take 2 }
    (seen s).cur.status = .bound ∧ (seen s).cur.allOver = true ∧ (seen s).halvesBack = true
      ∧ (seen s).putsOpen (seen s).cur.key.agent (seen s).cur.bind.job = true := by decide +kernel

/-- A saved thread that Corelo ends, by an event that names its image; and one with an error in its image and a put of another into its window under
way. -/
def endedImage : Image := { saved with ending := some 0x11 }
def endingImage : State :=
  let s := binding (recorded 0 []) [endedImage]
  { s with ev := { s.ev with num := 3, word := 1 } }
def putInImage : State :=
  let s := binding (recorded 0 []) [saved]
  { s with
    others := [{ testSlot with
      key := { core := 1, slot := 0 }
      stores := [{ va := there, bytes := [(0x10040, 1)], lines := [], kind := .release, rel := false, count := 1, due := 9, ch := none }] }]
    tokens := [{ windowed with owner := imageMark 3 }]
    bad := [(saved.addr, 0)] }

theorem test_witness_image_ends :
    (endingImage.ev.word = 1 ∧ endingImage.images.find? (fun x => decide (x.num = endingImage.ev.num) && x.ending.isSome) = some endedImage
        ∧ endedImage.ending = some 0x11 ∧ findLaunch endingImage.launches endedImage.launch = some (recorded 0 [])
        ∧ endingImage.putsOpen (imageMark endedImage.num) endedImage.ctx.bind.job = false)
      ∧ OwnRecords endedImage ∧ OwnRecords saved ∧ spoiled.putsOpen (imageMark saved.num) saved.ctx.bind.job = false
      ∧ putInImage.nextBind = some (.image (recorded 0 []) saved, some nextPlace) ∧ putInImage.chainGood saved = false
      ∧ putInImage.putsOpen (imageMark saved.num) saved.ctx.bind.job = true :=
  ⟨by decide +kernel, fun w h => absurd h List.not_mem_nil, fun w h => absurd h List.not_mem_nil, by decide +kernel, by decide +kernel, by
    unfold State.chainGood State.imageGood
    have h : putInImage.bad.any (fun e => rangesMeet e.1 1 saved.addr saved.ctx.imageLen) = true := by decide +kernel
    simp [h], by decide +kernel⟩

/-- Launch 2, submitted by the host, by Corelo or by the thread, with threads left or none. -/
def second (sub : Submitter) (live : Nat) : Launch := { testLaunch with num := 2, submitter := sub, live := live }
def launchTwo (l : Launch) : State :=
  let s := lab id
  { s with launches := [testLaunch, l], ev := { s.ev with num := 2 } }

theorem test_witness_launch_ends :
    (∀ sub ∈ [Submitter.host, .corelo, .thread SlotId.first 1 0], findLaunch (launchTwo (second sub 0)).launches (launchTwo (second sub 0)).ev.num = some (second sub 0)
        ∧ (second sub 0).unbound = [] ∧ (second sub 0).heldRecs = [] ∧ (second sub 1).live ≠ 0
        ∧ (launchTwo (second sub 0)).slotOfLin 1 0 = some (launchTwo (second sub 0)).cur.key ∧ (launchTwo (second sub 0)).cur.waitRecs = [] ∧ (launchTwo (second sub 0)).cur.cqCount < 64) := by decide

/-- A requested pre-emption of a thread that may and may not be pre-empted, and a thread whose save has begun. -/
def requested (flags : Byte) : State := { lab fun t => { t with preemptReq := true } with launches := [recorded flags []] }

theorem test_witness_preemption :
    ((seen (requested 0)).cur.status = .bound ∧ (seen (requested 0)).cur.preemptReq = true ∧ (seen (requested 0)).mayPreempt = false)
      ∧ ((seen (requested 4)).cur.preemptReq = true ∧ (seen (requested 4)).mayPreempt = true ∧ (seen (requested 4)).cur.atBoundary = true
        ∧ (seen (requested 4)).halvesExcl = true)
      ∧ ((seen (lab fun t => { t with status := .saving })).cur.status = .saving ∧ (seen (lab fun t => { t with status := .saving })).cur.ending = none
        ∧ (seen (lab fun t => { t with status := .saving })).cur.drained = true ∧ (seen (lab fun t => { t with status := .saving })).framesOut = false
        ∧ (seen (lab fun t => { t with status := .saving })).halvesExcl = true) := by
  decide +kernel

/-! ### The fabric and the collectives -/

/-- The machine of the copies with one launch, and an event that names it. -/
def fab (l : Launch) (ev : EvArgs → EvArgs) : State :=
  let s := cp id
  { s with launches := [l], ev := ev { s.ev with num := 1 } }

/-- The launch that runs a program of one entry, at the program step 1. -/
def programmed (es : List ProgEntry) (past : Bool) (hold : Hold) : Launch := { testLaunch with prog := es, progStep := 1, progOver := past, hold := hold }

theorem test_witness_programs :
    (∀ l ∈ [programmed [] true .none, programmed [{ step := 2, op := .fin }] false .none, programmed [{ step := 1, op := .fin }] false .none,
          programmed [{ step := 1, op := .jump 1 }] false .none, programmed [{ step := 1, op := .holdUntil 1 }] false .none, programmed [] false (.stage 1)],
        EventLaunch (fab l id) l 0 ∧ l.ran ≠ some 0 ∧ l.stage.toNat < 1)
      ∧ EventLaunch (fab { testLaunch with ran := some 0 } id) { testLaunch with ran := some 0 } 0 := by unfold EventLaunch; decide +kernel

theorem test_witness_establish :
    findLaunch (fab testLaunch id).launches 1 = some testLaunch ∧ findCircuit testLaunch.circuits 63 = none ∧ (fab testLaunch id).badPorts = []
      ∧ (fab testLaunch id).portUser { num := 0, port := 0 } true = none ∧ (fab testLaunch id).portUser { num := 1, port := 0 } false = none
      ∧ (fab testLaunch id).pathWaves [{ num := 0, port := 0 }, { num := 1, port := 0 }] ≠ 0 ∧ (fab testLaunch id).controlLost = false := by decide +kernel

/-- The launch with one circuit from die 0 to die 1, changed. -/
def oneWay (f : Circuit → Circuit) : Launch := { testLaunch with circuits := [f (circuit 5 0 1)] }

theorem test_witness_circuit_live :
    ∀ st ∈ [CircSt.settling 0, .settling 1, .resettling 0, .resettling 1],
      EventLaunch (fab (oneWay fun c => { c with st := st }) fun e => { e with word := 5 }) (oneWay fun c => { c with st := st }) 0
        ∧ findCircuit (oneWay fun c => { c with st := st }).circuits 5 = some { circuit 5 0 1 with st := st } := by unfold EventLaunch; decide +kernel

/-- A port of die 1 that the circuit names and one of die 3 that none names, whole and failed. -/
theorem test_witness_port_faults :
    ((fab (oneWay id) fun e => { e with num := 16 }).circuitsWith (fun c => c.path.contains { num := 1, port := 0 }) = [(1, 5)]
        ∧ (fab (oneWay id) id).badPorts = [] ∧ (fab (oneWay id) fun e => { e with num := 48 }).circuitsWith (fun c => c.path.contains { num := 3, port := 0 }) = [])
      ∧ ({ fab (oneWay id) id with badPorts := [{ num := 3, port := 0 }] } : State).badPorts.contains { num := 3, port := 0 } = true := by decide +kernel

/-- Lasers 33, 0 and 34; laser 0 lights the circuit's wavelength, laser 33 only the control wavelength. -/
theorem test_witness_laser_faults :
    ((∀ l ∈ (fab (oneWay id) fun e => { e with num := 33 }).launches, ∀ c ∈ l.circuits,
          (laserLost (fab (oneWay id) fun e => { e with num := 33 }) 33).laserHits 33 c = false)
        ∧ (fab (oneWay id) id).badLasers = [] ∧ 33 < (fab (oneWay id) fun e => { e with num := 34 }).ev.num)
      ∧ (fab (oneWay id) fun e => { e with num := 0 }).launches = [oneWay id] ∧ (oneWay id).circuits = [circuit 5 0 1]
      ∧ (laserLost (fab (oneWay id) fun e => { e with num := 0 }) 0).laserHits 0 (circuit 5 0 1) = true := by decide +kernel

/-- The circuit can be re-routed while a control laser works, and is torn down when none does. -/
theorem test_witness_reroute :
    (findLaunch (fab (oneWay id) id).launches 1 = some (oneWay id) ∧ findCircuit (oneWay id).circuits (circuit 5 0 1).ch = some (circuit 5 0 1)
        ∧ (fab (oneWay id) id).launchStep (oneWay id) = some 0 ∧ ((fab (oneWay id) id).reroute (oneWay id) (circuit 5 0 1)).isSome = true)
      ∧ ({ fab (oneWay id) id with badLasers := [32, 33] } : State).reroute (oneWay id) (circuit 5 0 1) = none := by decide +kernel

/-- A frame of operation 0 of the thread that has failed some times, or is checked in. -/
def aFrame (seq fails : Nat) (st : FrameSt) : Frame :=
  { seq := seq, op := some { launch := 1, lin := 0, op := 0 }, chunk := 0, fails := fails, st := st, held := none
    out := { cells := [(0x000F000000002000, 7)], poison := 0, range := false, crc := 0, out := 0 } }

theorem test_witness_frames :
    (∀ p ∈ [(0, 7), (0, 8), (1, 7), (1, 8)], FrameArrives
          (fab (oneWay fun c => { c with rxSeq := p.1, frames := [aFrame 0 p.2 .flying] }) fun e => { e with word := 5 })
          (oneWay fun c => { c with rxSeq := p.1, frames := [aFrame 0 p.2 .flying] })
          { circuit 5 0 1 with rxSeq := p.1, frames := [aFrame 0 p.2 .flying] } (aFrame 0 p.2 .flying))
      ∧ ({ circuit 5 0 1 with st := .settling 8 } : Circuit).isLive = false ∧ 64 ≤ (List.replicate 64 (aFrame 0 0 .flying)).length := by
  unfold FrameArrives; decide +kernel

/-- A frame that comes whole, and one with a byte changed. -/
theorem test_witness_crc : frameGood ((aFrame 0 0 .flying).bytes 5) = true
    ∧ frameGood (((aFrame 0 0 .flying).bytes 5).set 16 8) = false := by decide +kernel

/-- A frame in its turn, one that has arrived before its turn, and a scratchpad from which an MMA streams for none. -/
theorem test_witness_check_in : (∀ q ∈ [0, 1], findLaunch (fab (oneWay fun c => { c with rxSeq := q, frames := [aFrame 0 0 .here] }) id).launches 1
      = some (oneWay fun c => { c with rxSeq := q, frames := [aFrame 0 0 .here] })
    ∧ findCircuit (oneWay fun c => { c with rxSeq := q, frames := [aFrame 0 0 .here] }).circuits 5 = some { circuit 5 0 1 with rxSeq := q, frames := [aFrame 0 0 .here] })
      ∧ (∀ f ∈ [aFrame 0 0 .here], f.seq = 1 → False)
      ∧ (fab (oneWay id) id).frameHeld (aFrame 0 0 .here) = false := by decide +kernel

/-- The chunk of the frame is the one of the copy in flight, as `test_witness_chunks` has it. -/
def viaFive : CopyOp := { aCopy with chs := [5] }
def viaTwo : CopyOp := { aCopy with chs := [5, 6] }
def anLcpyOp : CopyOp := CopyOp.fresh .lcpy .none ((fourAt 1 0x1000).tensor 0) ((fourAt 0 0x20000).tensor 0)
def ofUnit : CopyOp := { CopyOp.fresh .coll .none ((fourAt 1 0x1000).tensor 0) ((fourAt 1 0x2000).tensor 0) with phase := .atUnit, recd := [] }

theorem test_witness_frame_performed :
    (∀ o ∈ [viaFive, viaTwo, ofUnit], ((running o).focus SlotId.first).cur.findOp 0 = some o ∧ (running o).slotOfLin 1 0 = some SlotId.first ∧ (running o).bad = []
        ∧ ((aFrame 0 0 .here).out.cells.map fun x => (running o).tensorKey o.y x.1).Nodup
        ∧ ((aFrame 0 0 .here).out.cells.map fun x => (running o).unitKey (o.argC.setWidth 9) 1 o.y x.1).Nodup
        ∧ ∀ x ∈ (aFrame 0 0 .here).out.cells, x.1 < 2 ^ 64)
      ∧ (∀ x ∈ (aFrame 0 0 .here).out.cells, NotLost ((running viaFive).focus SlotId.first) x.1)
      ∧ viaFive.lastLeg 5 = true ∧ viaTwo.lastLeg 5 = false ∧ viaTwo.phase = .running ∧ 32 ≤ (circuit 7 32 0).src.num := by
  refine ⟨by decide +kernel, fun x hx e h => ?_, by decide, by decide, by decide, by decide⟩
  have ho : ∀ x ∈ (aFrame 0 0 .here).out.cells, (findRegion ((running viaFive).focus SlotId.first).tokens ((running viaFive).focus SlotId.first).cur.bind.job x.1).all
      (fun e => decide (e.st ≠ .lost)) = true := by decide +kernel
  have h2 := ho x hx
  rw [h] at h2
  exact of_decide_eq_true h2

/-- An LCPY whose chunk is at the end of its circuit; a sum and a CATOM, which are performed as their chunk's ACK comes; and a copy, which is not. -/
def remoteFive : CopyOp := { anLcpyOp with chs := [5] }
def sumFive : CopyOp := { viaFive with tr := .radd }
def atomFive : CopyOp := { aCatom with chs := [5] }

theorem test_witness_performed_at_ack :
    (remoteFive.remote = true ∧ remoteFive.phase = .running ∧ remoteFive.lastLeg 5 = true)
      ∧ (∀ o ∈ [sumFive, atomFive], o.phase = .running ∧ o.lastLeg 5 = true ∧ o.remote = false ∧ o.atAck = true ∧ (running o).cur.findOp 0 = some o)
      ∧ viaFive.atAck = false ∧ atomFive.major = .catom ∧ sumFive.major ≠ .catom
      ∧ (∃ cells, (running sumFive).addCells sumFive (aFrame 0 0 .done).out.cells = .ok cells) :=
  ⟨by decide +kernel, by decide +kernel, by decide, by decide, by decide,
    (passes (p := fun _ => true) (by decide +kernel)).imp fun _ h => h.1⟩

/-- A circuit that is not live; one with a frame to acknowledge and one not in; one with a dropped frame; one with a notice before and after its turn. -/
theorem test_witness_acks :
    (∀ f ∈ [fun c : Circuit => { c with st := .faulted 0 0x0E { num := 1, port := 0 } 0 }, fun c => { c with frames := [aFrame 0 0 .done, aFrame 1 0 .flying] },
          fun c => { c with frames := [aFrame 0 1 .bad] }, fun c => { c with notices := [{ seq := 1, lin := 0, op := 0, status := 0, cause := 0, detail := 0, count := 0 }] },
          fun c => { c with notices := [{ seq := 0, lin := 0, op := 0, status := 0, cause := 0, detail := 0, count := 0 }] }],
        (fab (oneWay f) fun e => { e with word := 5 }).evCircuit = some (oneWay f, f (circuit 5 0 1)))
      ∧ ({ circuit 5 0 1 with st := .faulted 0 0x0E { num := 1, port := 0 } 0 } : Circuit).isLive = false ∧ (circuit 5 0 1).isLive = true
      ∧ (aFrame 0 0 .done).st = .done ∧ (fab (oneWay id) id).ackedFrames [aFrame 1 0 .flying] = []
      ∧ (fab (oneWay id) id).frameHeld (aFrame 0 0 .done) = false
      ∧ (aFrame 0 1 .bad).seq = (fab (oneWay id) id).ev.addr.toNat ∧ 2 ^ 31 ≤ ((circuit 5 0 1).rxSeq + 2 ^ 32 - 1) % 2 ^ 32
      ∧ ((circuit 5 0 1).rxSeq + 2 ^ 32 - 0) % 2 ^ 32 < 2 ^ 31 ∧ (fab (oneWay id) id).slotOfLin 1 0 = some (fab (oneWay id) id).cur.key := by
  refine ⟨fun f hf => ?_, by decide, by decide, by decide, by decide, by decide, by decide, by decide, by decide⟩
  simp only [List.mem_cons, List.not_mem_nil, or_false] at hf
  rcases hf with rfl | rfl | rfl | rfl | rfl <;> decide +kernel

/-- A load held on a circuit. -/
def heldOn (ch : Nat) : State := { lab fun t => { t with heldOn := some { ch := ch, va := there, gone := false } } with launches := [oneWay id] }

theorem test_witness_express : (∀ ch ∈ [5, 6], ((heldOn ch).slotAt (heldOn ch).ev.slot).heldOn = some { ch := ch, va := there, gone := false } ∧ ((heldOn ch).slotAt (heldOn ch).ev.slot).status = .bound)
    ∧ ((findLaunch (heldOn 5).launches 1).elim [] fun l => l.circuits).any (fun c => decide (c.ch = 5) && c.isLive) = true
    ∧ ((findLaunch (heldOn 6).launches 1).elim [] fun l => l.circuits).any (fun c => decide (c.ch = 6) && c.isLive) = false := by decide +kernel

/-- The collective of `collBytes` in job 1 with contributions of members. -/
def aColl (ms : List Nat) : Coll := { firstColl 0 0 1 true (remoteContribution (ms.headD 0) collBytes [] []) with
  got := ms.map fun m => remoteContribution m collBytes (List.replicate 16 (BitVec.ofNat 8 m)) [], arrived := ms }

/-- A contribution of member 1 arrives at a unit that serves no key, another job's key, and its own key without it and with it. -/
def arriving (c : Option Coll) : State :=
  let s := cp id
  { s with colls := c.toList, ev := { s.ev with msg := .contribution 0 0 1 1 collBytes [] [] } }

theorem test_witness_contribution :
    (arriving none).ev.msg = .contribution 0 0 1 1 collBytes [] [] ∧ (arriving none).servedColl 0 0 = none
      ∧ (arriving (some { aColl [0] with job := 2 })).servedColl 0 0 = some { aColl [0] with job := 2 }
      ∧ (arriving (some (aColl [0]))).servedColl 0 0 = some (aColl [0]) ∧ (aColl [0]).job = 1 ∧ (aColl [0]).key = collKey collBytes
      ∧ (aColl [0]).ending = none ∧ 1 ∉ (aColl [0]).arrived ∧ collHead collBytes = collHead (aColl [0]).recd ∧ 1 ∈ (aColl [1]).arrived := by
  decide +kernel

/-- The thread's own COLL on its way to its unit over circuit 6, some of its chunks on the Millstone, or with its circuit gone. -/
def ownColl (ph : CopyPhase) (done : List Nat) : CopyOp :=
  { CopyOp.fresh .coll .none ((fourAt 1 0x1000).tensor 0) ((fourAt 1 0x2000).tensor 0) with phase := ph, recd := collBytes, chs := [6, 7], done := done }
def contributing (ph : CopyPhase) (done : List Nat) : State :=
  let s := running (ownColl ph done)
  { s with ev := { s.ev with num := 1 } }

theorem test_witness_own_contribution :
    (∀ p ∈ [(CopyPhase.toUnit, []), (.toUnit, [0]), (.hit 0x0F 5, [])], (contributing p.1 p.2).ev.msg = .none
        ∧ (contributing p.1 p.2).context 1 0 = some (contributing p.1 p.2).cur ∧ (contributing p.1 p.2).cur.findColl 0 = some (ownColl p.1 p.2)
        ∧ (contributing p.1 p.2).servedColl 0 0 = none ∧ (contributing p.1 p.2).slotOfLin 1 0 = some (contributing p.1 p.2).cur.key)
      ∧ (contributing .toUnit []).contributed 1 (ownColl .toUnit []) = false ∧ (contributing .toUnit [0]).contributed 1 (ownColl .toUnit [0]) = true := by
  decide +kernel

/-- Unit 0 has one member of two, both, and has failed; and the thread's own member with another die's. -/
def delivering (c : Coll) : State :=
  let s := contributing .atUnit [0]
  { s with colls := [c], ev := { s.ev with num := 0 } }

def ownMember : Contribution := { (ownColl .atUnit [0]).contribution (contributing .atUnit [0]).cur with member := 0 }
def jobOfTwo : Job := { testJob with dies := [0, 1], extents := [2], coords := [0] }
def halfHere : Coll := { aColl [0, 1] with got := [ownMember, remoteContribution 1 collBytes (List.replicate 16 0) []] }

/-- A collective whose result is on its way: one chunk of it waits at the Millstone's circuit, or none. -/
def onItsWay (box : Bool) : State :=
  let s := delivering { halfHere with delivering := true }
  let c := { circuit 7 32 0 with outbox := if box then [(ownMember.opId, 0, (aFrame 0 0 .here).out)] else [] }
  { s with launches := [{ testLaunch with circuits := [circuit 5 0 1, circuit 6 0 32, c] }] }

theorem test_witness_delivery :
    (∀ c ∈ [aColl [0], aColl [0, 1], halfHere, { aColl [0] with ending := some illegalEnding }],
        (delivering c).ev.num < 64 ∧ (delivering c).servedColl 0 0 = some c ∧ findJob (delivering c).jobs c.job = some jobOfTwo)
      ∧ ((aColl [0]).ending = none ∧ (aColl [0]).delivering = false ∧ (aColl [0]).full jobOfTwo = false ∧ (delivering (aColl [0])).goneMembers (aColl [0]) jobOfTwo = []
        ∧ (delivering (aColl [0])).starved (aColl [0]) jobOfTwo = false)
      ∧ ((onItsWay true).delivers halfHere = true ∧ (onItsWay false).delivers halfHere = false)
      ∧ (∀ x ∈ [ownMember], (delivering { halfHere with got := [ownMember] }).agentOfLin x.launch x.lin ≠ none)
      ∧ (halfHere.ending = none ∧ halfHere.delivering = false ∧ halfHere.full jobOfTwo = true
        ∧ (halfHere.got.filter fun y => y.here) = [ownMember] ∧ isWalk halfHere.recd = false ∧ (delivering halfHere).bufferErr halfHere = none)
      ∧ (∃ bs, (delivering halfHere).defaultBytes halfHere jobOfTwo = .ok bs ∧ bs.length = 16)
      ∧ ∃ l d, findLaunch (delivering halfHere).launches ownMember.launch = some l ∧ findCircuit l.circuits ((ownMember.chs.drop 1).headD 0) = some d := by
  refine ⟨by decide +kernel, by decide +kernel, by decide +kernel, by decide +kernel, by decide +kernel,
    ⟨List.replicate 16 0, ok_of (by decide +kernel), by decide⟩, ⟨_, _, Eq.refl _, Eq.refl _⟩⟩

/-- The members have come in the order 1, 0; each element of member m holds the byte m four times. -/
theorem test_witness_reduction_order :
    collOp (aColl [1, 0]).recd < 3 ∧ collTree (aColl [1, 0]).recd = true ∧ collDims (aColl [1, 0]).recd = []
      ∧ ((aColl [1, 0]).got.map fun x => x.member).Perm (List.range (collDies jobOfTwo (aColl [1, 0]).recd).length)
      ∧ ∀ x ∈ (aColl [1, 0]).got, ∀ e, e < collElems (aColl [1, 0]).recd → (cp id).sourceElem (aColl [1, 0]) x e = .ok (x.member * 0x01010101) := by
  refine ⟨by decide +kernel, by decide +kernel, by decide +kernel, by decide +kernel, fun x hx e he => ok_of ?_⟩
  have h : ∀ x ∈ (aColl [1, 0]).got, ∀ e, e < collElems (aColl [1, 0]).recd →
      ((cp id).sourceElem (aColl [1, 0]) x e).toOption = some (x.member * 0x01010101) := by decide +kernel
  exact h x hx e he

/-! ### Module links -/

/-- Link 0, up to module 1 on all lanes. -/
def upLink : Link := { Link.reset 0 with peer := some (1, 0), st := .up, lanes := 0xFFFF }

/-- The machine of the copies with that link, changed, and an event that names it. -/
def linked (l : Link) (msg : Msg) : State :=
  let s := cp id
  { s with links := [l], ev := { s.ev with msg := msg } }

def dataFlit (seq : Nat) (m : Option LinkMsg) : Flit := { seq := seq, kind := 1, payload := [7], crc := flitCrc seq 1 [7], msg := m }

/-- A data flit whose CRC is wrong, and an idle flit. -/
def badFlit : Flit := { dataFlit 0 none with crc := flitCrc 0 1 [7] ^^^ 1 }
def idleFlit : Flit := { seq := 0, kind := 0, payload := [], crc := flitCrc 0 0 [], msg := none }

/-- The thread's LCPY on link 0, and how its peer names it. -/
def aRef : OpRef := { key := SlotId.first, launch := 1, lin := 0, op := 0 }
def anLcpy : CopyOp := CopyOp.fresh .lcpy .none ((fourAt 1 0x1000).tensor 0) ((fourAt 0 0x20000).tensor 0)
def sending : State := running anLcpy

/-- The next flit expected, one past a gap, one that came before, a bad one and an idle one. -/
theorem test_witness_flits :
    (∀ l ∈ [upLink, { upLink with st := .down }, { upLink with rx := 0xFFFFFF }], EventLink (linked l (.flit (dataFlit 0 none))) l)
      ∧ upLink.carries = true ∧ ({ upLink with st := .down } : Link).carries = false
      ∧ (dataFlit 0 none).seq = upLink.rx ∧ (dataFlit 0xFFFFFF none).seq ≠ upLink.rx ∧ (dataFlit 1 none).seq ≠ upLink.rx
      ∧ seqPast upLink.rx (dataFlit 1 none).seq = true ∧ seqPast upLink.rx (dataFlit 0xFFFFFF none).seq = false ∧ upLink.nacked ≠ some upLink.rx
      ∧ RefHere sending 0 aRef anLcpy := by
  unfold EventLink RefHere; decide +kernel

theorem test_witness_flit_crc : (dataFlit 0 none).good = true ∧ idleFlit.good = true ∧ badFlit.good = false ∧ idleFlit.kind ≠ 1 ∧ idleFlit.kind ≠ 2 := by
  refine ⟨decide_eq_true rfl, decide_eq_true rfl, ?_, by decide, by decide⟩
  have h (x : Word) : x ^^^ 1 ≠ x := fun h => absurd ((BitVec.xor_right_inj x).mp (h.trans BitVec.xor_zero.symm)) (by decide)
  exact decide_eq_false (h (flitCrc 0 1 [7]))

/-- The message of a flit: of a peer whose path is whole, and of one that has been declared failed. -/
theorem test_witness_flit_taken : upLink.peerAgent ∉ (linked upLink .none).lostModules
    ∧ upLink.peerAgent ∈ ({ linked upLink .none with lostModules := [upLink.peerAgent] } : State).lostModules := by decide

/-- An ACK of two of three flits and of one beyond them, and a NACK of the first flit kept and of one before it. -/
theorem test_witness_acknowledged :
    let l : Link := { upLink with acked := 5, tx := 8, replay := [dataFlit 5 none, dataFlit 6 none, dataFlit 7 none] }
    (seqDist l.acked 7 ≤ l.replay.length ∧ l.replay.length < seqDist l.acked 9) ∧ seqDist 5 l.tx ≤ l.replay.length ∧ l.replay.length < seqDist 4 l.tx := by decide

/-- ACKs that are due after 64 flits and after 256 CCLK, and a message to send with room in the replay buffer and without. -/
theorem test_witness_link_cycle :
    (seqDist upLink.ackSent ((linked upLink .none).ackPoint { upLink with rx := 64 }) = 64 ∧ upLink.st ≠ .down)
      ∧ (0 < seqDist upLink.ackSent ((linked upLink .none).ackPoint { upLink with rx := 1 }) ∧ upLink.ackAt + 256 ≤ ({ linked upLink .none with cycle := 256 } : State).cycle)
      ∧ ({ upLink with queue := [.performed aRef 0] } : Link).sends = true ∧ upLink.wire = upLink.tx ∧ upLink.replay.length < 4096
      ∧ 4096 ≤ ({ upLink with replay := List.replicate 4096 (dataFlit 0 none) } : Link).replay.length := by
  exact ⟨by decide, by decide, by decide, by decide, by decide, Nat.le_of_eq List.length_replicate.symm⟩

/-- What a Millstone holds since the cycle 0, and the machine in which it does, at a cycle; the peer owns the page at 0x10000 or not; with the
circuit to the die or none. -/
def heldMsg (m : LinkMsg) (via : Option (Nat × Nat)) (ans : Option LinkMsg) : HeldMsg := { link := 0, msg := m, since := 0, last := 0, via := via, answer := ans }

def holdingMsg (h : HeldMsg) (owned circ : Bool) (cycle : Nat) : State :=
  let s := linked upLink .none
  { s with
    held := [h], cycle := cycle
    tokens := [region 0x10000 16 (if owned then 0x30000001 else self) self .excl]
    launches := if circ then s.launches else [testLaunch] }
def holding (m : LinkMsg) (owned circ : Bool) (cycle : Nat) : State := holdingMsg (heldMsg m none none) owned circ cycle

def ringJob : Job := { testJob with dies := [0, 1], extents := [2], coords := [0] }
def aChunk : LinkMsg := .chunk aRef 0 none [(0x10000, 7)]
def strayChunk : LinkMsg := .chunk aRef 0 none [(0x7000000, 7)]
def aRemoteCatom : LinkMsg := .catom aRef 0x10040 8 0 .add 1 0
def anAnswer : LinkMsg := .performed aRef 0

theorem test_witness_held_messages :
    (∀ m ∈ [aChunk, aRemoteCatom], ∀ circ ∈ [true, false], HeldHere (holding m true circ 0) (heldMsg m none none) upLink ringJob
        ∧ (holding m true circ 0).msgHome ringJob m ≠ none ∧ (holding m true circ 0).carrier ringJob 0 0 = if circ then some (1, 7) else none)
      ∧ (∀ ans ∈ [none, some anAnswer], HeldHere (holdingMsg (heldMsg aChunk (some (1, 7)) ans) true true 0) (heldMsg aChunk (some (1, 7)) ans) upLink ringJob
        ∧ (holdingMsg (heldMsg aChunk (some (1, 7)) ans) true true 0).carrierLive (1, 7) = true
        ∧ (holdingMsg (heldMsg aChunk (some (1, 7)) ans) true false 0).carrierLive (1, 7) = false)
      ∧ (HeldHere (holding strayChunk true true 0) (heldMsg strayChunk none none) upLink ringJob ∧ (holding strayChunk true true 0).msgHome ringJob strayChunk = none
        ∧ (holding strayChunk true true 0).remoteFault ringJob upLink.peerAgent [(0x7000000, 7)] ≠ none)
      ∧ ((holding aChunk true true 0).cycle < 0 + 2 ^ 20 ∧ 0 + 2 ^ 20 ≤ (holding aChunk true false (2 ^ 20)).cycle) := by
  unfold HeldHere; decide +kernel

/-- The peer owns the region and may store in it; and it may not. A chunk through the handle of a pair, of a region that holds two halves and of one
that is too small. -/
theorem test_witness_remote_admitted :
    (∃ a, (holding aChunk true true 0).remoteAdmit ringJob upLink.peerAgent 0x10000 0 .store = .ok a)
      ∧ (∃ a, (holding aRemoteCatom true true 0).remoteAdmit ringJob upLink.peerAgent 0x10040 0 .rmw = .ok a)
      ∧ (∃ c d, (holding aChunk false true 0).remoteFault ringJob upLink.peerAgent [(0x10000, 7)] = some (c, d))
      ∧ (∃ x d, (holding aRemoteCatom false true 0).remoteAdmit ringJob upLink.peerAgent 0x10040 0 .rmw = .error (x, d))
      ∧ (holding aChunk true true 0).bad = [] ∧ (holding aChunk true true 0).remoteShadow ringJob none [(0x10000, 7)] = .ok [(0x10000, 7)]
      ∧ ((findRegion (holding aChunk true true 0).tokens 1 0x10000).map fun e => e.st) = some .excl
      ∧ findRegion (holding aChunk true true 0).tokens 1 0x10000 = some (region 0x10000 16 0x30000001 self .excl)
      ∧ (region 0x20000 17 self self .excl).base ≤ 0x20000 ∧ 17 ≤ (region 0x20000 17 self self .excl).log2 ∧ (region 0x10000 16 self self .excl).log2 < 17 := by
  have ok {α : Type} {r : Except (BitVec 8 × Nat) α} (h : r.toOption.isSome = true) : ∃ a, r = .ok a := by
    cases r with
    | ok a => exact ⟨a, rfl⟩
    | error e => exact nomatch h
  have err {α : Type} {r : Except (BitVec 8 × Nat) α} (h : r.toOption.isSome = false) : ∃ c d, r = .error (c, d) := by
    cases r with
    | ok a => exact nomatch h
    | error e => exact ⟨e.1, e.2, rfl⟩
  exact ⟨ok (by decide +kernel), ok (by decide +kernel), ⟨5, 0, by decide +kernel⟩, err (by decide +kernel), by decide, rfl, by decide +kernel,
    by decide +kernel, by decide, by decide, by decide⟩

/-- A handshake of this end that both sides have joined, and one of the peer. -/
def joined (rate : Option Nat) : Shake :=
  { f := 0, b := 16, failed := 1, before := 0xFFFF, rate := rate, mine := true, mask := 0xFFFF, peerMask := some 0xFFFE, passed := false }
def theirs : Shake := { joined none with mine := false, passed := true }

/-- Lane 0 of a link that uses all lanes, of one that does not use it, and of one that has no other; a link at its boundary, without and
with another rate, as the peer's flits or an event show, and one not there; and a retrain in time and too late. -/
theorem test_witness_lanes :
    (∀ l ∈ [upLink, { upLink with lanes := 0xFFFE }, { upLink with usable := 1 }, { upLink with st := .retrain, shake := some (joined (some 1)) },
          { upLink with st := .restripe, shake := some (joined none), wire := 16 }, { upLink with st := .restripe, shake := some (joined (some 1)), wire := 16 },
          { upLink with st := .restripe, shake := some theirs }, { upLink with st := .restripe, shake := some (joined none), wire := 3, tx := 4 }],
        EventLink (linked l (.laneMap 0xFFFE 0 16)) l ∧ NoneOnLink (linked l (.laneMap 0xFFFE 0 16)) l.num ∧ l.st ≠ .down)
      ∧ (laneBit (linked upLink .none) = 1 ∧ upLink.shake = none ∧ upLink.lanes.getLsbD 0 = true ∧ (0xFFFE : BitVec 16).getLsbD 0 = false
        ∧ laneSet (upLink.usable &&& ~~~ 1 &&& upLink.peerUsable) ≠ 0 ∧ laneSet ((1 : BitVec 16) &&& ~~~ 1 &&& upLink.peerUsable) = 0)
      ∧ ((joined none).peerMask ≠ none ∧ seqPast (joined none).b 16 = true ∧ seqPast (joined none).b 3 = false ∧ theirs.passed = true
        ∧ laneSet ((joined none).mask &&& (0xFFFE : BitVec 16)) ≠ 0
        ∧ laneSet (upLink.usable &&& (0xFFFE : BitVec 16)) = laneSet ((joined none).mask &&& (0xFFFE : BitVec 16))
        ∧ laneSet ((0xFFFC : BitVec 16) &&& (0xFFFE : BitVec 16)) ≠ laneSet ((joined none).mask &&& (0xFFFE : BitVec 16)))
      ∧ 0 + 2 ^ 21 ≤ ({ linked upLink .none with cycle := 2 ^ 21 } : State).cycle ∧ ({ linked upLink .none with cycle := 2 ^ 21 - 1 } : State).cycle < 0 + 2 ^ 21 := by
  unfold EventLink NoneOnLink; decide +kernel

/-- Requests for a lower rate and for none; and two handshakes that cross, at the lower end and at the other. -/
theorem test_witness_crossing :
    upLink.rate < 1 ∧ 1 ≤ 2 ∧ (0 : Nat) ≤ upLink.rate ∧ ({ upLink with st := .restripe, shake := some (joined none) } : Link).carries = true
      ∧ ((joined none).mine = true ∧ ((joined none).f, (joined none).b) ≠ (32, 48))
      ∧ (linked upLink .none).lowerEnd upLink = true ∧ (linked upLink .none).lowerEnd { upLink with num := 1, peer := some (0, 0) } = false := by decide +kernel

/-- A try at bring-up that is due and one that is not; exchanges that agree, that another job refuses, and with no lane; a drain that is over and one
that is late; and a link with the thread's veto. The peer takes every version up to the lowest that this module does. -/
def downLink : Link := { Link.reset 0 with tryAt := 7 }
def tryingLink : Link := { downLink with trying := true }
def bringing (job word : Nat) : State :=
  let s := linked tryingLink (.peer job 1 0 [1] 0 Config.fantailLow 0xFFFF)
  { s with ev := { s.ev with word := BitVec.ofNat 32 word } }

def vetoing : State :=
  let s := running { CopyOp.fresh .catom .none ((fourAt 0 0x20000).tensor 0) ((fourAt 0 0x20000).tensor 0) with tw := 0x10007, arrived := [(0, 0)] }
  { s with links := [{ upLink with draining := true }], cycle := 200000 }

theorem test_witness_tries :
    (∀ c ∈ [6, 7], EventLink { linked downLink .none with cycle := c } downLink ∧ downLink.mayTry = true ∧ (linked downLink .none).ev.msg = .none)
      ∧ (6 < downLink.tryAt ∧ downLink.tryAt ≤ 7) ∧ upLink.mayTry = false
      ∧ (linked downLink .none).linkJobNum 0 = 1 ∧ tryingLink.trying = true := by
  unfold EventLink; decide +kernel

theorem test_witness_bring_up :
    (∀ p ∈ [(1, 0xFFFF), (2, 0xFFFF), (1, 0)], EventLink (bringing p.1 p.2) tryingLink ∧ NoneOnLink (bringing p.1 p.2) 0 ∧ tryingLink.mayTry = true
        ∧ tryingLink.st = .down)
      ∧ (laneSet ((bringing 1 0xFFFF).ev.word.setWidth 16 &&& 0xFFFF) ≠ 0 ∧ laneSet ((bringing 1 0).ev.word.setWidth 16 &&& 0xFFFF) = 0)
      ∧ (bringing 1 0xFFFF).refusal tryingLink 1 1 0 0 Config.fantailLow = none ∧ (bringing 2 0xFFFF).refusal tryingLink 2 1 0 0 Config.fantailLow = some 2 := by
  refine ⟨by unfold EventLink NoneOnLink; decide +kernel, by decide +kernel, ?_, ?_⟩
  · have h : (bringing 1 0xFFFF).linkJobNum tryingLink.num = 1 := by decide +kernel
    rw [State.refusal, h]
    simp [tryingLink, downLink, Link.reset]
  · have h : (bringing 2 0xFFFF).linkJobNum tryingLink.num = 1 := by decide +kernel
    rw [State.refusal, h]
    simp

theorem test_witness_drains :
    (EventLink (linked { upLink with draining := true } .none) { upLink with draining := true } ∧ upLink.shake = none ∧ upLink.replay = [] ∧ upLink.queue = []
        ∧ (linked { upLink with draining := true } .none).vetoed 0 = false)
      ∧ EventLink vetoing { upLink with draining := true } ∧ upLink.drainAt + 200000 ≤ vetoing.cycle ∧ vetoing.vetoed 0 = true
      ∧ (holding aRemoteCatom true true 0).vetoed 0 = true := by
  unfold EventLink; decide +kernel


/-! ### The host port -/

theorem recNat_append (h x : List Byte) (o n : Nat) (hn : o + n ≤ h.length) : recNat (h ++ x) o n = recNat h o n := by
  rw [recNat, recNat, List.drop_append_of_le_length (by omega), List.take_append_of_le_length (by rw [List.length_drop]; omega)]

theorem recZero_append (h x : List Byte) (o n : Nat) (hn : o + n ≤ h.length) : recZero (h ++ x) o n = recZero h o n := by
  rw [recZero, recZero, List.drop_append_of_le_length (by omega), List.take_append_of_le_length (by rw [List.length_drop]; omega)]

/-- A command frame without its digest. -/
def header (seq code job : Nat) (body : List Byte) : List Byte :=
  bytesOf 4 0x4B435031 ++ bytesOf 2 1 ++ bytesOf 2 1 ++ bytesOf 8 seq ++ bytesOf 4 code ++ bytesOf 4 job ++ bytesOf 4 body.length ++ bytesOf 4 0 ++ body

/-- Its fields read back. -/
def headerOk (seq code job : Nat) (body : List Byte) : Bool :=
  let h := header seq code job body
  decide (recNat h 0x18 4 = body.length) && decide (body.length ≤ 8752) && decide (recNat h 0 4 = 0x4B435031) && decide (recNat h 4 2 = 1)
    && decide (recNat h 6 2 = 1) && recZero h 0x1C 4 && decide (recNat h 8 8 = seq) && decide (recNat h 0x10 4 = code) && decide (recNat h 0x14 4 = job)

/-- The command that it is, from source 7. -/
def command (seq code job : Nat) (body : List Byte) : Cmd := { src := 7, seq := seq, code := code, job := job, digest := sha3 (header seq code job body), body := body }

theorem cmdOf_frame (seq code job : Nat) (body : List Byte) (ok : headerOk seq code job body = true) :
    cmdOf 7 (frameBytes 1 seq code job 0 body) = some (command seq code job body) := by
  have hl : (header seq code job body).length = 32 + body.length := by simp [header, bytesOf]; omega
  have hs := length_sha3 (header seq code job body)
  have hd : (header seq code job body).drop 32 = body := by
    have : (header seq code job body) = (bytesOf 4 0x4B435031 ++ bytesOf 2 1 ++ bytesOf 2 1 ++ bytesOf 8 seq ++ bytesOf 4 code ++ bytesOf 4 job
      ++ bytesOf 4 body.length ++ bytesOf 4 0) ++ body := rfl
    rw [this]; exact List.drop_left' (by simp [bytesOf])
  simp only [headerOk, Bool.and_eq_true, decide_eq_true_eq] at ok
  obtain ⟨⟨⟨⟨⟨⟨⟨⟨a, b⟩, c⟩, d⟩, e⟩, f⟩, g⟩, h⟩, i⟩ := ok
  have hf : frameBytes 1 seq code job 0 body = header seq code job body ++ sha3 (header seq code job body) := rfl
  have hn : (header seq code job body ++ sha3 (header seq code job body)).length = 96 + body.length := by rw [List.length_append]; omega
  have ht : 96 + body.length - 64 = (header seq code job body).length := by omega
  rw [hf, cmdOf]
  simp only [hn, ht, List.take_left', List.drop_left']
  rw [recNat_append _ _ _ _ (by omega), recNat_append _ _ _ _ (by omega), recNat_append _ _ _ _ (by omega), recNat_append _ _ _ _ (by omega),
    recNat_append _ _ _ _ (by omega), recNat_append _ _ _ _ (by omega), recNat_append _ _ _ _ (by omega), recZero_append _ _ _ _ (by omega)]
  simp [a, b, c, d, e, f, g, h, i, hd, command]

/-- A state at whose port a frame from source 7 stands, with the next sequence number 5. -/
def port (s : State) (seq code job : Nat) (body : List Byte) (h : HostState → HostState) : State :=
  { s with
    ev := { s.ev with msg := .frame 7 (frameBytes 1 seq code job 0 body) }
    host := h { s.host with opened := true, recovery := false, addrs := [7], next := 5, waiting := none, audit := [] } }

theorem came {s : State} {seq code job : Nat} {body : List Byte} {h : HostState → HostState} (ok : headerOk seq code job body = true)
    (tk : (port s seq code job body h).host.takes 7 code = true) : FrameCame (port s seq code job body h) (command seq code job body) :=
  ⟨7, _, rfl, cmdOf_frame seq code job body ok, tk⟩

/-- The next command of a code is accepted. -/
theorem accepted {s : State} {code job : Nat} {body : List Byte} (ok : headerOk 5 code job body = true) :
    Accepted (port s 5 code job body id) (command 5 code job body) code :=
  ⟨came ok rfl, rfl, rfl, rfl, .inr (.inl (by simp [port])), fun _ => by simp [port]⟩

/-- An answered command of the journal. -/
def journaled : JournalEntry := { seq := 3, code := 0x0B, status := 0, time := 0, digest := [], answer := [1, 2, 3] }

/-- The frames that each clause speaks of, at the numbers where clauses meet. -/
theorem test_witness_command_order :
    ((port (cp id) 5 0x0B 1 [] id).ev.msg = .frame 7 (frameBytes 1 5 0x0B 1 0 []) ∧ cmdOf 7 [] = none)
      ∧ (∀ seq ∈ [3, 4, 5, 6], FrameCame (port (cp id) seq 0x0B 1 [] id) (command seq 0x0B 1 []))
      ∧ (port (cp id) 6 0x0B 1 [] id).host.next < 6 ∧ (command 6 0x0B 1 []).code ≠ 0x0C
      ∧ ((port (cp id) 3 0x0B 1 [] fun h => { h with journal := [journaled] }).host.journal.find? fun e => decide (e.seq = 3)) = some journaled
      ∧ FrameCame (port (cp id) 3 0x0B 1 [] fun h => { h with next := 65540 }) (command 3 0x0B 1 [])
      ∧ (∀ e ∈ (port (cp id) 3 0x0B 1 [] fun h => { h with next := 65540, journal := [] }).host.journal, e.seq ≠ 3)
      ∧ FrameCame (port (cp id) 5 0x02 1 [] fun h => { h with addrs := [] }) (command 5 0x02 1 [])
      ∧ FrameCame (port (cp id) 5 0x02 1 [] fun h => { h with waiting := some ((command 4 3 1 []).pend 0 0) }) (command 5 0x02 1 []) := by
  refine ⟨⟨rfl, by decide +kernel⟩, fun seq h => came ?_ rfl, by decide, by decide, by decide +kernel, came (by decide +kernel) rfl, by simp [port],
    came (by decide +kernel) rfl, came (by decide +kernel) rfl⟩
  simp only [List.mem_cons, List.not_mem_nil, or_false] at h
  rcases h with rfl | rfl | rfl | rfl <;> decide +kernel

/-- The audit log full, at exactly its size. -/
theorem test_witness_audit_full : let h (h : HostState) : HostState := { h with audit := List.replicate 65536 { index := 0, time := 0, kind := 0, agent := 0, data := [], hash := [] } }
    FrameCame (port (cp id) 5 0x11 1 [] h) (command 5 0x11 1 []) ∧ 65536 ≤ (port (cp id) 5 0x11 1 [] h).host.audit.length :=
  ⟨came (by decide +kernel) rfl, Nat.le_of_eq List.length_replicate.symm⟩

/-- A launch record of one instance with 64 KiB of scratchpad, of a program at address 0. -/
def oneInstance : List Byte :=
  [1, 0, 0, 0, 0, 1, 0, 4] ++ bytesOf 8 65536 ++ List.replicate 48 0 ++ bytesOf 4 1 ++ bytesOf 4 1 ++ List.replicate 440 0

/-- A JOB_CREATE of die 2 alone, on a torus of one module. -/
def createBody : List Byte := bytesOf 4 4 ++ [1, 0] ++ bytesOf 2 0 ++ bytesOf 8 1 ++ bytesOf 8 0 ++ List.replicate 16 0

/-- A MAP of page 0x40000 on die 0, writable. -/
def mapBody : List Byte := bytesOf 8 0x40000 ++ bytesOf 8 0x4002F ++ bytesOf 8 0

/-- The machine of the copies, whose job has its table. -/
def jobs : State :=
  let s := cp id
  { s with jobs := s.jobs.map fun j => { j with root := tableRoot 0, tables := 1 } }

/-- Every command is accepted somewhere. -/
theorem test_witness_accepted : ∀ code ∈ List.range 18, ∀ body ∈ [[], createBody, mapBody, oneInstance, List.replicate 64 0],
    Accepted (port jobs 5 code 1 body id) (command 5 code 1 body) code := fun code hc body hb => accepted (by
  have : ∀ body ∈ [[], createBody, mapBody, oneInstance, List.replicate 64 0], ∀ code ∈ List.range 18, headerOk 5 code 1 body = true := by decide +kernel
  exact this body hb code hc)

theorem test_witness_job_commands :
    ((port jobs 5 1 1 createBody id).freePartition.isSome = true ∧ PartitionFree (port jobs 5 1 1 createBody id) (command 5 1 1 createBody))
      ∧ (findJob (port jobs 5 2 1 [] id).jobs 1).isSome = true
      ∧ (let waits (s : State) : State := { s with ev := EvArgs.none, host := { s.host with waiting := some ((command 4 2 1 []).pend 1 0) } }
        (waits jobs).jobIdle 1 = false ∧ (waits { jobs with launches := [], cur := Slot.reset SlotId.first }).jobIdle 1 = true) := by
  unfold PartitionFree; decide +kernel

theorem test_witness_map : let c := command 5 3 1 mapBody
    let t := taken (port jobs 5 3 1 mapBody id) c
    ∃ j, findJob (port jobs 5 3 1 mapBody id).jobs 1 = some j ∧ t.mapBad j (c.num 0 8) 16 (BitVec.ofNat 64 (c.num 8 8)) = false
      ∧ c.num 16 1 = 0 ∧ ((t.copyFrames j 16 (BitVec.ofNat 64 (c.num 8 8))).setPage j (c.num 0 8) 16 (BitVec.ofNat 64 (c.num 8 8))).isSome = true :=
  ⟨_, rfl, by decide +kernel, by decide +kernel, by decide +kernel⟩

/-- The thread has a store in flight to the page at 0x10000, and to none at 0x20000. -/
theorem test_witness_map_ends :
    let s := cp fun t => { t with scop := some { testScop (.waiting 7) with va := 0x10040 } }
    s.pageUsed 1 0x10000 (2 ^ 16) = true ∧ s.pageUsed 1 0x20000 (2 ^ 16) = false := by decide +kernel

/-- A submission is accepted, and its record's copy finds its page; the pool is full; it is rejected. -/
def Submitted.kept (r : Submitted) (f : State → Option State) : Bool :=
  match r with
  | .accepted _ v => (f v).isSome
  | _ => false

theorem accepted_of {r : Submitted} {f : State → Option State} (h : Submitted.kept r f = true) : ∃ num v w, r = .accepted num v ∧ f v = some w := by
  cases r with
  | accepted num v => exact ⟨num, v, _, rfl, (Option.some_get h).symm⟩
  | full => exact nomatch h
  | rejected => exact nomatch h

def Submitted.code (r : Submitted) : Nat :=
  match r with
  | .accepted _ _ => 0
  | .full => 1
  | .rejected => 2

theorem full_of {r : Submitted} (h : Submitted.code r = 1) : r = .full := by cases r <;> first | rfl | exact nomatch h
theorem rejected_of {r : Submitted} (h : Submitted.code r = 2) : r = .rejected := by cases r <;> first | rfl | exact nomatch h

/-- The machine with as many launches in the pool as it holds. -/
def pooled (s : State) : State := { s with launches := List.replicate 4096 { testLaunch with inPool := true } }

def theJob : Job := { testJob with dies := [0, 1], extents := [2], coords := [0], root := tableRoot 0, tables := 1 }

/-- A record that is accepted, one that finds the pool full, and one of zeros. -/
theorem test_witness_submit : let c := command 5 4 1 oneInstance
    let s := port jobs 5 4 1 oneInstance id
    let sub (s : State) (r : List Byte) : Submitted := (taken s c).submit theJob .host false (BitVec.ofNat 64 (keptVa 0)) r ((taken s c).mgmtRead theJob)
    (findJob s.jobs 1 = some theJob ∧ s.copyPage 1 = some 0 ∧ c.body.length = 512)
      ∧ (∃ num v w, sub s c.body = .accepted num v ∧ v.keepPage theJob 0 true c.body = some w)
      ∧ sub (port (pooled jobs) 5 4 1 oneInstance id) c.body = .full
      ∧ sub s (List.replicate 512 0) = .rejected :=
  ⟨by decide +kernel, accepted_of (by decide +kernel), full_of (by decide +kernel), rejected_of (by decide +kernel)⟩

/-- The launch and the thread by their numbers; a collective by its key. -/
theorem test_witness_cancel_and_preempt :
    ((command 5 5 1 (bytesOf 4 1)).num 4 1 ≠ 1 ∧ (findLaunch (port jobs 5 5 1 (bytesOf 4 1) id).launches ((command 5 5 1 (bytesOf 4 1)).num 0 4)).map (fun l => l.job) = some 1)
      ∧ (command 5 5 1 (bytesOf 4 7 ++ [1])).num 4 1 = 1
      ∧ (port jobs 5 6 1 (bytesOf 4 1) id).slotOfLin ((command 5 6 1 (bytesOf 4 1)).num 0 4) ((command 5 6 1 (bytesOf 4 1)).num 4 4) = some jobs.cur.key
      ∧ (jobs.slotAt jobs.cur.key).status = .bound := by decide +kernel

/-- A die of which one core is left, where a preemptible thread stands in the way of a launch that needs the whole half. -/
def crowded : State :=
  let big := [1, 0, 0, 0, 1, 1, 0, 4] ++ bytesOf 8 0xC00000 ++ oneInstance.drop 16
  let failed := (List.range 15).map fun g => { Core.reset (BitVec.ofNat 9 (g + 1)) with failed := true }
  let s := lab id
  { s with
    cores := testCore :: failed
    launches := [{ testLaunch with recd := [1, 0, 4, 0, 0, 1, 0, 4] ++ oneInstance.drop 8 },
      { testLaunch with num := 2, recd := big, unbound := [0], inPool := true, live := 0 }] }

theorem test_witness_wanted : crowded.wanted = some SlotId.first ∧ (lab id).wanted = none := by decide +kernel

/-- The thread of a YIELDABLE launch in the way of that candidate, with its halves its own; and a thread in nobody's way. -/
def yielding : State :=
  { crowded with launches := crowded.launches.map fun l => if l.num = 1 then { l with recd := [1, 0, 8, 0, 0, 1, 0, 4] ++ oneInstance.drop 8 } else l }

theorem test_witness_yield : yielding.launchFlag 3 = true ∧ SlotAwaited yielding ∧ yielding.halvesExcl = true ∧ ¬ SlotAwaited (lab id) := by
  unfold SlotAwaited; decide +kernel

/-- A page region lent to the host. -/
def lent (kind : AgentId) : State :=
  { jobs with tokens := [region 0x10000 16 kind self .lent] }

theorem test_witness_return_by_command : ∀ k ∈ [(0x40000000, 4), (0x30000001, 3)],
    findEntry (port (lent k.1) 5 7 1 (bytesOf 8 0x10010) id).tokens 1 ((command 5 7 1 (bytesOf 8 0x10010)).num 0 8 / 65536 * 65536)
      ((command 5 7 1 (bytesOf 8 0x10010)).num 0 8 % 64) = some (region 0x10000 16 k.1 self .lent) ∧ agentKind k.1 = k.2 := by decide +kernel

/-- The other module gives back one region or all that it was lent; and a region that another agent holds. -/
theorem test_witness_loan_back :
    ((lent 0x30000001).tokens.map fun e => (e.job, e.base, e.log2)).Nodup ∧ (region 0x10000 16 0x30000001 self .lent).owner = BitVec.ofNat 32 (0x30000000 + 1 % 65536)
      ∧ (∀ w, some 0x10010 = some w → (0x10000 : Nat) = w / 65536 * 65536 ∧ 16 = w % 64)
      ∧ (region 0x10000 16 0x40000000 self .lent).owner ≠ BitVec.ofNat 32 (0x30000000 + 1 % 65536) := by
  refine ⟨by decide, by decide, fun w h => ?_, by decide⟩
  obtain rfl := Option.some.inj h
  decide

/-- Link 0 up, in a restripe, quiesced and down. -/
theorem test_witness_links_by_command : ∀ st ∈ [LinkSt.up, .restripe, .quiesced, .down],
    findLink (port { cp id with links := [{ upLink with st := st }] } 5 8 1 [] id).links ((command 5 8 1 []).num 0 4) = some { upLink with st := st }
      ∧ upLink.draining = false ∧ upLink.quiesceReq = false := by decide +kernel

/-- ATTEST over 64 bytes, FAIL of cores 0 and 511 and of dies 0 and 31, and no slot twice. -/
theorem test_witness_attest_and_fail : (command 5 0x0D 1 (List.replicate 64 0)).body.length = 64
    ∧ (∀ g ∈ [0, 511], (command 5 0x11 1 (bytesOf 4 0 ++ bytesOf 4 g)).num 0 4 = 0 ∧ (command 5 0x11 1 (bytesOf 4 0 ++ bytesOf 4 g)).num 4 4 = g
        ∧ headerOk 5 0x11 1 (bytesOf 4 0 ++ bytesOf 4 g) = true)
      ∧ (∀ d ∈ [0, 31], (command 5 0x11 1 (bytesOf 4 1 ++ bytesOf 4 d)).num 0 4 = 1 ∧ (command 5 0x11 1 (bytesOf 4 1 ++ bytesOf 4 d)).num 4 4 = d
        ∧ headerOk 5 0x11 1 (bytesOf 4 1 ++ bytesOf 4 d) = true)
      ∧ SlotsStandOnce (port jobs 5 0x11 1 (bytesOf 4 0 ++ bytesOf 4 511) id) := by unfold SlotsStandOnce; decide +kernel

/-- DOWNLOAD while a job lives is not good. What makes one good is the signature check, which the manual leaves open: without jobs, a bundle whose
three keys have the fused digest and whose signatures it takes is good. -/
theorem test_witness_download (b : List Byte) :
    (((port jobs 5 0x10 1 b id).host.recovery || (port jobs 5 0x10 1 b id).jobs.isEmpty) && (bundleImages b).all (port jobs 5 0x10 1 b id).host.accepts) = false
      ∧ ((∀ f ∈ bundleImages b, sha3 f.key = Config.fusedKeyDigest ∧ Config.mlDsaVerify f.key (sha3 f.bytes) f.sig = true) → let s := port { jobs with jobs := [] } 5 0x10 1 b id
        ((s.host.recovery || s.jobs.isEmpty) && (bundleImages b).all s.host.accepts) = true) := by
  refine ⟨Bool.and_eq_false_imp.mpr (fun h => nomatch h), fun h => ?_⟩
  have hz : (port { jobs with jobs := [] } 5 0x10 1 b id).host.fuse = 0 := rfl
  simp only [Bool.and_eq_true, List.all_eq_true, HostState.accepts, hz]
  exact ⟨rfl, fun f hf => ⟨⟨decide_eq_true (h f hf).1, (h f hf).2⟩, by simp⟩⟩

/-! ### RDMA, walks and the patrol -/

/-- The page at 0x10000 belongs to the host, the one at 0x20000 to the thread. -/
def hosted (open_ : Bool) : State :=
  let s := cp id
  { s with
    tokens := [region 0x10000 16 0x40000000 self .excl, region 0x20000 16 self self .excl]
    host := { s.host with opened := open_, recovery := false, addrs := [7] }
    ev := { s.ev with msg := .rdma 7 0 1 0x10040 [1, 2] } }

theorem test_witness_rdma :
    ((hosted true).host.opened = true ∧ (hosted false).host.opened = false ∧ (hosted true).host.recovery = false ∧ (7 : BitVec 128) ∈ (hosted true).host.addrs
        ∧ (8 : BitVec 128) ∉ (hosted true).host.addrs ∧ (hosted true).host.addrs ≠ [] ∧ findJob (hosted true).jobs 1 = some ringJob ∧ findJob (hosted true).jobs 2 = none)
      ∧ ((port (cp id) 5 0 0 [] fun h => { h with addrs := [] }).host.addrs = [] ∧ (port (cp id) 5 0 0 [] fun h => { h with addrs := [] }).host.opened = true)
      ∧ ∀ w, ((List.range 2).mapM fun i => (hosted true).rdmaKey ringJob (0x10040 + i) w) = some [0x10040, 0x10041]
          ∧ ((List.range 2).mapM fun i => (hosted true).rdmaKey ringJob (0x20040 + i) w) = none ∧ (hosted true).bad = []
          ∧ (∀ k ∈ [0x10040, 0x10041], eccAt (hosted true).bad k = none) ∧ ∃ k ∈ [0x10040, 0x10041], eccAt [(0x10040, 0)] k ≠ none := by decide +kernel

/-- A walk of the thread's core for job 1 at 0x10000, in tables of zeros and in tables with the page. -/
def walking (page : Bool) : State :=
  let s := if page then ((jobs.putPte theJob 0x10000 4 0x10027 4 1 (tableRoot 0)).map Prod.fst).getD jobs else jobs
  { s with cores := [], ev := { s.ev with num := 0, addr := 0x10000, word := 1 } }

theorem test_witness_walks :
    (∀ b, (findJob (walking b).jobs 1).map (fun j => j.root) = some (tableRoot 0) ∧ tlbFind ((walking b).core 0).tlb 1 0x10000 = none)
      ∧ inPages 0x10000 = true ∧ (walkFrom (walking false).mem [] 0 0x10000 4 1 (tableRoot 0)).toOption.isSome = false
      ∧ (walkFrom (walking true).mem [] 0 0x10000 4 1 (tableRoot 0)).toOption.isSome = true := by decide +kernel

theorem test_witness_patrol : ∀ n ∈ [0, 511], ({ cp id with ev := { (cp id).ev with num := n } } : State).ev.num = n ∧ n < 512 := by decide

/-- LAUNCH of a record in the thread's half: accepted, turned away by a full pool, and rejected (s5 = 0, 1 and 2). -/
def launching (f : State → State) : State := f { addressed id with mem := memWrites [] (cellsAt 0x000F000000001000 oneInstance) }
def answerOf (s : State) : Option (Word × Nat) :=
  match exec (.launch 5 2) s with
  | .next u => some (u.getS 5, u.launches.length)
  | _ => none

theorem test_witness_launch_answers : answerOf (launching id) = some (0, 2) ∧ answerOf (launching pooled) = some (1, 4096)
    ∧ answerOf (addressed id) = some (2, 1) := by decide +kernel

/-! ### The whole machine -/

/-- What a fetch gives: a word, a fault or a wait. -/
def fetchWord (f : Fetched) : Option Word32 :=
  match f with
  | .word w _ => some w
  | _ => none

def fetchFault (f : Fetched) : Option SFault :=
  match f with
  | .fault x => some x
  | _ => none

def fetchHeld (f : Fetched) : Bool :=
  match f with
  | .held _ => true
  | _ => false

theorem word_of {f : Fetched} {w : Word32} (h : fetchWord f = some w) : ∃ v, f = .word w v := by
  cases f with
  | word x v => exact ⟨v, by rw [Option.some.inj h]⟩
  | fault x => exact nomatch h
  | held _ => exact nomatch h

theorem fault_of {f : Fetched} {x : SFault} (h : fetchFault f = some x) : f = .fault x := by
  cases f with
  | word y v => exact nomatch h
  | fault y => exact congrArg _ (Option.some.inj h)
  | held _ => exact nomatch h

theorem held_of {f : Fetched} (h : fetchHeld f = true) : ∃ r, f = .held r := by
  cases f with
  | word y v => exact nomatch h
  | fault y => exact nomatch h
  | held r => exact ⟨r, rfl⟩

/-- The thread's scalar stream is to issue the word w from address 0. -/
def fetching (w : Nat) : State := (lab id).withFetchWord 32 w

/-- Its program counter at an address that it may not execute, and in a page of die 1 to which the circuit is being switched. -/
def astray (pc : BitVec 52) : State :=
  let s := lab fun t => t.setStr .scalar { t.scalar with pc := pc }
  let far : TlbEntry := { job := 1, base := 3, log2 := 16, pte := 0x80000030037, die := 0 }
  let c : Circuit := { circuit 5 1 0 with st := .resettling 9 }
  { s with
    agenda := [.issue SlotId.first .scalar], cores := [{ testCore with tlb := far :: testCore.tlb }], jobs := [{ testJob with dies := [0, 1] }]
    launches := [{ testLaunch with circuits := [{ circuit 6 0 1 with st := .resettling 9 }, c] }] }

theorem test_witness_step :
    (∀ s ∈ [fetching 0x04A63800, fetching 0, astray 0x10000, astray 0x30000],
        s.agenda = [.issue SlotId.first .scalar] ∧ (issuing s SlotId.first .scalar []).cur.status = .bound
          ∧ (issuing s SlotId.first .scalar []).cur.running .scalar = true ∧ s.tripped = false)
      ∧ (∃ v, (issuing (fetching 0x04A63800) SlotId.first .scalar []).fetch .scalar = .word 0x04A63800 v)
      ∧ decode .scalar (0x04A63800 : Word32).toNat = some (.add 5 6 7)
      ∧ (∃ v, (issuing (fetching 0) SlotId.first .scalar []).fetch .scalar = .word 0 v) ∧ decode .scalar (0 : Word32).toNat = none
      ∧ (issuing (astray 0x10000) SlotId.first .scalar []).fetch .scalar = .fault (flt 0x04 0 0x10000)
      ∧ (∃ r, (issuing (astray 0x30000) SlotId.first .scalar []).fetch .scalar = .held r)
      ∧ (issuing (lab fun t => { t with status := .free }) SlotId.first .scalar []).cur.status ≠ .bound
      ∧ (∀ w ∈ [(0x04A63800 : Nat), 0x14850002], ((lab id).regFault .scalar w) = none)
      ∧ ((lab fun t => { t with badS := [4] }).regFault .scalar 0x48E4D002).map (fun f => f.cause) = some 0x11 :=
  ⟨by decide +kernel, word_of (by decide +kernel), rfl, word_of (by decide +kernel), rfl, fault_of (by decide +kernel), held_of (by decide +kernel), by decide, by decide +kernel, by decide +kernel⟩

theorem test_witness_invariants : Memory.wf State.reset.mem = true ∧ SlotsStandOnce State.reset := by unfold SlotsStandOnce; decide +kernel

/-- In the state after reset every register is well formed, and steps go on from it. -/
theorem test_witness_registers : AllRegistersOk State.reset ∧ State.reset.agenda = [.event .moduleReset EvArgs.none] := by
  refine ⟨fun t ht => ?_, rfl⟩
  have : t = Slot.reset SlotId.first := by
    have h : State.reset.contexts = [Slot.reset SlotId.first] := rfl
    rw [h] at ht
    exact List.mem_singleton.mp ht
  subst this
  refine ⟨by decide, by decide, by decide, by decide, fun i u rs h => ?_, (fun l hl => nomatch hl), fun m => ?_, (fun l hl => nomatch hl)⟩
  · have : (Slot.reset SlotId.first).getV i = .zero := by simp [Slot.getV, Slot.reset, RunReg.reset]
    rw [this] at h; exact nomatch h
  · have : ((Slot.reset SlotId.first).getM m).tile = [] := by simp [Slot.getM, Slot.reset, MatReg.reset]
    rw [this]; exact ⟨List.Pairwise.nil, (fun e he => nomatch he)⟩

theorem test_witness_encodings : ∀ i ∈ [Instr.add 5 6 7, .vadd { d := 3, a := 1, b := 2, mask := none, c := false, t := .f32 }, .madd 1 2],
    i.wellFormed = true ∧ (encode i).isSome = true := by decide +kernel

theorem test_witness_isolation : encode (.add 5 6 7) ≠ none ∧ SlotsStandOnce (lab id)
    ∧ (match exec (.add 5 6 7) (lab id) with | .next u => u.cur.getS 5 | _ => 1) = 0 := by unfold SlotsStandOnce; decide +kernel

/-! ### Instructions that a check refuses (R77, R79, R81, R85, R87, R198) -/

def three (t : VType) : VArgs3 := { d := 3, a := 1, b := 2, mask := none, c := false, t := t }
def two (t : VType) : VArgs2 := { d := 3, a := 1, mask := none, c := false, t := t }
def one (t : VType) : VArgs1 := { d := 3, a := 1, c := false, t := t }
def mem (d : BitVec 5) (g : BitVec 2) : VMemArgs := { d := d, h := 0, rs := 0, g := g, imm := 0, t := .f32 }
def prod (fs : BitVec 4) : MmaArgs := { md := 0, ha := 0, hb := 0, fs := fs, z := false, f := false, ao := 0, bo := 0 }
def stor (fs : BitVec 4) : MstaArgs := { md := 0, h := 0, fs := fs, om := 0, e := false, rm := .all }

/-- Arithmetic on INT32 where a floating-point type must stand. -/
theorem test_ill_formed_types : ∀ i ∈ [Instr.vadd (three .i32), .vsub (three .i32), .vmul (three .i32), .vfma (three .i32), .vfnma (three .i32),
    .vdiv (three .i32), .vmin (three .i32), .vminNum (three .i32), .vmax (three .i32), .vmaxNum (three .i32), .vsqrt (two .i32), .vabs (two .i32),
    .vneg (two .i32), .vrint (two .i32), .vexp2 (one .i32), .vlog2 (one .i32), .vrcp (one .i32), .vrsq (one .i32), .vtanh (one .i32), .vsin (one .i32),
    .vcos (one .i32), .verf (one .i32), .vcvt { d := 3, a := 1, mask := none, c := false, t := .f32, src := .f32 }], i.wellFormed = false := by decide

/-- Groups past v31, loops without a level or a body, a shape register of s0, a format selector past lc5 and blocks past s31. -/
theorem test_ill_formed_ranges : ∀ i ∈ [Instr.vld (mem 31 1), .vst (mem 29 2), .vldr (mem 25 3), .vstr (mem 31 1), .vmov 31 0 1, .vmov 0 31 1,
    .loopImm 6 1 1, .loopReg 0 1 0, .vloopImm 7 1 1, .vloopReg 6 1 1, .mloopImm 0 1 0, .mloopReg 6 1 1, .cloopImm 6 1 1, .cloopReg 0 1 0,
    .vshapeReg 0, .mma (prod 14), .mmat (prod 15), .msta (stor 14), .mstq (stor 15), .cpyFill { hd := 1, p := 31, tag := 0, r := false },
    .catomAdd { hd := 1, p := 30, tag := 0, r := false }], i.wellFormed = false := by decide

/-- The last group, level, selector and blocks that fit. -/
theorem test_well_formed_bounds : ∀ i ∈ [Instr.vld (mem 30 1), .vmov 24 0 3, .loopImm 5 1 1, .vshapeReg 31, .mma (prod 13), .msta (stor 13),
    .cpyFill { hd := 1, p := 30, tag := 0, r := false }, .catomAdd { hd := 1, p := 29, tag := 0, r := false }], i.wellFormed = true := by decide

/-! ### What instructions do -/

/-- The state after an instruction. -/
def after (i : Instr) (s : State) : State :=
  match exec i s with
  | .next u => u
  | _ => s

/-- The thread with s3 and s4 set, at address 0x200. -/
def alu (a b : Word) : State := lab fun t => ((t.setS 3 a).setS 4 b).setStr .scalar { t.scalar with pc := 0x200 }
def result (i : Instr) (a b : Word) : Word := (after i (alu a b)).getS 5

/-- The worked example of R98, and the sum that wraps. -/
theorem test_division_corners :
    result (.div 5 3 4) 0x8000000000000000 0xFFFFFFFFFFFFFFFF = 0x8000000000000000 ∧ result (.rem 5 3 4) 0x8000000000000000 0xFFFFFFFFFFFFFFFF = 0
      ∧ result (.divu 5 3 4) 0x8000000000000000 0xFFFFFFFFFFFFFFFF = 0 ∧ result (.div 5 3 4) 7 0 = 0xFFFFFFFFFFFFFFFF ∧ result (.remu 5 3 4) 7 0 = 7 := by decide +kernel

theorem test_products_and_counts :
    result (.mulhu 5 4 4) 0 0xFFFFFFFFFFFFFFFF = 0xFFFFFFFFFFFFFFFE ∧ result (.mulh 5 4 4) 0 0xFFFFFFFFFFFFFFFF = 0
      ∧ result (.clz 5 3) 0x10000 0 = 47 ∧ result (.ctz 5 3) 0x10000 0 = 16 ∧ result (.popc 5 3) 0x10000 0 = 1
      ∧ result (.add 5 3 4) 0xFFFFFFFFFFFFFFFF 1 = 0 := by decide +kernel

/-- li s5, 0x12345 in two words (the manual's worked example); a shift that keeps the sign; and -1 < 0. -/
theorem test_immediates : (after (.shori 5 5 0x2345) (after (.addi 5 0 1) (alu 0 0))).getS 5 = 0x12345
    ∧ result (.srai 5 3 3) 0xFFFFFFFFFFFFFFF0 0 = 0xFFFFFFFFFFFFFFFE ∧ result (.slti 5 3 0) 0xFFFFFFFFFFFFFFFF 0 = 1 := by decide +kernel

/-- Three words back, 256 bytes ahead with the link, and to an address that is no multiple of 4, which enters the handler (R100, R236). -/
theorem test_jumps :
    (after (.bne 3 4 0xFFFD) (alu 1 0)).cur.scalar.pc = 0x1F4 ∧ (after (.bne 3 4 0xFFFD) (alu 1 1)).cur.scalar.pc = 0x204
      ∧ (after (.jal 1 0x40) (alu 0 0)).cur.scalar.pc = 0x300 ∧ (after (.jal 1 0x40) (alu 0 0)).getS 1 = 0x204 := by decide +kernel

theorem test_misaligned_jump : let t := (after (.jalr 5 3 0) (alu 0x402 0)).cur
    t.ih = true ∧ t.fcause = 0x02 ∧ t.fpc = 0x200 ∧ t.faddr = 0x402 ∧ t.scalar.pc = 0x1000 ∧ t.getS 5 = 0 := by decide +kernel

/-- TRAP enters the handler with cause 0x80, and ERET at FPC + 4 goes on after it (R138, R236). -/
theorem test_trap_and_return : let u := after .trap (alu 0 0)
    u.cur.ih = true ∧ u.cur.fcause = 0x80 ∧ u.cur.fpc = 0x200 ∧ u.cur.scalar.pc = 0x1000
      ∧ (let v := after .eret (u.upd fun t => { t with fpc := t.fpc + 4 })
        v.cur.ih = false ∧ v.cur.scalar.pc = 0x204 ∧ v.cur.scalar.stopped = false) := by decide +kernel

/-- Agent identifier and THREAD_ID of slot 2 of core 14 of die 13, and its window (the manual's worked examples). -/
theorem test_identifiers : let k : SlotId := { core := 222, slot := 2 }
    k.agent = 0x16F40000 ∧ ({ Slot.reset k with status := .bound } : Slot).key.agent.toNat * 2 ^ 32 + 2 = 0x16F4000000000002
      ∧ windowCore 0x000F0001BC000000 = 222 ∧ inWindows 0x000F0001BC000000 = true := by decide +kernel

/-- Bytes of the thread's own scratchpad, loaded with sign and without. -/
theorem test_loads : let s : State := { (lab fun t => t.setS 4 here) with mem := [(0x000F000000001000, 0xFE), (0x000F000000001001, 0xFF)] }
    (after (.ld 5 4 .byte false 0) s).getS 5 = 0xFFFFFFFFFFFFFFFE ∧ (after (.ldu 5 4 .half false 0) s).getS 5 = 0xFFFE
      ∧ (after (.ld 5 4 .half false 1) s).getS 5 = 0 := by decide +kernel

/-! ### Vector instructions, by the manual's worked examples -/

def runs (t : VType) (rs : List (Word32 × Nat)) : RunReg := .runs t (rs.map fun r => { val := r.1, count := r.2 })

/-- A shape of 1 × n and VCAP 16, with v1, v2 and v3 set, and the mask of R147's example in v7. -/
def wide (n : Nat) (a b c : RunReg) : State :=
  lab fun t => { ((((t.setV 1 a).setV 2 b).setV 3 c).setV 7 (runs .i32 [(1, 10), (0, 6)])) with rows := 1, cols := n, bind := { t.bind with vcap := 16 } }

/-- What an instruction is to write: a run register, an e register, and flags. -/
def runsOf (i : Instr) (s : State) : List (BitVec 5 × RunReg) := (after i s).cur.vfly.flatMap fun l => l.runs
def eOf (i : Instr) (s : State) : List (BitVec 3 × Word) := (after i s).cur.vfly.filterMap fun l => l.ereg
def flagsOf (i : Instr) (s : State) : List FFlags := (after i s).cur.vfly.map fun l => l.flags

/-- R147: a masked product without and with coalescing. -/
def product (c : Bool) : VArgs3 := { d := 3, a := 1, b := 2, mask := some 7, c := c, t := .f32 }
def factors : State := wide 16 (runs .f32 [(0x3F800000, 4), (0x40000000, 12)]) (runs .f32 [(0x40000000, 4), (0x3F800000, 12)]) (runs .f32 [(0x40E00000, 16)])

theorem test_masked_product : runsOf (.vmul (product false)) factors = [(3, runs .f32 [(0x40000000, 4), (0x40000000, 6), (0x40E00000, 6)])]
    ∧ runsOf (.vmul (product true)) factors = [(3, runs .f32 [(0x40000000, 10), (0x40E00000, 6)])] ∧ flagsOf (.vmul (product true)) factors = [0] := by decide +kernel

/-- R73: 1, 2^24, 1, 1 by tree and by runs. -/
def summands : State := wide 4 (runs .f32 [(0x3F800000, 1), (0x4B800000, 1), (0x3F800000, 2)]) .zero .zero

theorem test_sums : eOf (.vredSumT { e := 1, a := 1, t := .f32 }) summands = [(1, 0x4B800001)]
    ∧ eOf (.vredSumR { e := 1, a := 1, t := .f32 }) summands = [(1, 0x4B800002)] := by decide +kernel

/-- R151: a signalling NaN and −0. -/
def nanAndZero : State := wide 4 (runs .f32 [(0x7F800001, 4)]) (runs .f32 [(0x80000000, 4)]) .zero

theorem test_maximum : runsOf (.vmaxNum (three .f32)) nanAndZero = [(3, runs .f32 [(0x80000000, 4)])] ∧ flagsOf (.vmaxNum (three .f32)) nanAndZero = [flagNv]
    ∧ runsOf (.vmax (three .f32)) nanAndZero = [(3, runs .f32 [(0x7FC00001, 4)])] := by decide +kernel

/-- R62: 2.5, −3e9 and a NaN to INT32. -/
def toInt : Instr := .vcvt { d := 3, a := 1, mask := none, c := false, t := .i32, src := .f32 }
def reals : State := wide 8 (runs .f32 [(0x40200000, 3), (0xCF32D05E, 1), (0x7FC00000, 4)]) .zero .zero

theorem test_conversion : runsOf toInt reals = [(3, runs .i32 [(2, 3), (0x80000000, 1), (0, 4)])] ∧ flagsOf toInt reals = [flagNv ||| flagNx] := by decide +kernel

/-- R153: 2^3 and 2^0.5. -/
def exponents : State := wide 16 (runs .f32 [(0x40400000, 8), (0x3F000000, 8)]) .zero .zero

theorem test_exponential : runsOf (.vexp2 (one .f32)) exponents = [(3, runs .f32 [(0x41000000, 8), (0x3FB504F3, 8)])]
    ∧ flagsOf (.vexp2 (one .f32)) exponents = [flagNx] := by decide +kernel

/-- R171: the sums of two segments. -/
def segments : VSegArgs := { d := 3, a := 1, b := 2, c := false, t := .f32 }
def segmented : State := wide 8 (runs .f32 [(0x3F800000, 3), (0x40000000, 5)]) (runs .i32 [(0, 2), (1, 6)]) .zero

theorem test_segments : runsOf (.vsegsumP segments) segmented = [(3, runs .f32 [(0x40000000, 1), (0x41300000, 1)])]
    ∧ runsOf (.vsegsumE segments) segmented = [(3, runs .f32 [(0x40000000, 2), (0x41300000, 6)])] := by decide +kernel

/-! ### Number formats -/

/-- R61: 470 and 460 in E4M3, without and with saturation. -/
theorem test_round_to_e4m3 :
    (roundTo e4m3 .rne false (.ofInt 470)).1 = 0x7F ∧ (roundTo e4m3 .rne true (.ofInt 470)).1 = 0x7E ∧ (roundTo e4m3 .rne false (.ofInt 460)).1 = 0x7E := by decide +kernel

/-- R67–R70: the worked block, its poisoned header, and the sum as FP32. -/
theorem test_block_sum :
    let a (hdr : Nat) : MBlock := { vals := [2, 8, 5, 15, 0, 1, 6, 11].map (elemVal 4 hdr true), scale := headerScale hdr, poison := headerPoison hdr true, ecc := none }
    let b : MBlock := { vals := (List.replicate 8 2).map (elemVal 4 0x00400000 false), scale := headerScale 0x00400000, poison := headerPoison 0x00400000 false, ecc := none }
    accStep 0 (stepSum [a 0x3A3F0000] [b]) = 0x40010000000000000000 ∧ outBits 9 .rne false (ofA80 0x40010000000000000000) = 0x40100000
      ∧ (a 0x3A7F8001).poison = true ∧ headerPoison 0x3A3F0000 true = false := by decide +kernel

/-- R71: the worked quantisation: header and codes. -/
theorem test_quantise : quantBlock ((List.map (fun n => decodeF fp32 n) [0x3F600000, 0xC0400000, 0x41400000, 0x3E800000, 0x40200000, 0xC0E00000, 0x40A00000, 0]))
    = (0x00400000, [1, 11, 7, 0, 2, 14, 4, 0]) := by decide +kernel

/-! ### Words and what they decode to -/

/-- Words of the manual's encoding and what they decode to (R83; add s5, s6, s7 and mulhu s8, s3, s4 as the manual prints them). -/
theorem test_decode_alu :
    decode .scalar 0x04A63800 = some (.add 5 6 7) ∧
    decode .scalar 0x04A63801 = some (.sub 5 6 7) ∧
    decode .scalar 0x04A63802 = some (.and 5 6 7) ∧
    decode .scalar 0x04A63803 = some (.or 5 6 7) ∧
    decode .scalar 0x04A63804 = some (.xor 5 6 7) ∧
    decode .scalar 0x04A63805 = some (.andn 5 6 7) ∧
    decode .scalar 0x04A63806 = some (.sll 5 6 7) ∧
    decode .scalar 0x04A63807 = some (.srl 5 6 7) ∧
    decode .scalar 0x04A63808 = some (.sra 5 6 7) ∧
    decode .scalar 0x04A63809 = some (.slt 5 6 7) ∧
    decode .scalar 0x04A6380A = some (.sltu 5 6 7) ∧
    decode .scalar 0x04A6380B = some (.seq 5 6 7) ∧
    decode .scalar 0x04A6380C = some (.min 5 6 7) ∧
    decode .scalar 0x04A6380D = some (.max 5 6 7) ∧
    decode .scalar 0x04A6380E = some (.minu 5 6 7) ∧
    decode .scalar 0x04A6380F = some (.maxu 5 6 7) ∧
    decode .scalar 0x04A63810 = some (.mul 5 6 7) ∧
    decode .scalar 0x04A63811 = some (.mulh 5 6 7) ∧
    decode .scalar 0x04A63812 = some (.mulhu 5 6 7) ∧
    decode .scalar 0x04A63813 = some (.div 5 6 7) ∧
    decode .scalar 0x04A63814 = some (.divu 5 6 7) ∧
    decode .scalar 0x04A63815 = some (.rem 5 6 7) ∧
    decode .scalar 0x04A63816 = some (.remu 5 6 7) ∧
    decode .scalar 0x04A63800 = some (.add 5 6 7) ∧
    decode .scalar 0x05032012 = some (.mulhu 8 3 4) ∧
    decode .scalar 0x053F0018 = some (.clz 9 31) ∧
    decode .scalar 0x053F0019 = some (.ctz 9 31) ∧
    decode .scalar 0x053F001A = some (.popc 9 31) :=
  ⟨rfl, rfl, rfl, rfl, rfl, rfl, rfl, rfl, rfl, rfl, rfl, rfl, rfl, rfl, rfl, rfl, rfl, rfl, rfl, rfl, rfl, rfl, rfl, rfl, rfl, rfl, rfl, rfl⟩

/-- Words of the manual's encoding and what they decode to (R82, R99; addi s5, s0, 1, shori and srai s9, s9, 3 as printed). -/
theorem test_decode_immediate :
    decode .scalar 0x08A00001 = some (.addi 5 0 1) ∧
    decode .scalar 0x08A6FFFE = some (.addi 5 6 0xFFFE) ∧
    decode .scalar 0x0C22F0F0 = some (.andi 1 2 0xF0F0) ∧
    decode .scalar 0x10220003 = some (.ori 1 2 3) ∧
    decode .scalar 0x1422FFFF = some (.xori 1 2 0xFFFF) ∧
    decode .scalar 0x1822FFFF = some (.slti 1 2 0xFFFF) ∧
    decode .scalar 0x1CA52345 = some (.shori 5 5 0x2345) ∧
    decode .scalar 0x2128003F = some (.slli 9 8 63) ∧
    decode .scalar 0x21280101 = some (.srli 9 8 1) ∧
    decode .scalar 0x21290203 = some (.srai 9 9 3) :=
  ⟨rfl, rfl, rfl, rfl, rfl, rfl, rfl, rfl, rfl, rfl⟩

/-- Words of the manual's encoding and what they decode to (R82, R84). -/
theorem test_decode_branch :
    decode .scalar 0x2822FFFF = some (.beq 1 2 0xFFFF) ∧
    decode .scalar 0x2C22FFFF = some (.bne 1 2 0xFFFF) ∧
    decode .scalar 0x3022FFFF = some (.blt 1 2 0xFFFF) ∧
    decode .scalar 0x3422FFFF = some (.bge 1 2 0xFFFF) ∧
    decode .scalar 0x3822FFFF = some (.bltu 1 2 0xFFFF) ∧
    decode .scalar 0x3C22FFFF = some (.bgeu 1 2 0xFFFF) ∧
    decode .scalar 0x403FFFFC = some (.jal 1 0x1FFFFC) ∧
    decode .scalar 0x44010004 = some (.jalr 0 1 4) ∧
    decode .scalar 0x7C000005 = some (.bqEmpty 5) ∧
    decode .scalar 0x7C200005 = some (.bqNonempty 5) ∧
    decode .scalar 0x7C400005 = some (.bqPoison 5) ∧
    decode .scalar 0x7C600005 = some (.bqFault 5) ∧
    decode .scalar 0x7C800005 = some (.bqOk 5) ∧
    decode .scalar 0x7C400005 = some (.bqPoison 5) :=
  ⟨rfl, rfl, rfl, rfl, rfl, rfl, rfl, rfl, rfl, rfl, rfl, rfl, rfl, rfl⟩

/-- Words of the manual's encoding and what they decode to (R82; st.w, ld.d.by, lda.w.die, amo.cas.d.die.acqrel and scop.swap as printed). -/
theorem test_decode_memory :
    decode .scalar 0x48E4D002 = some (.ld 7 4 .double true 2) ∧
    decode .scalar 0x48E40FFF = some (.ld 7 4 .byte false 0xFFF) ∧
    decode .scalar 0x4CE45003 = some (.ldu 7 4 .half true 3) ∧
    decode .scalar 0x51228FFE = some (.st 9 2 .word 0xFFE) ∧
    decode .scalar 0x54C40210 = some (.lda 6 4 .die .word) ∧
    decode .scalar 0x58C40318 = some (.stl 6 4 .pkg .double) ∧
    decode .scalar 0x5CC43C84 = some (.amoAdd 6 4 7 .host .word false) ∧
    decode .scalar 0x5CC43C8C = some (.amoAnd 6 4 7 .host .word false) ∧
    decode .scalar 0x5CC43C94 = some (.amoOr 6 4 7 .host .word false) ∧
    decode .scalar 0x5CC43C9C = some (.amoXor 6 4 7 .host .word false) ∧
    decode .scalar 0x5CC43CA4 = some (.amoMin 6 4 7 .host .word false) ∧
    decode .scalar 0x5CC43CAC = some (.amoMax 6 4 7 .host .word false) ∧
    decode .scalar 0x5CC43CB4 = some (.amoMinu 6 4 7 .host .word false) ∧
    decode .scalar 0x5CC43CBC = some (.amoMaxu 6 4 7 .host .word false) ∧
    decode .scalar 0x5CC43CC4 = some (.amoSwap 6 4 7 .host .word false) ∧
    decode .scalar 0x5CC43CCC = some (.amoCas 6 4 7 .host .word false) ∧
    decode .scalar 0x5CC43A4F = some (.amoCas 6 4 7 .die .double true) ∧
    decode .scalar 0x60C40280 = some (.ldSc 6 4 5) ∧
    decode .scalar 0x60043A88 = some (.stSc 4 7 5) ∧
    decode .scalar 0x60C43A90 = some (.amoaddSc 6 4 7 5) ∧
    decode .scalar 0x60C43A98 = some (.swapSc 6 4 7 5) ∧
    decode .scalar 0x60C43BA0 = some (.casSc 6 4 7 7) ∧
    decode .scalar 0x64000004 = some (.fenceFull .die) ∧
    decode .scalar 0x64000014 = some (.fenceAcq .die) ∧
    decode .scalar 0x64000024 = some (.fenceRel .die) ∧
    decode .scalar 0x64000034 = some (.fenceEngines .die) ∧
    decode .scalar 0x64000023 = some (.fenceRel .cluster) :=
  ⟨rfl, rfl, rfl, rfl, rfl, rfl, rfl, rfl, rfl, rfl, rfl, rfl, rfl, rfl, rfl, rfl, rfl, rfl, rfl, rfl, rfl, rfl, rfl, rfl, rfl, rfl, rfl⟩

/-- Words of the manual's encoding and what they decode to (R84; own.lend, wopen as printed). -/
theorem test_decode_own :
    decode .scalar 0x68642800 = some (.ownLend 3 4 5) ∧
    decode .scalar 0x68640080 = some (.ownRet 3 4) ∧
    decode .scalar 0x68640100 = some (.ownSplit 3 4) ∧
    decode .scalar 0x68640180 = some (.ownJoin 3 4) ∧
    decode .scalar 0x68642A00 = some (.ownShare 3 4 5) ∧
    decode .scalar 0x68640280 = some (.ownDrop 3 4) ∧
    decode .scalar 0x68640300 = some (.ownQry 3 4) ∧
    decode .scalar 0x68640380 = some (.ownWait 3 4) ∧
    decode .scalar 0x68640400 = some (.ownClaim 3 4) ∧
    decode .scalar 0x68042800 = some (.ownLend 0 4 5) ∧
    decode .scalar 0x6C642800 = some (.wopen 3 4 5) ∧
    decode .scalar 0x6C640100 = some (.wclose 3 4) ∧
    decode .scalar 0x6C642A00 = some (.wwait 3 4 5) ∧
    decode .scalar 0x6C640300 = some (.wcnt 3 4) ∧
    decode .scalar 0x6C640400 = some (.wrst 3 4) ∧
    decode .scalar 0x6C042800 = some (.wopen 0 4 5) :=
  ⟨rfl, rfl, rfl, rfl, rfl, rfl, rfl, rfl, rfl, rfl, rfl, rfl, rfl, rfl, rfl, rfl⟩

/-- Words of the manual's encoding and what they decode to (R84; post, wait, arrive, mwait and sleep as printed). -/
theorem test_decode_sync :
    decode .scalar 0x70000020 = some (.post 0 2) ∧
    decode .scalar 0x70050120 = some (.wait 5 2) ∧
    decode .scalar 0x70000203 = some (.arrive 0 .cluster) ∧
    decode .scalar 0x70000376 = some (.bwait 7 .pkg) ∧
    decode .scalar 0x70042C00 = some (.mwaitSync 4 5) ∧
    decode .scalar 0x70000500 = some (.yield) ∧
    decode .scalar 0x70000600 = some (.icsync) ∧
    decode .scalar 0x70090700 = some (.sleep 9) :=
  ⟨rfl, rfl, rfl, rfl, rfl, rfl, rfl, rfl⟩

/-- Words of the manual's encoding and what they decode to (R84; hld, hsetw, hgetw, omld and loop as printed). -/
theorem test_decode_handles_and_loops :
    decode .scalar 0x74240000 = some (.hld 1 4) ∧
    decode .scalar 0x75E40100 = some (.hst 15 4) ∧
    decode .scalar 0x74250202 = some (.hsetw 1 5 2) ∧
    decode .scalar 0x74E10303 = some (.hgetw 7 1 3) ∧
    decode .scalar 0x74660400 = some (.haddb 3 6) ∧
    decode .scalar 0x74660500 = some (.omld 3 6) ∧
    decode .scalar 0x78840005 = some (.loopImm 1 64 5) ∧
    decode .scalar 0x7AC07FFF = some (.loopReg 5 7 4095) :=
  ⟨rfl, rfl, rfl, rfl, rfl, rfl, rfl, rfl⟩

/-- Words of the manual's encoding and what they decode to (R84; cqpop, dqpush, launch as printed). -/
theorem test_decode_queues :
    decode .scalar 0x80A00000 = some (.cqpop 5) ∧
    decode .scalar 0x80000001 = some (.cqwait) ∧
    decode .scalar 0x80000002 = some (.cqwaity) ∧
    decode .scalar 0x80A00003 = some (.cqpeek 5) ∧
    decode .scalar 0x84E50000 = some (.dqpush 7 5) ∧
    decode .scalar 0x84E00001 = some (.dqpop 7) ∧
    decode .scalar 0x84E50002 = some (.dqsteal 7 5) ∧
    decode .scalar 0x84E00003 = some (.dqlen 7) ∧
    decode .scalar 0x88A60000 = some (.launch 5 6) :=
  ⟨rfl, rfl, rfl, rfl, rfl, rfl, rfl, rfl, rfl⟩

/-- Words of the manual's encoding and what they decode to (R84; csrr, trap, ftset, move, fstep, cirq, publish and pubq as printed). -/
theorem test_decode_system :
    decode .scalar 0x8CE00000 = some (.csrr 7 0) ∧
    decode .scalar 0x8CE51010 = some (.csrw 7 5 0x010) ∧
    decode .scalar 0x8CE52800 = some (.csrs 7 5 0x800) ∧
    decode .scalar 0x8CE53001 = some (.csrc 7 5 1) ∧
    decode .scalar 0x90000000 = some (.nop) ∧
    decode .scalar 0x90000001 = some (.trap) ∧
    decode .scalar 0x90000002 = some (.eret) ∧
    decode .scalar 0x90000003 = some (.exit) ∧
    decode .scalar 0x90000004 = some (.brk) ∧
    decode .scalar 0x94250000 = some (.ftset 1 5) ∧
    decode .scalar 0x94AF0001 = some (.ftget 5 15) ∧
    decode .scalar 0x98260000 = some (.moveToE 1 6) ∧
    decode .scalar 0x98C10001 = some (.moveFromE 6 1) ∧
    decode .scalar 0x9CA00000 = some (.fstep 5) ∧
    decode .scalar 0x9CC00041 = some (.cirq 6 2) ∧
    decode .scalar 0xA0030000 = some (.publish 3) ∧
    decode .scalar 0xA0A30001 = some (.pubq 5 3) :=
  ⟨rfl, rfl, rfl, rfl, rfl, rfl, rfl, rfl, rfl, rfl, rfl, rfl, rfl, rfl, rfl, rfl, rfl⟩

/-- Words of the manual's encoding and what they decode to (R85; vadd.f32, vfma.f32.c and vexp2 as printed). -/
theorem test_decode_vector_float :
    decode .vector 0x04611000 = some (.vadd { d := 3, a := 1, b := 2, mask := none, c := false, t := .f32 }) ∧
    decode .vector 0x108111F0 = some (.vfma { d := 4, a := 1, b := 2, mask := some 7, c := true, t := .f32 }) ∧
    decode .vector 0x046117E4 = some (.vadd { d := 3, a := 1, b := 2, mask := some 31, c := false, t := .bf16 }) ∧
    decode .vector 0x086117E4 = some (.vsub { d := 3, a := 1, b := 2, mask := some 31, c := false, t := .bf16 }) ∧
    decode .vector 0x0C6117E4 = some (.vmul { d := 3, a := 1, b := 2, mask := some 31, c := false, t := .bf16 }) ∧
    decode .vector 0x106117E4 = some (.vfma { d := 3, a := 1, b := 2, mask := some 31, c := false, t := .bf16 }) ∧
    decode .vector 0x146117E4 = some (.vfnma { d := 3, a := 1, b := 2, mask := some 31, c := false, t := .bf16 }) ∧
    decode .vector 0x186117E4 = some (.vdiv { d := 3, a := 1, b := 2, mask := some 31, c := false, t := .bf16 }) ∧
    decode .vector 0x1C611010 = some (.vmin { d := 3, a := 1, b := 2, mask := none, c := true, t := .f32 }) ∧
    decode .vector 0x1C611011 = some (.vminNum { d := 3, a := 1, b := 2, mask := none, c := true, t := .f32 }) ∧
    decode .vector 0x20611010 = some (.vmax { d := 3, a := 1, b := 2, mask := none, c := true, t := .f32 }) ∧
    decode .vector 0x20611011 = some (.vmaxNum { d := 3, a := 1, b := 2, mask := none, c := true, t := .f32 }) ∧
    decode .vector 0x24610160 = some (.vsqrt { d := 3, a := 1, mask := some 5, c := false, t := .f32 }) ∧
    decode .vector 0x24610161 = some (.vabs { d := 3, a := 1, mask := some 5, c := false, t := .f32 }) ∧
    decode .vector 0x24610162 = some (.vneg { d := 3, a := 1, mask := some 5, c := false, t := .f32 }) ∧
    decode .vector 0x24610163 = some (.vrint { d := 3, a := 1, mask := some 5, c := false, t := .f32 }) ∧
    decode .vector 0x28610004 = some (.vexp2 { d := 3, a := 1, c := false, t := .bf16 }) ∧
    decode .vector 0x28610005 = some (.vlog2 { d := 3, a := 1, c := false, t := .bf16 }) ∧
    decode .vector 0x28610006 = some (.vrcp { d := 3, a := 1, c := false, t := .bf16 }) ∧
    decode .vector 0x28610007 = some (.vrsq { d := 3, a := 1, c := false, t := .bf16 }) ∧
    decode .vector 0x2C610004 = some (.vtanh { d := 3, a := 1, c := false, t := .bf16 }) ∧
    decode .vector 0x2C610005 = some (.vsin { d := 3, a := 1, c := false, t := .bf16 }) ∧
    decode .vector 0x2C610006 = some (.vcos { d := 3, a := 1, c := false, t := .bf16 }) ∧
    decode .vector 0x2C610007 = some (.verf { d := 3, a := 1, c := false, t := .bf16 }) ∧
    decode .vector 0x28610000 = some (.vexp2 { d := 3, a := 1, c := false, t := .f32 }) :=
  ⟨rfl, rfl, rfl, rfl, rfl, rfl, rfl, rfl, rfl, rfl, rfl, rfl, rfl, rfl, rfl, rfl, rfl, rfl, rfl, rfl, rfl, rfl, rfl, rfl, rfl⟩

/-- Words of the manual's encoding and what they decode to (R85; vcmp.ge, vsel, vcvt and vsra as printed). -/
theorem test_decode_vector_integer :
    decode .vector 0x30611028 = some (.vcmpEq { d := 3, a := 1, b := 2, mask := some 0, c := false, t := .i32 }) ∧
    decode .vector 0x30611029 = some (.vcmpLt { d := 3, a := 1, b := 2, mask := some 0, c := false, t := .i32 }) ∧
    decode .vector 0x3061102A = some (.vcmpLe { d := 3, a := 1, b := 2, mask := some 0, c := false, t := .i32 }) ∧
    decode .vector 0x3061102B = some (.vcmpUnord { d := 3, a := 1, b := 2, mask := some 0, c := false, t := .i32 }) ∧
    decode .vector 0x34611028 = some (.vcmpNe { d := 3, a := 1, b := 2, mask := some 0, c := false, t := .i32 }) ∧
    decode .vector 0x34611029 = some (.vcmpGt { d := 3, a := 1, b := 2, mask := some 0, c := false, t := .i32 }) ∧
    decode .vector 0x3461102A = some (.vcmpGe { d := 3, a := 1, b := 2, mask := some 0, c := false, t := .i32 }) ∧
    decode .vector 0x3461102B = some (.vcmpOrd { d := 3, a := 1, b := 2, mask := some 0, c := false, t := .i32 }) ∧
    decode .vector 0x34C11012 = some (.vcmpGe { d := 6, a := 1, b := 2, mask := none, c := true, t := .f32 }) ∧
    decode .vector 0x38A111E8 = some (.vsel { d := 5, a := 1, b := 2, m := 7, c := false, t := .i32 }) ∧
    decode .vector 0x3C810004 = some (.vcvt { d := 4, a := 1, mask := none, c := false, t := .bf16, src := .f32 }) ∧
    decode .vector 0x3C8100B2 = some (.vcvt { d := 4, a := 1, mask := some 2, c := true, t := .f32, src := .i32 }) ∧
    decode .vector 0x40611138 = some (.viadd { d := 3, a := 1, b := 2, mask := some 4, c := true }) ∧
    decode .vector 0x44611138 = some (.visub { d := 3, a := 1, b := 2, mask := some 4, c := true }) ∧
    decode .vector 0x48611138 = some (.vimul { d := 3, a := 1, b := 2, mask := some 4, c := true }) ∧
    decode .vector 0x4C611004 = some (.vand { d := 3, a := 1, b := 2, mask := none, c := false, t := .bf16 }) ∧
    decode .vector 0x4C611005 = some (.vor { d := 3, a := 1, b := 2, mask := none, c := false, t := .bf16 }) ∧
    decode .vector 0x4C611006 = some (.vxor { d := 3, a := 1, b := 2, mask := none, c := false, t := .bf16 }) ∧
    decode .vector 0x4C611007 = some (.vandn { d := 3, a := 1, b := 2, mask := none, c := false, t := .bf16 }) ∧
    decode .vector 0x50611008 = some (.vsll { d := 3, a := 1, b := 2, mask := none, c := false }) ∧
    decode .vector 0x50611009 = some (.vsrl { d := 3, a := 1, b := 2, mask := none, c := false }) ∧
    decode .vector 0x5061100A = some (.vsra { d := 3, a := 1, b := 2, mask := none, c := false }) ∧
    decode .vector 0x5124280A = some (.vsra { d := 9, a := 4, b := 5, mask := none, c := false }) ∧
    decode .vector 0x54611008 = some (.vimin { d := 3, a := 1, b := 2, mask := none, c := false }) ∧
    decode .vector 0x54611009 = some (.vimax { d := 3, a := 1, b := 2, mask := none, c := false }) ∧
    decode .vector 0x5461100A = some (.viminu { d := 3, a := 1, b := 2, mask := none, c := false }) ∧
    decode .vector 0x5461100B = some (.vimaxu { d := 3, a := 1, b := 2, mask := none, c := false }) :=
  ⟨rfl, rfl, rfl, rfl, rfl, rfl, rfl, rfl, rfl, rfl, rfl, rfl, rfl, rfl, rfl, rfl, rfl, rfl, rfl, rfl, rfl, rfl, rfl, rfl, rfl, rfl, rfl⟩

/-- Words of the manual's encoding and what they decode to (R85; vred.sum.t, vredrow.sum, vrcnt, viota, vsplat and vsplati as printed). -/
theorem test_decode_vector_runs :
    decode .vector 0x60E30008 = some (.vredSumT { e := 7, a := 3, t := .i32 }) ∧
    decode .vector 0x60E30009 = some (.vredSumR { e := 7, a := 3, t := .i32 }) ∧
    decode .vector 0x60E3000A = some (.vredMax { e := 7, a := 3, t := .i32 }) ∧
    decode .vector 0x60E3000B = some (.vredMin { e := 7, a := 3, t := .i32 }) ∧
    decode .vector 0x60230000 = some (.vredSumT { e := 1, a := 3, t := .f32 }) ∧
    decode .vector 0x64A30014 = some (.vredrowSum { d := 5, a := 3, c := true, t := .bf16 }) ∧
    decode .vector 0x64A30015 = some (.vredrowMax { d := 5, a := 3, c := true, t := .bf16 }) ∧
    decode .vector 0x64A30016 = some (.vredrowMin { d := 5, a := 3, c := true, t := .bf16 }) ∧
    decode .vector 0x64A30000 = some (.vredrowSum { d := 5, a := 3, c := false, t := .f32 }) ∧
    decode .vector 0x68A30008 = some (.vscanSumI { d := 5, a := 3, c := false, t := .i32 }) ∧
    decode .vector 0x68A30009 = some (.vscanSumE { d := 5, a := 3, c := false, t := .i32 }) ∧
    decode .vector 0x68A3000A = some (.vscanMaxI { d := 5, a := 3, c := false, t := .i32 }) ∧
    decode .vector 0x6C840000 = some (.vrcoal 4 4) ∧
    decode .vector 0x6C490001 = some (.vrcnt 2 9) ∧
    decode .vector 0x6CE90002 = some (.vrlen 7 9) ∧
    decode .vector 0x70A33010 = some (.vsegsumE { d := 5, a := 3, b := 6, c := true, t := .f32 }) ∧
    decode .vector 0x70A33011 = some (.vsegsumP { d := 5, a := 3, b := 6, c := true, t := .f32 }) ∧
    decode .vector 0x70A33012 = some (.vsegmaxE { d := 5, a := 3, b := 6, c := true, t := .f32 }) ∧
    decode .vector 0x70A33013 = some (.vsegcntP { d := 5, a := 3, b := 6, c := true, t := .f32 }) ∧
    decode .vector 0x74800008 = some (.viota 4 .i32) ∧
    decode .vector 0x78450002 = some (.vsplat 2 5 .i32) ∧
    decode .vector 0x7C403F80 = some (.vsplati 2 0x3F80) ∧
    decode .vector 0x80000703 = some (.vshapeImm 7 3) ∧
    decode .vector 0x80050000 = some (.vshapeReg 5) :=
  ⟨rfl, rfl, rfl, rfl, rfl, rfl, rfl, rfl, rfl, rfl, rfl, rfl, rfl, rfl, rfl, rfl, rfl, rfl, rfl, rfl, rfl, rfl, rfl, rfl⟩

/-- Words of the manual's encoding and what they decode to (R85, R86; vmov, vpost, vwait, vland, vend, vsetrm, vclrf and vloop as printed). -/
theorem test_decode_vector_memory :
    decode .vector 0x871E5FFD = some (.vld { d := 24, h := 15, rs := 5, g := 3, imm := 255, t := .bf16 }) ∧
    decode .vector 0x8B1E5FFD = some (.vst { d := 24, h := 15, rs := 5, g := 3, imm := 255, t := .bf16 }) ∧
    decode .vector 0x8F1E5FFD = some (.vldr { d := 24, h := 15, rs := 5, g := 3, imm := 255, t := .bf16 }) ∧
    decode .vector 0x931E5FFD = some (.vstr { d := 24, h := 15, rs := 5, g := 3, imm := 255, t := .bf16 }) ∧
    decode .vector 0x947E5FF8 = some (.vfromm { d := 3, mr := 7, col := true, rs := 5, imm := 127, ef := true, t := .i32 }) ∧
    decode .vector 0x987E5FF8 = some (.vtom { d := 3, mr := 7, col := true, rs := 5, imm := 127, ef := true, t := .i32 }) ∧
    decode .vector 0x9D000002 = some (.vmov 8 0 2) ∧
    decode .vector 0xA0000004 = some (.vpost 0 1) ∧
    decode .vector 0xA000000C = some (.vpost 0 3) ∧
    decode .vector 0xA0480004 = some (.vwait 2 1) ∧
    decode .vector 0xA0800000 = some (.vland) ∧
    decode .vector 0xA0C00000 = some (.vend) ∧
    decode .vector 0xA1000004 = some (.vsetrm .rz) ∧
    decode .vector 0xA1000008 = some (.vsetrm .rup) ∧
    decode .vector 0xA100000C = some (.vsetrm .rdn) ∧
    decode .vector 0xA140007C = some (.vclrf 31) ∧
    decode .vector 0xA404000C = some (.vloopImm 0 64 12) ∧
    decode .vector 0xA5C09007 = some (.vloopReg 3 9 7) :=
  ⟨rfl, rfl, rfl, rfl, rfl, rfl, rfl, rfl, rfl, rfl, rfl, rfl, rfl, rfl, rfl, rfl, rfl, rfl⟩

/-- Words of the manual's encoding and what they decode to (R87; mma.z.f and the MCTL forms as printed). -/
theorem test_decode_matrix :
    decode .matrix 0x04090E00 = some (.mma { md := 0, ha := 1, hb := 2, fs := 1, z := true, f := true, ao := 0, bo := 0 }) ∧
    decode .matrix 0x0B9A6AAC = some (.mmat { md := 7, ha := 3, hb := 4, fs := 13, z := false, f := true, ao := 5, bo := 6 }) ∧
    decode .matrix 0x0E982600 = some (.mlda { md := 5, h := 3, om := 4, e := true, rm := .hi }) ∧
    decode .matrix 0x129C2100 = some (.msta { md := 5, h := 3, fs := 8, om := 4, e := false, rm := .lo }) ∧
    decode .matrix 0x16992400 = some (.mstq { md := 5, h := 3, fs := 2, om := 4, e := true, rm := .all }) ∧
    decode .matrix 0x18180000 = some (.mclr 3) ∧
    decode .matrix 0x18400000 = some (.mfull 0) ∧
    decode .matrix 0x18900000 = some (.mempty 2) ∧
    decode .matrix 0x18C40004 = some (.mpost 1 1) ∧
    decode .matrix 0x19080004 = some (.mwaitMctl 2 1) ∧
    decode .matrix 0x19400000 = some (.mland) ∧
    decode .matrix 0x19800000 = some (.mend) ∧
    decode .matrix 0x19CA0000 = some (.madd 1 2) ∧
    decode .matrix 0x1A094000 = some (.mscal 1 5) ∧
    decode .matrix 0x1A590000 = some (.mtrans 3 1) ∧
    decode .matrix 0x1CBFF009 = some (.mloopImm 1 1023 9) ∧
    decode .matrix 0x1D41F001 = some (.mloopReg 2 31 1) :=
  ⟨rfl, rfl, rfl, rfl, rfl, rfl, rfl, rfl, rfl, rfl, rfl, rfl, rfl, rfl, rfl, rfl, rfl⟩

/-- Words of the manual's encoding and what they decode to (R88; cpy.rec, cpy.cvt.rec, xcpy.rec and wput as printed). -/
theorem test_decode_copy :
    decode .copy 0x0402350B = some (.cpy { hs := 2, hd := 3, p := 10, tag := 5, r := true }) ∧
    decode .copy 0x04114A05 = some (.cpyCvt { hs := 1, hd := 4, p := 20, tag := 2, r := true }) ∧
    decode .copy 0x04098F7E = some (.cpy { hs := 9, hd := 8, p := 30, tag := 63, r := false }) ∧
    decode .copy 0x04198F7E = some (.cpyCvt { hs := 9, hd := 8, p := 30, tag := 63, r := false }) ∧
    decode .copy 0x04298F7E = some (.cpyTr2d { hs := 9, hd := 8, p := 30, tag := 63, r := false }) ∧
    decode .copy 0x04398F7E = some (.cpySwz { hs := 9, hd := 8, p := 30, tag := 63, r := false }) ∧
    decode .copy 0x04498F7E = some (.cpyRle { hs := 9, hd := 8, p := 30, tag := 63, r := false }) ∧
    decode .copy 0x04598F7E = some (.cpyUnrle { hs := 9, hd := 8, p := 30, tag := 63, r := false }) ∧
    decode .copy 0x04698F7E = some (.cpyQ4 { hs := 9, hd := 8, p := 30, tag := 63, r := false }) ∧
    decode .copy 0x04798F7E = some (.cpyDeq { hs := 9, hd := 8, p := 30, tag := 63, r := false }) ∧
    decode .copy 0x04898F7E = some (.cpyGather { hs := 9, hd := 8, p := 30, tag := 63, r := false }) ∧
    decode .copy 0x04998F7E = some (.cpyScatter { hs := 9, hd := 8, p := 30, tag := 63, r := false }) ∧
    decode .copy 0x04B98F7E = some (.cpyRadd { hs := 9, hd := 8, p := 30, tag := 63, r := false }) ∧
    decode .copy 0x04A08F7F = some (.cpyFill { hd := 8, p := 30, tag := 63, r := true }) ∧
    decode .copy 0x04C98FFF = some (.cpyCrc { hs := 9, hd := 8, p := 31, tag := 63 }) ∧
    decode .copy 0x08056099 = some (.xcpy { hs := 5, hd := 6, ch := 2, p := 12, r := true }) ∧
    decode .copy 0x0C03701C = some (.wput { hs := 3, hd := 7, ch := 0, p := 14, r := false }) ∧
    decode .copy 0x08198FFD = some (.xcpyCvt { hs := 9, hd := 8, ch := 63, p := 30, r := true }) ∧
    decode .copy 0x08498FFD = some (.xcpyRle { hs := 9, hd := 8, ch := 63, p := 30, r := true }) ∧
    decode .copy 0x08598FFD = some (.xcpyUnrle { hs := 9, hd := 8, ch := 63, p := 30, r := true }) ∧
    decode .copy 0x08C98FFD = some (.xcpyCrc { hs := 9, hd := 8, ch := 63, p := 30 }) ∧
    decode .copy 0x0C198FFD = some (.wputCvt { hs := 9, hd := 8, ch := 63, p := 30, r := true }) ∧
    decode .copy 0x0C498FFD = some (.wputRle { hs := 9, hd := 8, ch := 63, p := 30, r := true }) ∧
    decode .copy 0x0C598FFD = some (.wputUnrle { hs := 9, hd := 8, ch := 63, p := 30, r := true }) ∧
    decode .copy 0x0CC98FFD = some (.wputCrc { hs := 9, hd := 8, ch := 63, p := 30 }) :=
  ⟨rfl, rfl, rfl, rfl, rfl, rfl, rfl, rfl, rfl, rfl, rfl, rfl, rfl, rfl, rfl, rfl, rfl, rfl, rfl, rfl, rfl, rfl, rfl, rfl, rfl⟩

/-- Words of the manual's encoding and what they decode to (R88; catom.add.rec, lcpy.rec, coll.rec, cpost, cwait, cfence, cend, crec, cpub and cloop as printed). -/
theorem test_decode_copy_control :
    decode .copy 0x1000980F = some (.catomAdd { hd := 9, p := 16, tag := 7, r := true }) ∧
    decode .copy 0x10009E8E = some (.catomAdd { hd := 9, p := 29, tag := 7, r := false }) ∧
    decode .copy 0x10109E8E = some (.catomAnd { hd := 9, p := 29, tag := 7, r := false }) ∧
    decode .copy 0x10209E8E = some (.catomOr { hd := 9, p := 29, tag := 7, r := false }) ∧
    decode .copy 0x10309E8E = some (.catomXor { hd := 9, p := 29, tag := 7, r := false }) ∧
    decode .copy 0x10409E8E = some (.catomMin { hd := 9, p := 29, tag := 7, r := false }) ∧
    decode .copy 0x10509E8E = some (.catomMax { hd := 9, p := 29, tag := 7, r := false }) ∧
    decode .copy 0x10609E8E = some (.catomMinu { hd := 9, p := 29, tag := 7, r := false }) ∧
    decode .copy 0x10709E8E = some (.catomMaxu { hd := 9, p := 29, tag := 7, r := false }) ∧
    decode .copy 0x10809E8E = some (.catomSwap { hd := 9, p := 29, tag := 7, r := false }) ∧
    decode .copy 0x10909E8E = some (.catomCas { hd := 9, p := 29, tag := 7, r := false }) ∧
    decode .copy 0x14012403 = some (.lcpy { hs := 1, hd := 2, p := 8, tag := 1, r := true }) ∧
    decode .copy 0x14198F7E = some (.lcpyCvt { hs := 9, hd := 8, p := 30, tag := 63, r := false }) ∧
    decode .copy 0x14498F7E = some (.lcpyRle { hs := 9, hd := 8, p := 30, tag := 63, r := false }) ∧
    decode .copy 0x14598F7E = some (.lcpyUnrle { hs := 9, hd := 8, p := 30, tag := 63, r := false }) ∧
    decode .copy 0x14C98F7F = some (.lcpyCrc { hs := 9, hd := 8, p := 30, tag := 63 }) ∧
    decode .copy 0x18000289 = some (.coll { p := 5, tag := 4, r := true }) ∧
    decode .copy 0x1C040004 = some (.cpost 1 1) ∧
    decode .copy 0x1C480004 = some (.cwait 2 1) ∧
    decode .copy 0x1C800000 = some (.cfence) ∧
    decode .copy 0x1CC00000 = some (.cend) ∧
    decode .copy 0x1D000024 = some (.crec 9) ∧
    decode .copy 0x1D4C0000 = some (.cpub 3) ∧
    decode .copy 0x20008004 = some (.cloopImm 0 8 4) ∧
    decode .copy 0x20C06003 = some (.cloopReg 1 6 3) :=
  ⟨rfl, rfl, rfl, rfl, rfl, rfl, rfl, rfl, rfl, rfl, rfl, rfl, rfl, rfl, rfl, rfl, rfl, rfl, rfl, rfl, rfl, rfl, rfl, rfl, rfl⟩

/-- Words that are no instruction: one for each limit (unassigned ALU function; b of CLZ not zero; SHIFTI kind 3; SHIFTI imm[6]; BY on ST; q = 2; AMO op 10; AMO size 1; SCOP sc[10]; scope 10; OWN op 9; loop level 6; empty loop body; BQ condition 5; SYS 5; major 0x29; major 0x09; VADD of INT32; type 3; m without me; VSEL without a mask; VCVT to its own type; a group past v31; d of VSHAPE; major 0x16; fs 14; fs of MLDA; rows 3; MCTL 10; transform 13; XCPY with tr2d; a parameter block past s31; hs of CATOM; crc without a record; CCTL 6). -/
theorem test_decode_refuses :
    decode .scalar 0x04A63817 = none ∧
    decode .scalar 0x04A60818 = none ∧
    decode .scalar 0x21280300 = none ∧
    decode .scalar 0x21280040 = none ∧
    decode .scalar 0x51229000 = none ∧
    decode .scalar 0x4922A000 = none ∧
    decode .scalar 0x5CC43A54 = none ∧
    decode .scalar 0x5CC43A02 = none ∧
    decode .scalar 0x60043C00 = none ∧
    decode .scalar 0x6400000A = none ∧
    decode .scalar 0x68640480 = none ∧
    decode .scalar 0x7B001001 = none ∧
    decode .scalar 0x78001000 = none ∧
    decode .scalar 0x7CA00001 = none ∧
    decode .scalar 0x90000005 = none ∧
    decode .scalar 0xA4000000 = none ∧
    decode .scalar 0x24000000 = none ∧
    decode .vector 0x04611008 = none ∧
    decode .vector 0x0461100C = none ∧
    decode .vector 0x046111C0 = none ∧
    decode .vector 0x38611000 = none ∧
    decode .vector 0x3C610005 = none ∧
    decode .vector 0x87C00800 = none ∧
    decode .vector 0x80200000 = none ∧
    decode .vector 0x58000000 = none ∧
    decode .matrix 0x04097000 = none ∧
    decode .matrix 0x0C008000 = none ∧
    decode .matrix 0x10000300 = none ∧
    decode .matrix 0x1A800000 = none ∧
    decode .copy 0x04D12188 = none ∧
    decode .copy 0x082120C8 = none ∧
    decode .copy 0x04612F80 = none ∧
    decode .copy 0x10012188 = none ∧
    decode .copy 0x04C12188 = none ∧
    decode .copy 0x1D800000 = none :=
  ⟨rfl, rfl, rfl, rfl, rfl, rfl, rfl, rfl, rfl, rfl, rfl, rfl, rfl, rfl, rfl, rfl, rfl, rfl, rfl, rfl, rfl, rfl, rfl, rfl, rfl, rfl, rfl, rfl, rfl, rfl, rfl, rfl, rfl, rfl, rfl⟩

end Sys2Proof.Tests
end

section
/-! The CSRs (R24, R25, R137): the classes of the map against the lists the statements name, what a write leaves and what is read back,
and the CSR forms, whose privilege rules follow from the one check that they share. -/

namespace Sys2Proof.Machine
open Sys2Proof.Claims

/-! ### The end of an instruction that writes s(d) -/

theorem State.setS_advance_scalar (s : State) (d : BitVec 5) (v : Word) : (s.setS d v).advance .scalar = scalarDone s d v := by
  rw [State.advance_eq, State.setS_cur, Slot.setS_eq]
  rfl

/-! ### The classes of the map -/

theorem csrAccess_rw {n : Nat} (h : n ∈ csrMasks.map Prod.fst) : csrAccess n = .rw := if_pos h

theorem csrAccess_srw : csrAccess 0x800 = .srw := by decide

theorem csrAccess_ro {n : Nat} (h : n ∈ csrReadOnly) : csrAccess n = .ro := by
  revert n
  decide

/-- A number outside the map: no CSR that can be written, not GOV_AGE, and none that can only be read. -/
theorem csrAccess_absent {n : Nat} (hro : n ∉ csrReadOnly) (hrw : n ∉ csrMasks.map Prod.fst) (hage : n ≠ 0x800) :
    csrAccess n = .absent := by
  refine (if_neg hrw).trans ((if_neg hage).trans (if_neg ?_))
  simp only [csrReadOnly, List.mem_cons, List.not_mem_nil, or_false] at hro ⊢
  omega

/-! ### The check that every CSR form makes -/

theorem State.csrCheck_read (s : State) {n : Nat} (h : n ∈ csrReadOnly ∨ n ∈ csrMasks.map Prod.fst ∨ n = 0x800) :
    s.csrCheck n false = .ok () := by
  unfold State.csrCheck
  obtain h | h | rfl := h
  · rw [csrAccess_ro h]; rfl
  · rw [csrAccess_rw h]
  · rw [csrAccess_srw]; rfl

theorem State.csrCheck_write (s : State) {n : Nat}
    (h : n ∈ csrMasks.map Prod.fst ∨ (n = 0x800 ∧ s.cur.bind.supervisor = true)) : s.csrCheck n true = .ok () := by
  unfold State.csrCheck
  obtain h | ⟨rfl, hsup⟩ := h
  · rw [csrAccess_rw h]
  · rw [csrAccess_srw, hsup]; rfl

theorem State.csrCheck_user_age (s : State) (h : s.cur.bind.supervisor = false) : s.csrCheck 0x800 true = .error (fIllegal 1) := by
  unfold State.csrCheck
  rw [csrAccess_srw, h]; rfl

theorem State.csrCheck_write_ro (s : State) {n : Nat} (h : n ∈ csrReadOnly) : s.csrCheck n true = .error (fIllegal 0) := by
  unfold State.csrCheck
  rw [csrAccess_ro h]; rfl

theorem State.csrCheck_absent (s : State) {n : Nat} (write : Bool) (h : csrAccess n = .absent) :
    s.csrCheck n write = .error (fIllegal 0) := by
  unfold State.csrCheck
  rw [h]

/-! ### The CSR forms -/

/-- A form whose check fails takes the fault. -/
theorem csrOp_error {d : BitVec 5} {n : BitVec 12} {new : Option (Word → Word)} {s : State} {f : SFault}
    (h : s.csrCheck n.toNat new.isSome = .error f) : csrOp d n new s = .next (s.raise .scalar f) := by
  unfold csrOp
  rw [h]; rfl

theorem csrOp_read {d : BitVec 5} {n : BitVec 12} {s : State} (h : s.csrCheck n.toNat false = .ok ()) :
    csrOp d n none s = .next (scalarDone s d (s.csrRead n.toNat)) := by
  rw [← State.setS_advance_scalar]
  unfold csrOp
  rw [Option.isSome_none, h]; rfl

/-- A writing form writes the CSR, and then the old value to d. -/
theorem csrOp_write {d : BitVec 5} {n : BitVec 12} {f : Word → Word} {s : State} (h : s.csrCheck n.toNat true = .ok ()) :
    csrOp d n (some f) s = .next (scalarDone (s.csrWrite n.toNat (f (s.csrRead n.toNat))) d (s.csrRead n.toNat)) := by
  rw [← State.setS_advance_scalar]
  unfold csrOp
  rw [Option.isSome_some, h]; rfl

theorem exec_csrr (d : BitVec 5) (n : BitVec 12) (s : State) : exec (.csrr d n) s = csrOp d n none s := rfl

/-- CSRW, CSRS and CSRC are one operation with the value that each writes. -/
theorem exec_csrWrites : ∀ p ∈ csrWrites, ∀ (d a : BitVec 5) (n : BitVec 12) (s : State),
    exec (p.1 d a n) s = csrOp d n (some fun old => p.2 old (s.getS a)) s := by
  simp only [csrWrites, List.forall_mem_cons]
  exact ⟨fun _ _ _ _ => rfl, fun _ _ _ _ => rfl, fun _ _ _ _ => rfl, fun _ h => absurd h List.not_mem_nil⟩

/-! ### What a write of a CSR leaves -/

/-- The CSRs that a thread writes, one by one. -/
theorem csrMasks_cases {p : Nat × Word} (hp : p ∈ csrMasks) :
    p = (0x000, 0x11F3) ∨ p = (0x001, 0xF) ∨ p = (0x008, 0xFFFFFFFFFFFFFFFF) ∨ p = (0x009, 0xFFFFFFFFFFFFFFFF)
      ∨ p = (0x010, 0xFFFFFFFFFFFFFFFC) ∨ p = (0x011, 0xFFFFFF) ∨ p = (0x012, 0x3) ∨ p = (0x013, 0xFFFFFFFFFFFFFFFF)
      ∨ p = (0x014, 0xFFFFFFFF) ∨ p = (0x015, 0xFFFFFFFFFFFFFFFF) := by
  simpa only [csrMasks, List.mem_cons, List.not_mem_nil, or_false] using hp

/-- A slot with the CSRs that software writes taken from another. -/
def Slot.withCsrs (t u : Slot) : Slot :=
  { t with vcsr := u.vcsr, ftoff := u.ftoff, fscratch0 := u.fscratch0, fscratch1 := u.fscratch1, tvec := u.tvec, fcause := u.fcause
           fstream := u.fstream, fpc := u.fpc, finsn := u.finsn, faddr := u.faddr }

/-- A write of a CSR other than GOV_AGE changes the thread's writable CSRs alone. -/
theorem State.csrWrite_rest (s : State) (v : Word) {p : Nat × Word} (hp : p ∈ csrMasks) :
    s.csrWrite p.1 v = { s with cur := s.cur.withCsrs (s.csrWrite p.1 v).cur } := by
  obtain rfl | rfl | rfl | rfl | rfl | rfl | rfl | rfl | rfl | rfl := csrMasks_cases hp <;> rfl

/-- No other CSR of the map reads any of the thread's writable CSRs. -/
theorem State.csrRead_withCsrs (s : State) (u : Slot) {m : Nat} (hm : m ∉ csrMasks.map Prod.fst) :
    { s with cur := s.cur.withCsrs u }.csrRead m = s.csrRead m := by
  simp only [csrMasks, List.map_cons, List.map_nil, List.mem_cons, List.not_mem_nil, or_false, not_or] at hm
  unfold State.csrRead
  -- the alternatives of the writable CSRs contradict hm; every other one reads no field that withCsrs takes
  split <;> simp_all [Slot.withCsrs] <;> rfl

/-- A writable CSR other than the one written: each is a field of its own. -/
theorem State.csrRead_csrWrite_writable (s : State) (v : Word) {p q : Nat × Word} (hp : p ∈ csrMasks) (hq : q ∈ csrMasks)
    (hne : q.1 ≠ p.1) : (s.csrWrite p.1 v).csrRead q.1 = s.csrRead q.1 := by
  obtain rfl | rfl | rfl | rfl | rfl | rfl | rfl | rfl | rfl | rfl := csrMasks_cases hp
  all_goals
    obtain rfl | rfl | rfl | rfl | rfl | rfl | rfl | rfl | rfl | rfl := csrMasks_cases hq <;>
      simp [State.csrRead, State.csrWrite, State.upd] at hne ⊢

theorem State.csrRead_csrWrite_other (s : State) (v : Word) {p : Nat × Word} (hp : p ∈ csrMasks) {m : Nat} (hm : m ≠ p.1) :
    (s.csrWrite p.1 v).csrRead m = s.csrRead m := by
  by_cases hw : m ∈ csrMasks.map Prod.fst
  · obtain ⟨q, hq, rfl⟩ := List.mem_map.1 hw
    exact s.csrRead_csrWrite_writable v hp hq hm
  · rw [State.csrWrite_rest s v hp, State.csrRead_withCsrs _ _ hw]

/-! ### What is read back -/

/-- A field of k bits keeps the low k bits of a word. -/
theorem setWidth_setWidth_eq_and (v : Word) {k : Nat} (hk : k ≤ 64) :
    (v.setWidth k).setWidth 64 = v &&& BitVec.ofNat 64 (2 ^ k - 1) := by
  have hle : 2 ^ k ≤ 2 ^ 64 := Nat.pow_le_pow_right (by decide) hk
  have hpos : 0 < 2 ^ k := Nat.two_pow_pos k
  apply BitVec.eq_of_toNat_eq
  rw [BitVec.toNat_setWidth, BitVec.toNat_setWidth, BitVec.toNat_and, BitVec.toNat_ofNat,
    Nat.mod_eq_of_lt (a := 2 ^ k - 1) (by omega), Nat.and_two_pow_sub_one_eq_mod, Nat.mod_eq_of_lt]
  exact Nat.lt_of_lt_of_le (Nat.mod_lt _ hpos) hle

/-- A field of a masked number is the field masked. -/
theorem and_div_mod_two_pow (n m lo k : Nat) : (n &&& m) / 2 ^ lo % 2 ^ k = n / 2 ^ lo % 2 ^ k &&& m / 2 ^ lo % 2 ^ k := by
  rw [Nat.and_div_two_pow, Nat.and_mod_two_pow]

/-- A field whose mask is full is as before. -/
theorem and_field_full {m lo k : Nat} (n : Nat) (h : m / 2 ^ lo % 2 ^ k = 2 ^ k - 1) :
    (n &&& m) / 2 ^ lo % 2 ^ k = n / 2 ^ lo % 2 ^ k := by
  rw [and_div_mod_two_pow, h, Nat.and_two_pow_sub_one_eq_mod, Nat.mod_mod]

/-- A field whose mask is empty is zero. -/
theorem and_field_empty {m lo k : Nat} (n : Nat) (h : m / 2 ^ lo % 2 ^ k = 0) : (n &&& m) / 2 ^ lo % 2 ^ k = 0 := by
  rw [and_div_mod_two_pow, h, Nat.and_zero]

theorem roundOf_code (n : Nat) : (roundOf n).code = n % 4 := by
  obtain h | h | h | h : n % 4 = 0 ∨ n % 4 = 1 ∨ n % 4 = 2 ∨ n % 4 = 3 := by omega
  all_goals rw [roundOf, h]; rfl

/-- VCSR's mask taken apart: rm, two zero bits, the flags, three zero bits, and autoc (R27). -/
theorem and_vcsr_mask (n : Nat) : n &&& 0x11F3 = n % 4 + n / 16 % 32 * 16 + n / 4096 % 2 * 4096 := by
  have hrm := and_field_full (m := 0x11F3) (lo := 0) (k := 2) n rfl
  have hlow := and_field_empty (m := 0x11F3) (lo := 2) (k := 2) n rfl
  have hflags := and_field_full (m := 0x11F3) (lo := 4) (k := 5) n rfl
  have hmid := and_field_empty (m := 0x11F3) (lo := 9) (k := 3) n rfl
  have hautoc := and_field_full (m := 0x11F3) (lo := 12) (k := 1) n rfl
  have htop : (n &&& 0x11F3) < 2 ^ 13 := Nat.and_lt_two_pow n (by decide)
  omega

/-- VCSR keeps rm, the flags and autoc of what is written (R27). -/
theorem vcsrOf_word (v : Word) : (vcsrOf v).word = v &&& 0x11F3 := by
  have hrm : (vcsrOf v).rm.code = v.toNat / 2 ^ 0 % 2 ^ 2 % 4 := roundOf_code _
  have hflags : (vcsrOf v).flags.toNat = v.toNat / 2 ^ 4 % 2 ^ 5 % 2 ^ 5 := BitVec.toNat_ofNat _ _
  have hautoc : (vcsrOf v).autoc = decide (v.toNat / 2 ^ 12 % 2 = 1) := Nat.testBit_eq_decide_div_mod_eq
  apply BitVec.eq_of_toNat_eq
  rw [BitVec.toNat_and, show (0x11F3 : Word).toNat = 0x11F3 from rfl, and_vcsr_mask, Vcsr.word, hrm, hflags, hautoc,
    BitVec.toNat_ofNat]
  simp only [decide_eq_true_eq]
  split <;> omega

theorem State.csrRead_csrWrite_same (s : State) (v : Word) : ∀ p ∈ csrMasks, (s.csrWrite p.1 v).csrRead p.1 = v &&& p.2 := by
  have hall : v = v &&& 0xFFFFFFFFFFFFFFFF := BitVec.and_allOnes.symm
  simp only [csrMasks, List.forall_mem_cons]
  exact ⟨vcsrOf_word v, setWidth_setWidth_eq_and v (k := 4) (by decide), hall, hall, rfl,
    setWidth_setWidth_eq_and v (k := 24) (by decide), setWidth_setWidth_eq_and v (k := 2) (by decide), hall,
    setWidth_setWidth_eq_and v (k := 32) (by decide), hall, fun _ h => absurd h List.not_mem_nil⟩

/-! ### GOV_AGE -/

theorem State.csrWrite_age_core (s : State) (v : Word) (g : CoreId) : (s.csrWrite 0x800 v).core g =
    if g = s.cur.key.core then { s.core g with govAge := if v.setWidth 16 < 16#16 then 16 else v.setWidth 16 } else s.core g := by
  have h := s.updCore_core s.cur.key.core g (fun c => { c with govAge := if v.setWidth 16 < 16#16 then 16 else v.setWidth 16 }) (s.core_g _)
  refine h.trans ?_
  split
  · rename_i hg; rw [hg]
  · rfl

/-- The least value of GOV_AGE is 16 (R31). -/
theorem age_field (v : Word) :
    (if v.setWidth 16 < 16#16 then 16#16 else v.setWidth 16).setWidth 64 = BitVec.ofNat 64 (max 16 (v.toNat % 65536)) := by
  have hlt : v.setWidth 16 < 16#16 ↔ v.toNat % 65536 < 16 := by rw [BitVec.lt_def, BitVec.toNat_setWidth]; rfl
  by_cases h : v.toNat % 65536 < 16
  · rw [if_pos (hlt.2 h), Nat.max_eq_left (Nat.le_of_lt h)]; rfl
  · rw [if_neg (mt hlt.1 h), Nat.max_eq_right (Nat.not_lt.1 h)]
    apply BitVec.eq_of_toNat_eq
    rw [BitVec.toNat_setWidth, BitVec.toNat_setWidth, BitVec.toNat_ofNat]

theorem State.csrRead_csrWrite_age (s : State) (v : Word) :
    (s.csrWrite 0x800 v).csrRead 0x800 = BitVec.ofNat 64 (max 16 (v.toNat % 65536)) := by
  rw [← age_field]
  show ((s.csrWrite 0x800 v).core s.cur.key.core).govAge.setWidth 64 = _
  rw [State.csrWrite_age_core, if_pos rfl]
  rfl

/-! ### The three parts of the obligation -/

theorem csrFormsReadAndWrite : CsrFormsReadAndWrite := by
  refine ⟨fun d n s h => ?_, fun p hp d a n s h => ⟨_, ?_, rfl⟩⟩
  · rw [exec_csrr, csrOp_read (s.csrCheck_read h)]
  · rw [exec_csrWrites p hp, csrOp_write (s.csrCheck_write h)]

theorem csrsHoldTheirFields : CsrsHoldTheirFields := by
  refine fun s v => ⟨fun p hp => ⟨s.csrRead_csrWrite_same v p hp, fun m hm _ => s.csrRead_csrWrite_other v hp hm, ?_, fun a => ?_⟩,
    s.csrRead_csrWrite_age v, fun g hg => ?_, rfl⟩
  · rw [State.csrWrite_rest s v hp]; rfl
  · rw [State.csrWrite_rest s v hp]; rfl
  · rw [State.csrWrite_age_core, if_neg hg]

/-- CLAIM tests the privilege before anything else. -/
theorem exec_ownClaim_user (d a : BitVec 5) (s : State) (h : s.cur.bind.supervisor = false) :
    exec (.ownClaim d a) s = .next (s.raise .scalar (fIllegal 1)) := by
  show outcome .scalar s (ownClaim d a s) = _
  unfold ownClaim
  rw [h]; rfl

theorem privilegeIsChecked : PrivilegeIsChecked := by
  refine fun d a n s => ⟨fun hu => ⟨exec_ownClaim_user d a s hu, fun p hp hn => ?_⟩, fun p hp hn => ?_, fun hro hrw hage => ?_⟩
  · rw [exec_csrWrites p hp]
    exact csrOp_error (by rw [hn]; exact s.csrCheck_user_age hu)
  · rw [exec_csrWrites p hp]
    exact csrOp_error (s.csrCheck_write_ro hn)
  · have habsent := csrAccess_absent hro hrw hage
    refine ⟨csrOp_error (s.csrCheck_absent _ habsent), fun p hp => ?_⟩
    rw [exec_csrWrites p hp]
    exact csrOp_error (s.csrCheck_absent _ habsent)

/-- Settles O18: the CSR forms are one operation behind one check, whose verdict the map's classes fix; a write changes the fields of one
CSR, which a read returns under the CSR's mask. -/
theorem csrsAndPrivilege : Obligations.CsrsAndPrivilege :=
  ⟨csrFormsReadAndWrite, csrsHoldTheirFields, privilegeIsChecked⟩

end Sys2Proof.Machine
end
